-- ==== Sys2Proof/Word.lean ====
section
/-!
DEFINITION. Word.lean: the word types of the Sprinash. Registers and addresses are 64-bit words (R19),
memory is bytes (R97), a vector register holds up to 16,384 bits (R22, R23), a mask 2,048 bits (R26).
-/

namespace Sys2Proof

/-- A 64-bit register or address (R19). -/
abbrev Word := BitVec 64
/-- One byte of memory. -/
abbrev Byte := BitVec 8
/-- A 32-bit word: an FP32 pattern, a counter of 32 bits. -/
abbrev W32 := BitVec 32
/-- A vector register; a private one uses its low VLEN bits (R22), a shared one all 16,384 (R23). -/
abbrev VReg := BitVec 16384
/-- A mask of 2,048 bits (R26). -/
abbrev Mask := BitVec 2048

end Sys2Proof
end

