-- ==== Sys2Proof/Syntax.lean ====
section
/-!
DEFINITION. Syntax.lean: the instructions and events of the Sprinash, one constructor for each row of
spec/opcode_table.json. The first part holds the encoded instructions (R40 to R57), their operands being
the encoded fields: register numbers, raw immediates (a branch or jump immediate is held without its
zero bit 0), the mask bit `vm`, the chain bits `c1` and `c2` (R45), scope and width codes. The second part
holds the steps of the device that no instruction word names (95_what_each_step_holds.md); their operands
say which hart, core, cluster, agent, partition, queue or register the step concerns.
-/

namespace Sys2Proof

/-- What the boot ROM and the loader find (R352): for each of the three stages its digest, its security
version, whether its key chain and signature verify, and the bytes of its image by the domain address they are loaded at;
and the entry addresses of the loader and of the firmware. -/
structure BootImages where
  digest   : List (BitVec 512)
  version  : List Nat
  verified : List Bool
  load     : List (List (Nat × BitVec 8))
  loaderPc : BitVec 64
  orrPc    : BitVec 64
  lodePc   : BitVec 64
deriving DecidableEq, Repr

/-- The context Lodestar restores, and whether it resumes there a hart it has pre-empted (R317, R328). -/
structure RestoreCmd where
  hart   : Nat
  resume : Bool := false
deriving DecidableEq, Repr

/-- How a host request arrives (R350): over a CXL IDE stream bound to a partition's TDI or over none, and whether the TEE
attribute is set. -/
structure IdeStream where
  tdi : Option Nat
  tee : Bool
deriving DecidableEq, Repr

/-- Where an uncorrectable error other than those with a row of their own is caught (R355). -/
inductive UncorrKind where
  | cleanLine | l2Dirty | radianceStore | pendingLaunch | copyBuffer | outsideRange
deriving DecidableEq, Repr

/-- What another package tells this one about a message that went to it (R264, R267): that its core accepted it, or refused
it, signals to its sender again, or ended it with a status and, for FAULT, a cause. -/
inductive MsgAnswer where
  | accepted
  | refused (uncounted : Bool)
  | notice
  | ended (status cause : BitVec 8)
deriving DecidableEq, Repr

/-- The atomic operations (R214). -/
inductive AmoOp where
  | swap | add | xor | and | or | min | max | minu | maxu
deriving DecidableEq, Repr

/-- An operation another package sends (R189, R205): a load, a store or an AMO of n bytes; a message of a hart there (its
`hloc` and generation, the tenant of its partition, the two operands of its `msg.send`, its number and scope); or an answer
about a message of hart `hart` of this package to the core `dst`. -/
inductive FabricOp where
  | load (n : Nat)
  | store (n : Nat)
  | amo (op : AmoOp) (n : Nat)
  | message (src : BitVec 18) (gen : BitVec 32) (ptid : BitVec 16) (record : List (BitVec 64)) (dest : BitVec 64)
      (seq : BitVec 32) (scope : BitVec 3) (trapping : Bool)
  | answer (hart : Nat) (dst : BitVec 18) (seq : BitVec 32) (a : MsgAnswer)
deriving DecidableEq, Repr

/-- One constructor per row of spec/opcode_table.json. -/
inductive Instr where
  | lui (rd : BitVec 5) (imm : BitVec 20)
  | auipc (rd : BitVec 5) (imm : BitVec 20)
  | addi (rd : BitVec 5) (rs1 : BitVec 5) (imm : BitVec 12)
  | slti (rd : BitVec 5) (rs1 : BitVec 5) (imm : BitVec 12)
  | sltiu (rd : BitVec 5) (rs1 : BitVec 5) (imm : BitVec 12)
  | xori (rd : BitVec 5) (rs1 : BitVec 5) (imm : BitVec 12)
  | ori (rd : BitVec 5) (rs1 : BitVec 5) (imm : BitVec 12)
  | andi (rd : BitVec 5) (rs1 : BitVec 5) (imm : BitVec 12)
  | slli (rd : BitVec 5) (rs1 : BitVec 5) (sh : BitVec 6)
  | srli (rd : BitVec 5) (rs1 : BitVec 5) (sh : BitVec 6)
  | srai (rd : BitVec 5) (rs1 : BitVec 5) (sh : BitVec 6)
  | addiw (rd : BitVec 5) (rs1 : BitVec 5) (imm : BitVec 12)
  | slliw (rd : BitVec 5) (rs1 : BitVec 5) (sh : BitVec 5)
  | srliw (rd : BitVec 5) (rs1 : BitVec 5) (sh : BitVec 5)
  | sraiw (rd : BitVec 5) (rs1 : BitVec 5) (sh : BitVec 5)
  | add (rd : BitVec 5) (rs1 : BitVec 5) (rs2 : BitVec 5)
  | sub (rd : BitVec 5) (rs1 : BitVec 5) (rs2 : BitVec 5)
  | sll (rd : BitVec 5) (rs1 : BitVec 5) (rs2 : BitVec 5)
  | slt (rd : BitVec 5) (rs1 : BitVec 5) (rs2 : BitVec 5)
  | sltu (rd : BitVec 5) (rs1 : BitVec 5) (rs2 : BitVec 5)
  | xor (rd : BitVec 5) (rs1 : BitVec 5) (rs2 : BitVec 5)
  | srl (rd : BitVec 5) (rs1 : BitVec 5) (rs2 : BitVec 5)
  | sra (rd : BitVec 5) (rs1 : BitVec 5) (rs2 : BitVec 5)
  | or (rd : BitVec 5) (rs1 : BitVec 5) (rs2 : BitVec 5)
  | and (rd : BitVec 5) (rs1 : BitVec 5) (rs2 : BitVec 5)
  | mul (rd : BitVec 5) (rs1 : BitVec 5) (rs2 : BitVec 5)
  | mulh (rd : BitVec 5) (rs1 : BitVec 5) (rs2 : BitVec 5)
  | mulhsu (rd : BitVec 5) (rs1 : BitVec 5) (rs2 : BitVec 5)
  | mulhu (rd : BitVec 5) (rs1 : BitVec 5) (rs2 : BitVec 5)
  | div (rd : BitVec 5) (rs1 : BitVec 5) (rs2 : BitVec 5)
  | divu (rd : BitVec 5) (rs1 : BitVec 5) (rs2 : BitVec 5)
  | rem (rd : BitVec 5) (rs1 : BitVec 5) (rs2 : BitVec 5)
  | remu (rd : BitVec 5) (rs1 : BitVec 5) (rs2 : BitVec 5)
  | addw (rd : BitVec 5) (rs1 : BitVec 5) (rs2 : BitVec 5)
  | subw (rd : BitVec 5) (rs1 : BitVec 5) (rs2 : BitVec 5)
  | sllw (rd : BitVec 5) (rs1 : BitVec 5) (rs2 : BitVec 5)
  | srlw (rd : BitVec 5) (rs1 : BitVec 5) (rs2 : BitVec 5)
  | sraw (rd : BitVec 5) (rs1 : BitVec 5) (rs2 : BitVec 5)
  | mulw (rd : BitVec 5) (rs1 : BitVec 5) (rs2 : BitVec 5)
  | divw (rd : BitVec 5) (rs1 : BitVec 5) (rs2 : BitVec 5)
  | divuw (rd : BitVec 5) (rs1 : BitVec 5) (rs2 : BitVec 5)
  | remw (rd : BitVec 5) (rs1 : BitVec 5) (rs2 : BitVec 5)
  | remuw (rd : BitVec 5) (rs1 : BitVec 5) (rs2 : BitVec 5)
  | beq (rs1 : BitVec 5) (rs2 : BitVec 5) (imm : BitVec 12)
  | bne (rs1 : BitVec 5) (rs2 : BitVec 5) (imm : BitVec 12)
  | blt (rs1 : BitVec 5) (rs2 : BitVec 5) (imm : BitVec 12)
  | bge (rs1 : BitVec 5) (rs2 : BitVec 5) (imm : BitVec 12)
  | bltu (rs1 : BitVec 5) (rs2 : BitVec 5) (imm : BitVec 12)
  | bgeu (rs1 : BitVec 5) (rs2 : BitVec 5) (imm : BitVec 12)
  | jal (rd : BitVec 5) (imm : BitVec 20)
  | jalr (rd : BitVec 5) (rs1 : BitVec 5) (imm : BitVec 12)
  | lb (rd : BitVec 5) (rs1 : BitVec 5) (imm : BitVec 12)
  | lh (rd : BitVec 5) (rs1 : BitVec 5) (imm : BitVec 12)
  | lw (rd : BitVec 5) (rs1 : BitVec 5) (imm : BitVec 12)
  | ld (rd : BitVec 5) (rs1 : BitVec 5) (imm : BitVec 12)
  | lbu (rd : BitVec 5) (rs1 : BitVec 5) (imm : BitVec 12)
  | lhu (rd : BitVec 5) (rs1 : BitVec 5) (imm : BitVec 12)
  | lwu (rd : BitVec 5) (rs1 : BitVec 5) (imm : BitVec 12)
  | sb (rs1 : BitVec 5) (rs2 : BitVec 5) (imm : BitVec 12)
  | sh (rs1 : BitVec 5) (rs2 : BitVec 5) (imm : BitVec 12)
  | sw (rs1 : BitVec 5) (rs2 : BitVec 5) (imm : BitVec 12)
  | sd (rs1 : BitVec 5) (rs2 : BitVec 5) (imm : BitVec 12)
  | fence (pred : BitVec 4) (succ : BitVec 4)
  | pause
  | fenceI
  | csrrw (rd : BitVec 5) (rs1 : BitVec 5) (csr : BitVec 12)
  | csrrs (rd : BitVec 5) (rs1 : BitVec 5) (csr : BitVec 12)
  | csrrc (rd : BitVec 5) (rs1 : BitVec 5) (csr : BitVec 12)
  | csrrwi (rd : BitVec 5) (imm : BitVec 5) (csr : BitVec 12)
  | csrrsi (rd : BitVec 5) (imm : BitVec 5) (csr : BitVec 12)
  | csrrci (rd : BitVec 5) (imm : BitVec 5) (csr : BitVec 12)
  | ecall
  | ebreak
  | sret
  | mret
  | wfi
  | sfenceVma (rs1 : BitVec 5) (rs2 : BitVec 5)
  | lr (rd : BitVec 5) (rs1 : BitVec 5) (aq : BitVec 1) (rl : BitVec 1) (ws : BitVec 3)
  | sc (rd : BitVec 5) (rs1 : BitVec 5) (rs2 : BitVec 5) (aq : BitVec 1) (rl : BitVec 1) (ws : BitVec 3)
  | amoswap (rd : BitVec 5) (rs1 : BitVec 5) (rs2 : BitVec 5) (aq : BitVec 1) (rl : BitVec 1) (ws : BitVec 3)
  | amoadd (rd : BitVec 5) (rs1 : BitVec 5) (rs2 : BitVec 5) (aq : BitVec 1) (rl : BitVec 1) (ws : BitVec 3)
  | amoxor (rd : BitVec 5) (rs1 : BitVec 5) (rs2 : BitVec 5) (aq : BitVec 1) (rl : BitVec 1) (ws : BitVec 3)
  | amoand (rd : BitVec 5) (rs1 : BitVec 5) (rs2 : BitVec 5) (aq : BitVec 1) (rl : BitVec 1) (ws : BitVec 3)
  | amoor (rd : BitVec 5) (rs1 : BitVec 5) (rs2 : BitVec 5) (aq : BitVec 1) (rl : BitVec 1) (ws : BitVec 3)
  | amomin (rd : BitVec 5) (rs1 : BitVec 5) (rs2 : BitVec 5) (aq : BitVec 1) (rl : BitVec 1) (ws : BitVec 3)
  | amomax (rd : BitVec 5) (rs1 : BitVec 5) (rs2 : BitVec 5) (aq : BitVec 1) (rl : BitVec 1) (ws : BitVec 3)
  | amominu (rd : BitVec 5) (rs1 : BitVec 5) (rs2 : BitVec 5) (aq : BitVec 1) (rl : BitVec 1) (ws : BitVec 3)
  | amomaxu (rd : BitVec 5) (rs1 : BitVec 5) (rs2 : BitVec 5) (aq : BitVec 1) (rl : BitVec 1) (ws : BitVec 3)
  | vset (rd : BitVec 5) (rs1 : BitVec 5) (z : BitVec 7)
  | vsetv (rd : BitVec 5) (rs1 : BitVec 5) (rs2 : BitVec 5)
  | vaddVv (vd : BitVec 5) (vs2 : BitVec 5) (vs1 : BitVec 5) (c2 : BitVec 1) (c1 : BitVec 1) (vm : BitVec 1)
  | vaddVx (vd : BitVec 5) (vs2 : BitVec 5) (rs1 : BitVec 5) (c2 : BitVec 1) (vm : BitVec 1)
  | vaddVi (vd : BitVec 5) (vs2 : BitVec 5) (imm : BitVec 5) (c2 : BitVec 1) (vm : BitVec 1)
  | vsubVv (vd : BitVec 5) (vs2 : BitVec 5) (vs1 : BitVec 5) (c2 : BitVec 1) (c1 : BitVec 1) (vm : BitVec 1)
  | vsubVx (vd : BitVec 5) (vs2 : BitVec 5) (rs1 : BitVec 5) (c2 : BitVec 1) (vm : BitVec 1)
  | vmulVv (vd : BitVec 5) (vs2 : BitVec 5) (vs1 : BitVec 5) (c2 : BitVec 1) (c1 : BitVec 1) (vm : BitVec 1)
  | vmulVx (vd : BitVec 5) (vs2 : BitVec 5) (rs1 : BitVec 5) (c2 : BitVec 1) (vm : BitVec 1)
  | vmulhVv (vd : BitVec 5) (vs2 : BitVec 5) (vs1 : BitVec 5) (c2 : BitVec 1) (c1 : BitVec 1) (vm : BitVec 1)
  | vmulhVx (vd : BitVec 5) (vs2 : BitVec 5) (rs1 : BitVec 5) (c2 : BitVec 1) (vm : BitVec 1)
  | vmulhuVv (vd : BitVec 5) (vs2 : BitVec 5) (vs1 : BitVec 5) (c2 : BitVec 1) (c1 : BitVec 1) (vm : BitVec 1)
  | vmulhuVx (vd : BitVec 5) (vs2 : BitVec 5) (rs1 : BitVec 5) (c2 : BitVec 1) (vm : BitVec 1)
  | vmaccVv (vd : BitVec 5) (vs2 : BitVec 5) (vs1 : BitVec 5) (c2 : BitVec 1) (c1 : BitVec 1) (vm : BitVec 1)
  | vmaccVx (vd : BitVec 5) (vs2 : BitVec 5) (rs1 : BitVec 5) (c2 : BitVec 1) (vm : BitVec 1)
  | vandVv (vd : BitVec 5) (vs2 : BitVec 5) (vs1 : BitVec 5) (c2 : BitVec 1) (c1 : BitVec 1) (vm : BitVec 1)
  | vandVx (vd : BitVec 5) (vs2 : BitVec 5) (rs1 : BitVec 5) (c2 : BitVec 1) (vm : BitVec 1)
  | vandVi (vd : BitVec 5) (vs2 : BitVec 5) (imm : BitVec 5) (c2 : BitVec 1) (vm : BitVec 1)
  | vorVv (vd : BitVec 5) (vs2 : BitVec 5) (vs1 : BitVec 5) (c2 : BitVec 1) (c1 : BitVec 1) (vm : BitVec 1)
  | vorVx (vd : BitVec 5) (vs2 : BitVec 5) (rs1 : BitVec 5) (c2 : BitVec 1) (vm : BitVec 1)
  | vorVi (vd : BitVec 5) (vs2 : BitVec 5) (imm : BitVec 5) (c2 : BitVec 1) (vm : BitVec 1)
  | vxorVv (vd : BitVec 5) (vs2 : BitVec 5) (vs1 : BitVec 5) (c2 : BitVec 1) (c1 : BitVec 1) (vm : BitVec 1)
  | vxorVx (vd : BitVec 5) (vs2 : BitVec 5) (rs1 : BitVec 5) (c2 : BitVec 1) (vm : BitVec 1)
  | vxorVi (vd : BitVec 5) (vs2 : BitVec 5) (imm : BitVec 5) (c2 : BitVec 1) (vm : BitVec 1)
  | vsllVv (vd : BitVec 5) (vs2 : BitVec 5) (vs1 : BitVec 5) (c2 : BitVec 1) (c1 : BitVec 1) (vm : BitVec 1)
  | vsllVx (vd : BitVec 5) (vs2 : BitVec 5) (rs1 : BitVec 5) (c2 : BitVec 1) (vm : BitVec 1)
  | vsllVi (vd : BitVec 5) (vs2 : BitVec 5) (imm : BitVec 5) (c2 : BitVec 1) (vm : BitVec 1)
  | vsrlVv (vd : BitVec 5) (vs2 : BitVec 5) (vs1 : BitVec 5) (c2 : BitVec 1) (c1 : BitVec 1) (vm : BitVec 1)
  | vsrlVx (vd : BitVec 5) (vs2 : BitVec 5) (rs1 : BitVec 5) (c2 : BitVec 1) (vm : BitVec 1)
  | vsrlVi (vd : BitVec 5) (vs2 : BitVec 5) (imm : BitVec 5) (c2 : BitVec 1) (vm : BitVec 1)
  | vsraVv (vd : BitVec 5) (vs2 : BitVec 5) (vs1 : BitVec 5) (c2 : BitVec 1) (c1 : BitVec 1) (vm : BitVec 1)
  | vsraVx (vd : BitVec 5) (vs2 : BitVec 5) (rs1 : BitVec 5) (c2 : BitVec 1) (vm : BitVec 1)
  | vsraVi (vd : BitVec 5) (vs2 : BitVec 5) (imm : BitVec 5) (c2 : BitVec 1) (vm : BitVec 1)
  | vminVv (vd : BitVec 5) (vs2 : BitVec 5) (vs1 : BitVec 5) (c2 : BitVec 1) (c1 : BitVec 1) (vm : BitVec 1)
  | vminVx (vd : BitVec 5) (vs2 : BitVec 5) (rs1 : BitVec 5) (c2 : BitVec 1) (vm : BitVec 1)
  | vmaxVv (vd : BitVec 5) (vs2 : BitVec 5) (vs1 : BitVec 5) (c2 : BitVec 1) (c1 : BitVec 1) (vm : BitVec 1)
  | vmaxVx (vd : BitVec 5) (vs2 : BitVec 5) (rs1 : BitVec 5) (c2 : BitVec 1) (vm : BitVec 1)
  | vminuVv (vd : BitVec 5) (vs2 : BitVec 5) (vs1 : BitVec 5) (c2 : BitVec 1) (c1 : BitVec 1) (vm : BitVec 1)
  | vminuVx (vd : BitVec 5) (vs2 : BitVec 5) (rs1 : BitVec 5) (c2 : BitVec 1) (vm : BitVec 1)
  | vmaxuVv (vd : BitVec 5) (vs2 : BitVec 5) (vs1 : BitVec 5) (c2 : BitVec 1) (c1 : BitVec 1) (vm : BitVec 1)
  | vmaxuVx (vd : BitVec 5) (vs2 : BitVec 5) (rs1 : BitVec 5) (c2 : BitVec 1) (vm : BitVec 1)
  | vfaddVv (vd : BitVec 5) (vs2 : BitVec 5) (vs1 : BitVec 5) (c2 : BitVec 1) (c1 : BitVec 1) (vm : BitVec 1)
  | vfaddVf (vd : BitVec 5) (vs2 : BitVec 5) (rs1 : BitVec 5) (c2 : BitVec 1) (vm : BitVec 1)
  | vfsubVv (vd : BitVec 5) (vs2 : BitVec 5) (vs1 : BitVec 5) (c2 : BitVec 1) (c1 : BitVec 1) (vm : BitVec 1)
  | vfsubVf (vd : BitVec 5) (vs2 : BitVec 5) (rs1 : BitVec 5) (c2 : BitVec 1) (vm : BitVec 1)
  | vfmulVv (vd : BitVec 5) (vs2 : BitVec 5) (vs1 : BitVec 5) (c2 : BitVec 1) (c1 : BitVec 1) (vm : BitVec 1)
  | vfmulVf (vd : BitVec 5) (vs2 : BitVec 5) (rs1 : BitVec 5) (c2 : BitVec 1) (vm : BitVec 1)
  | vfdivVv (vd : BitVec 5) (vs2 : BitVec 5) (vs1 : BitVec 5) (c2 : BitVec 1) (c1 : BitVec 1) (vm : BitVec 1)
  | vfdivVf (vd : BitVec 5) (vs2 : BitVec 5) (rs1 : BitVec 5) (c2 : BitVec 1) (vm : BitVec 1)
  | vfmaccVv (vd : BitVec 5) (vs2 : BitVec 5) (vs1 : BitVec 5) (c2 : BitVec 1) (c1 : BitVec 1) (vm : BitVec 1)
  | vfmaccVf (vd : BitVec 5) (vs2 : BitVec 5) (rs1 : BitVec 5) (c2 : BitVec 1) (vm : BitVec 1)
  | vfnmaccVv (vd : BitVec 5) (vs2 : BitVec 5) (vs1 : BitVec 5) (c2 : BitVec 1) (c1 : BitVec 1) (vm : BitVec 1)
  | vfnmaccVf (vd : BitVec 5) (vs2 : BitVec 5) (rs1 : BitVec 5) (c2 : BitVec 1) (vm : BitVec 1)
  | vfmsacVv (vd : BitVec 5) (vs2 : BitVec 5) (vs1 : BitVec 5) (c2 : BitVec 1) (c1 : BitVec 1) (vm : BitVec 1)
  | vfmsacVf (vd : BitVec 5) (vs2 : BitVec 5) (rs1 : BitVec 5) (c2 : BitVec 1) (vm : BitVec 1)
  | vfminVv (vd : BitVec 5) (vs2 : BitVec 5) (vs1 : BitVec 5) (c2 : BitVec 1) (c1 : BitVec 1) (vm : BitVec 1)
  | vfminVf (vd : BitVec 5) (vs2 : BitVec 5) (rs1 : BitVec 5) (c2 : BitVec 1) (vm : BitVec 1)
  | vfmaxVv (vd : BitVec 5) (vs2 : BitVec 5) (vs1 : BitVec 5) (c2 : BitVec 1) (c1 : BitVec 1) (vm : BitVec 1)
  | vfmaxVf (vd : BitVec 5) (vs2 : BitVec 5) (rs1 : BitVec 5) (c2 : BitVec 1) (vm : BitVec 1)
  | vfsgnjVv (vd : BitVec 5) (vs2 : BitVec 5) (vs1 : BitVec 5) (c2 : BitVec 1) (c1 : BitVec 1) (vm : BitVec 1)
  | vfsgnjVf (vd : BitVec 5) (vs2 : BitVec 5) (rs1 : BitVec 5) (c2 : BitVec 1) (vm : BitVec 1)
  | vfsgnjnVv (vd : BitVec 5) (vs2 : BitVec 5) (vs1 : BitVec 5) (c2 : BitVec 1) (c1 : BitVec 1) (vm : BitVec 1)
  | vfsgnjnVf (vd : BitVec 5) (vs2 : BitVec 5) (rs1 : BitVec 5) (c2 : BitVec 1) (vm : BitVec 1)
  | vfsgnjxVv (vd : BitVec 5) (vs2 : BitVec 5) (vs1 : BitVec 5) (c2 : BitVec 1) (c1 : BitVec 1) (vm : BitVec 1)
  | vfsgnjxVf (vd : BitVec 5) (vs2 : BitVec 5) (rs1 : BitVec 5) (c2 : BitVec 1) (vm : BitVec 1)
  | vfsqrt (vd : BitVec 5) (vs2 : BitVec 5) (c2 : BitVec 1) (vm : BitVec 1)
  | vfclass (vd : BitVec 5) (vs2 : BitVec 5) (c2 : BitVec 1) (vm : BitVec 1)
  | vmseqVv (vd : BitVec 5) (vs2 : BitVec 5) (vs1 : BitVec 5) (c2 : BitVec 1) (c1 : BitVec 1) (vm : BitVec 1)
  | vmseqVx (vd : BitVec 5) (vs2 : BitVec 5) (rs1 : BitVec 5) (c2 : BitVec 1) (vm : BitVec 1)
  | vmseqVi (vd : BitVec 5) (vs2 : BitVec 5) (imm : BitVec 5) (c2 : BitVec 1) (vm : BitVec 1)
  | vmsneVv (vd : BitVec 5) (vs2 : BitVec 5) (vs1 : BitVec 5) (c2 : BitVec 1) (c1 : BitVec 1) (vm : BitVec 1)
  | vmsneVx (vd : BitVec 5) (vs2 : BitVec 5) (rs1 : BitVec 5) (c2 : BitVec 1) (vm : BitVec 1)
  | vmsneVi (vd : BitVec 5) (vs2 : BitVec 5) (imm : BitVec 5) (c2 : BitVec 1) (vm : BitVec 1)
  | vmsltVv (vd : BitVec 5) (vs2 : BitVec 5) (vs1 : BitVec 5) (c2 : BitVec 1) (c1 : BitVec 1) (vm : BitVec 1)
  | vmsltVx (vd : BitVec 5) (vs2 : BitVec 5) (rs1 : BitVec 5) (c2 : BitVec 1) (vm : BitVec 1)
  | vmsltuVv (vd : BitVec 5) (vs2 : BitVec 5) (vs1 : BitVec 5) (c2 : BitVec 1) (c1 : BitVec 1) (vm : BitVec 1)
  | vmsltuVx (vd : BitVec 5) (vs2 : BitVec 5) (rs1 : BitVec 5) (c2 : BitVec 1) (vm : BitVec 1)
  | vmsleVv (vd : BitVec 5) (vs2 : BitVec 5) (vs1 : BitVec 5) (c2 : BitVec 1) (c1 : BitVec 1) (vm : BitVec 1)
  | vmsleVx (vd : BitVec 5) (vs2 : BitVec 5) (rs1 : BitVec 5) (c2 : BitVec 1) (vm : BitVec 1)
  | vmsleVi (vd : BitVec 5) (vs2 : BitVec 5) (imm : BitVec 5) (c2 : BitVec 1) (vm : BitVec 1)
  | vmsleuVv (vd : BitVec 5) (vs2 : BitVec 5) (vs1 : BitVec 5) (c2 : BitVec 1) (c1 : BitVec 1) (vm : BitVec 1)
  | vmsleuVx (vd : BitVec 5) (vs2 : BitVec 5) (rs1 : BitVec 5) (c2 : BitVec 1) (vm : BitVec 1)
  | vmsleuVi (vd : BitVec 5) (vs2 : BitVec 5) (imm : BitVec 5) (c2 : BitVec 1) (vm : BitVec 1)
  | vsaddVv (vd : BitVec 5) (vs2 : BitVec 5) (vs1 : BitVec 5) (c2 : BitVec 1) (c1 : BitVec 1) (vm : BitVec 1)
  | vsaddVx (vd : BitVec 5) (vs2 : BitVec 5) (rs1 : BitVec 5) (c2 : BitVec 1) (vm : BitVec 1)
  | vsaddVi (vd : BitVec 5) (vs2 : BitVec 5) (imm : BitVec 5) (c2 : BitVec 1) (vm : BitVec 1)
  | vsadduVv (vd : BitVec 5) (vs2 : BitVec 5) (vs1 : BitVec 5) (c2 : BitVec 1) (c1 : BitVec 1) (vm : BitVec 1)
  | vsadduVx (vd : BitVec 5) (vs2 : BitVec 5) (rs1 : BitVec 5) (c2 : BitVec 1) (vm : BitVec 1)
  | vsadduVi (vd : BitVec 5) (vs2 : BitVec 5) (imm : BitVec 5) (c2 : BitVec 1) (vm : BitVec 1)
  | vssubVv (vd : BitVec 5) (vs2 : BitVec 5) (vs1 : BitVec 5) (c2 : BitVec 1) (c1 : BitVec 1) (vm : BitVec 1)
  | vssubVx (vd : BitVec 5) (vs2 : BitVec 5) (rs1 : BitVec 5) (c2 : BitVec 1) (vm : BitVec 1)
  | vssubuVv (vd : BitVec 5) (vs2 : BitVec 5) (vs1 : BitVec 5) (c2 : BitVec 1) (c1 : BitVec 1) (vm : BitVec 1)
  | vssubuVx (vd : BitVec 5) (vs2 : BitVec 5) (rs1 : BitVec 5) (c2 : BitVec 1) (vm : BitVec 1)
  | vdivVv (vd : BitVec 5) (vs2 : BitVec 5) (vs1 : BitVec 5) (c2 : BitVec 1) (c1 : BitVec 1) (vm : BitVec 1)
  | vdivVx (vd : BitVec 5) (vs2 : BitVec 5) (rs1 : BitVec 5) (c2 : BitVec 1) (vm : BitVec 1)
  | vdivuVv (vd : BitVec 5) (vs2 : BitVec 5) (vs1 : BitVec 5) (c2 : BitVec 1) (c1 : BitVec 1) (vm : BitVec 1)
  | vdivuVx (vd : BitVec 5) (vs2 : BitVec 5) (rs1 : BitVec 5) (c2 : BitVec 1) (vm : BitVec 1)
  | vremVv (vd : BitVec 5) (vs2 : BitVec 5) (vs1 : BitVec 5) (c2 : BitVec 1) (c1 : BitVec 1) (vm : BitVec 1)
  | vremVx (vd : BitVec 5) (vs2 : BitVec 5) (rs1 : BitVec 5) (c2 : BitVec 1) (vm : BitVec 1)
  | vremuVv (vd : BitVec 5) (vs2 : BitVec 5) (vs1 : BitVec 5) (c2 : BitVec 1) (c1 : BitVec 1) (vm : BitVec 1)
  | vremuVx (vd : BitVec 5) (vs2 : BitVec 5) (rs1 : BitVec 5) (c2 : BitVec 1) (vm : BitVec 1)
  | vmergeVv (vd : BitVec 5) (vs2 : BitVec 5) (vs1 : BitVec 5) (c2 : BitVec 1) (c1 : BitVec 1)
  | vmergeVx (vd : BitVec 5) (vs2 : BitVec 5) (rs1 : BitVec 5) (c2 : BitVec 1)
  | vmergeVi (vd : BitVec 5) (vs2 : BitVec 5) (imm : BitVec 5) (c2 : BitVec 1)
  | vmvVv (vd : BitVec 5) (vs1 : BitVec 5) (c1 : BitVec 1)
  | vmvVx (vd : BitVec 5) (rs1 : BitVec 5)
  | vmvVi (vd : BitVec 5) (imm : BitVec 5)
  | vmfeq (vd : BitVec 5) (vs2 : BitVec 5) (vs1 : BitVec 5) (c2 : BitVec 1) (c1 : BitVec 1) (vm : BitVec 1)
  | vmfne (vd : BitVec 5) (vs2 : BitVec 5) (vs1 : BitVec 5) (c2 : BitVec 1) (c1 : BitVec 1) (vm : BitVec 1)
  | vmflt (vd : BitVec 5) (vs2 : BitVec 5) (vs1 : BitVec 5) (c2 : BitVec 1) (c1 : BitVec 1) (vm : BitVec 1)
  | vmfle (vd : BitVec 5) (vs2 : BitVec 5) (vs1 : BitVec 5) (c2 : BitVec 1) (c1 : BitVec 1) (vm : BitVec 1)
  | vmand (vd : BitVec 5) (vs2 : BitVec 5) (vs1 : BitVec 5) (c2 : BitVec 1) (c1 : BitVec 1)
  | vmor (vd : BitVec 5) (vs2 : BitVec 5) (vs1 : BitVec 5) (c2 : BitVec 1) (c1 : BitVec 1)
  | vmxor (vd : BitVec 5) (vs2 : BitVec 5) (vs1 : BitVec 5) (c2 : BitVec 1) (c1 : BitVec 1)
  | vmandn (vd : BitVec 5) (vs2 : BitVec 5) (vs1 : BitVec 5) (c2 : BitVec 1) (c1 : BitVec 1)
  | vcpop (rd : BitVec 5) (vs2 : BitVec 5) (c2 : BitVec 1)
  | vfirst (rd : BitVec 5) (vs2 : BitVec 5) (c2 : BitVec 1)
  | viota (vd : BitVec 5) (vs2 : BitVec 5) (c2 : BitVec 1) (vm : BitVec 1)
  | vid (vd : BitVec 5) (vm : BitVec 1)
  | vredsum (vd : BitVec 5) (vs2 : BitVec 5) (vs1 : BitVec 5) (c2 : BitVec 1) (c1 : BitVec 1) (vm : BitVec 1)
  | vredmax (vd : BitVec 5) (vs2 : BitVec 5) (vs1 : BitVec 5) (c2 : BitVec 1) (c1 : BitVec 1) (vm : BitVec 1)
  | vredmin (vd : BitVec 5) (vs2 : BitVec 5) (vs1 : BitVec 5) (c2 : BitVec 1) (c1 : BitVec 1) (vm : BitVec 1)
  | vredmaxu (vd : BitVec 5) (vs2 : BitVec 5) (vs1 : BitVec 5) (c2 : BitVec 1) (c1 : BitVec 1) (vm : BitVec 1)
  | vredminu (vd : BitVec 5) (vs2 : BitVec 5) (vs1 : BitVec 5) (c2 : BitVec 1) (c1 : BitVec 1) (vm : BitVec 1)
  | vredand (vd : BitVec 5) (vs2 : BitVec 5) (vs1 : BitVec 5) (c2 : BitVec 1) (c1 : BitVec 1) (vm : BitVec 1)
  | vredor (vd : BitVec 5) (vs2 : BitVec 5) (vs1 : BitVec 5) (c2 : BitVec 1) (c1 : BitVec 1) (vm : BitVec 1)
  | vredxor (vd : BitVec 5) (vs2 : BitVec 5) (vs1 : BitVec 5) (c2 : BitVec 1) (c1 : BitVec 1) (vm : BitVec 1)
  | vfredsum (vd : BitVec 5) (vs2 : BitVec 5) (vs1 : BitVec 5) (c2 : BitVec 1) (c1 : BitVec 1) (vm : BitVec 1)
  | vfredmax (vd : BitVec 5) (vs2 : BitVec 5) (vs1 : BitVec 5) (c2 : BitVec 1) (c1 : BitVec 1) (vm : BitVec 1)
  | vfredmin (vd : BitVec 5) (vs2 : BitVec 5) (vs1 : BitVec 5) (c2 : BitVec 1) (c1 : BitVec 1) (vm : BitVec 1)
  | vslideup (vd : BitVec 5) (vs2 : BitVec 5) (rs1 : BitVec 5) (c2 : BitVec 1) (vm : BitVec 1)
  | vslidedown (vd : BitVec 5) (vs2 : BitVec 5) (rs1 : BitVec 5) (c2 : BitVec 1) (vm : BitVec 1)
  | vslide1up (vd : BitVec 5) (vs2 : BitVec 5) (rs1 : BitVec 5) (c2 : BitVec 1) (vm : BitVec 1)
  | vslide1down (vd : BitVec 5) (vs2 : BitVec 5) (rs1 : BitVec 5) (c2 : BitVec 1) (vm : BitVec 1)
  | vrgather (vd : BitVec 5) (vs2 : BitVec 5) (vs1 : BitVec 5) (c2 : BitVec 1) (c1 : BitVec 1) (vm : BitVec 1)
  | vcompress (vd : BitVec 5) (vs2 : BitVec 5) (vs1 : BitVec 5) (c2 : BitVec 1) (c1 : BitVec 1)
  | vmvxs (rd : BitVec 5) (vs2 : BitVec 5) (c2 : BitVec 1)
  | vmvsx (vd : BitVec 5) (rs1 : BitVec 5)
  | vcvt (vd : BitVec 5) (vs2 : BitVec 5) (w : BitVec 2) (f : BitVec 3) (c2 : BitVec 1) (vm : BitVec 1)
  | vfrsqrt (vd : BitVec 5) (vs2 : BitVec 5) (c2 : BitVec 1) (vm : BitVec 1)
  | vfrcp (vd : BitVec 5) (vs2 : BitVec 5) (c2 : BitVec 1) (vm : BitVec 1)
  | vfexp2 (vd : BitVec 5) (vs2 : BitVec 5) (c2 : BitVec 1) (vm : BitVec 1)
  | vflog2 (vd : BitVec 5) (vs2 : BitVec 5) (c2 : BitVec 1) (vm : BitVec 1)
  | vfsin (vd : BitVec 5) (vs2 : BitVec 5) (c2 : BitVec 1) (vm : BitVec 1)
  | vfcos (vd : BitVec 5) (vs2 : BitVec 5) (c2 : BitVec 1) (vm : BitVec 1)
  | vmpush (vs1 : BitVec 5) (c1 : BitVec 1)
  | vmelse
  | vmpop
  | vfchk (vs1 : BitVec 5) (c1 : BitVec 1)
  | vfmclr
  | vappend (vs2 : BitVec 5) (rs1 : BitVec 5) (c2 : BitVec 1) (vm : BitVec 1)
  | vle (vd : BitVec 5) (rs1 : BitVec 5) (w : BitVec 3) (vm : BitVec 1)
  | vleS (vd : BitVec 5) (rs1 : BitVec 5) (w : BitVec 3)
  | vlse (vd : BitVec 5) (rs1 : BitVec 5) (rs2 : BitVec 5) (w : BitVec 3) (vm : BitVec 1)
  | vlseS (vd : BitVec 5) (rs1 : BitVec 5) (rs2 : BitVec 5) (w : BitVec 3)
  | vlxe (vd : BitVec 5) (vs2 : BitVec 5) (rs1 : BitVec 5) (w : BitVec 3) (vm : BitVec 1)
  | vlxeS (vd : BitVec 5) (vs2 : BitVec 5) (rs1 : BitVec 5) (w : BitVec 3)
  | vse (vs3 : BitVec 5) (rs1 : BitVec 5) (w : BitVec 3) (vm : BitVec 1)
  | vsse (vs3 : BitVec 5) (rs1 : BitVec 5) (rs2 : BitVec 5) (w : BitVec 3) (vm : BitVec 1)
  | vsxe (vs3 : BitVec 5) (vs2 : BitVec 5) (rs1 : BitVec 5) (w : BitVec 3) (vm : BitVec 1)
  | mset (rd : BitVec 5) (rs1 : BitVec 5)
  | mrel (rs1 : BitVec 5)
  | mzero (g : BitVec 1)
  | mopa (g : BitVec 1) (vs2 : BitVec 2) (vs1 : BitVec 5)
  | mops (g : BitVec 1) (vs2 : BitVec 2) (vs1 : BitVec 5)
  | mopai (g : BitVec 1) (vs2 : BitVec 2) (vs1 : BitVec 5)
  | mrd (vd : BitVec 5) (g : BitVec 1) (rs1 : BitVec 5)
  | mwr (g : BitVec 1) (vs2 : BitVec 5) (rs1 : BitVec 5)
  | mrdc (vd : BitVec 5) (g : BitVec 1) (rs1 : BitVec 5)
  | mwrc (g : BitVec 1) (vs2 : BitVec 5) (rs1 : BitVec 5)
  | mdot (vd : BitVec 5) (grp : BitVec 2) (vs2 : BitVec 5) (vs1 : BitVec 5)
  | vmaxexp (vs2 : BitVec 5) (vm : BitVec 1)
  | vqst (vs3 : BitVec 5) (rs1 : BitVec 5) (vm : BitVec 1)
  | vqst2 (vs3 : BitVec 5) (rs1 : BitVec 5) (vm : BitVec 1)
  | vqsave (rs1 : BitVec 5)
  | vqload (rs1 : BitVec 5)
  | vscsave (rs1 : BitVec 5)
  | vscload (rs1 : BitVec 5)
  | vqclr
  | taskSpawn (rd : BitVec 5) (rs1 : BitVec 5)
  | taskSpawnt (rs1 : BitVec 5)
  | taskFork (rd : BitVec 5) (rs1 : BitVec 5)
  | taskForkt (rs1 : BitVec 5)
  | taskPop (rd : BitVec 5) (rs1 : BitVec 5)
  | taskJoin (rd : BitVec 5) (rs1 : BitVec 5) (scope : BitVec 3)
  | taskExit
  | gbarArrive (rd : BitVec 5) (rs1 : BitVec 5) (n : BitVec 4)
  | gbarMax (rd : BitVec 5) (rs1 : BitVec 5) (n : BitVec 4)
  | gbarMin (rd : BitVec 5) (rs1 : BitVec 5) (n : BitVec 4)
  | gbarAdd (rd : BitVec 5) (rs1 : BitVec 5) (n : BitVec 4)
  | gbarOr (rd : BitVec 5) (rs1 : BitVec 5) (n : BitVec 4)
  | msgSend (rd : BitVec 5) (rs1 : BitVec 5) (rs2 : BitVec 5) (scope : BitVec 3)
  | msgSendt (rs1 : BitVec 5) (rs2 : BitVec 5) (scope : BitVec 3)
  | msgDone
  | wait (rd : BitVec 5) (rs1 : BitVec 5) (rs2 : BitVec 5) (scope : BitVec 3)
  | fenceS (scope : BitVec 3) (pred : BitVec 4) (succ : BitVec 4)
  | pub (rs1 : BitVec 5)
  | ldaW (rd : BitVec 5) (rs1 : BitVec 5) (scope : BitVec 3)
  | ldaD (rd : BitVec 5) (rs1 : BitVec 5) (scope : BitVec 3)
  | stlW (rs1 : BitVec 5) (rs2 : BitVec 5) (scope : BitVec 3)
  | stlD (rs1 : BitVec 5) (rs2 : BitVec 5) (scope : BitVec 3)
  | aqNotify (rs1 : BitVec 5) (rs2 : BitVec 5) (scope : BitVec 3)
  | tcopy (rd : BitVec 5) (rs1 : BitVec 5) (scope : BitVec 3)
  | cmAcq (rd : BitVec 5) (rs1 : BitVec 5) (rs2 : BitVec 5)
  | strmSet (rs1 : BitVec 5) (k : BitVec 2)
  | vtex (vd : BitVec 5) (vs2 : BitVec 5) (rs1 : BitVec 5) (vm : BitVec 1)
  | vrayq (vd : BitVec 5) (vs2 : BitVec 5) (rs1 : BitVec 5) (vm : BitVec 1)
  | vrayo (vd : BitVec 5) (vs2 : BitVec 5) (rs1 : BitVec 5) (vm : BitVec 1)
  | vsobol (vd : BitVec 5) (vs2 : BitVec 5) (rs1 : BitVec 5) (vm : BitVec 1)
  | vvbmin (vd : BitVec 5) (vs2 : BitVec 5) (rs1 : BitVec 5) (vm : BitVec 1)
  | vblend (vd : BitVec 5) (vs2 : BitVec 5) (rs1 : BitVec 5) (vm : BitVec 1)
  | rcQ (vd : BitVec 5) (vs2 : BitVec 5) (vm : BitVec 1)
  | rcQt (vd : BitVec 5) (vs2 : BitVec 5) (vs1 : BitVec 5) (vm : BitVec 1)
  | fwRing (rd : BitVec 5) (rs1 : BitVec 5) (rs2 : BitVec 5)
  | fwBext (rd : BitVec 5) (rs1 : BitVec 5) (lo : BitVec 6) (len1 : BitVec 6)
  | fwSwait (rd : BitVec 5) (rs1 : BitVec 5)
  | fwDisp (rd : BitVec 5) (rs1 : BitVec 5) (rs2 : BitVec 5)
  | fwQcbld (rd : BitVec 5) (rs1 : BitVec 5)
  | fwQcbst (rs1 : BitVec 5) (rs2 : BitVec 5)
  | matrixQueueExecute (core : Nat)
  | copyElementMove (core : Nat) (n : Nat)
  | chunkComplete (core : Nat) (n : Nat)
  | copyComplete (core : Nat) (n : Nat)
  | copyFault (core : Nat) (n : Nat)
  | streamRefill (hart : Nat) (k : Nat) (i : Nat)
  | deferredException (hart : Nat)
  | interrupt (hart : Nat)
  | cycleCompare (hart : Nat)
  | wfiWake (hart : Nat)
  | waitWake (hart : Nat)
  | cmAcqWake (hart : Nat)
  | taskPopWake (hart : Nat)
  | gbarWake (hart : Nat)
  | fwSwaitWake (hart : Nat)
  | preemptionRequest (hart : Nat)
  | saveComplete (hart : Nat)
  | ctxSave (hart : Nat)
  | ctxRestore (cmd : RestoreCmd)
  | restoreComplete (hart : Nat)
  | ctxRetire (hart : Nat)
  | retireComplete (hart : Nat)
  | lsevt0Pop (cl : Nat)
  | messageArrival (n : Nat)
  | messageRun (core : Nat)
  | messageLimit (core : Nat)
  | contextFreeNotice (n : Nat)
  | uncountedResend (hart : Nat) (dest : Nat)
  | notify (n : Nat)
  | hostPacing (n : Nat)
  | lodestarDoorbell (n : Nat)
  | presentationReferenceEdge (part : Nat)
  | agentNop (ag : Nat) (q : Nat)
  | bicubic (ag : Nat) (q : Nat)
  | bilinear (ag : Nat) (q : Nat)
  | dicingRecordEmit (ag : Nat)
  | grid (ag : Nat) (q : Nat)
  | triangle (ag : Nat) (q : Nat)
  | blend (ag : Nat) (q : Nat)
  | present (ag : Nat) (q : Nat)
  | presentSettle (ag : Nat) (q : Nat)
  | aqctlEnable (ag : Nat) (q : Nat) (v : BitVec 64)
  | aqctlDisable (ag : Nat) (q : Nat) (v : BitVec 64)
  | aqheadWrite (ag : Nat) (q : Nat) (v : BitVec 64)
  | hwEnable (part : Nat) (n : Nat) (v : BitVec 64)
  | hwDisable (part : Nat) (n : Nat) (v : BitVec 64)
  | hwverWrite (part : Nat) (n : Nat) (v : BitVec 64)
  | rcBind (cl : Nat) (v : BitVec 64)
  | rcLoadComplete (cl : Nat)
  | rcUnbind (cl : Nat)
  | rcWritebackRequest (cl : Nat) (v : BitVec 64)
  | rcWriteback (cl : Nat)
  | afterglowStep (cl : Nat)
  | rcPublish (cl : Nat)
  | tlbinv (cl : Nat) (v : BitVec 64)
  | wdpet (part : Nat) (hart : Nat)
  | vlpWrite (cl : Nat) (v : BitVec 64)
  | vlpApply (core : Nat)
  | lmsplitWrite (core : Nat) (v : BitVec 64)
  | lmgroupWrite (core : Nat) (v : BitVec 64)
  | lmfmtWrite (core : Nat) (n : Nat) (v : BitVec 64)
  | cflagsClear (cl : Nat) (v : BitVec 64)
  | flagUnion (cl : Nat)
  | fwkpendClear (iod : Nat) (v : BitVec 64)
  | fwalmWrite (iod : Nat) (v : BitVec 64)
  | fwsmapBind (iod : Nat) (n : Nat) (v : BitVec 64)
  | fwsmapUnbind (iod : Nat) (n : Nat)
  | fwpaceWrite (iod : Nat) (v : BitVec 64)
  | scyccmpWrite (hart : Nat) (v : BitVec 64)
  | sipNotifyClear (hart : Nat) (v : BitVec 64)
  | strmctlWrite (hart : Nat) (v : BitVec 64)
  | registerWrite (hart : Nat) (addr : Nat) (v : BitVec 64)
  | hostKick (port : Nat) (addr : Nat) (v : BitVec 64)
  | kickRestart (iod : Nat) (n : Nat)
  | bitmapStoreRetry (iod : Nat)
  | schedulingRound (iod : Nat)
  | launch (iod : Nat) (n : Nat)
  | signal (iod : Nat) (n : Nat)
  | pace (iod : Nat) (n : Nat)
  | nop (iod : Nat) (n : Nat)
  | unservedRecord (cl : Nat) (n : Nat)
  | continuationDeferred (cl : Nat)
  | svcAttach (hart : Nat)
  | svcReply (hart : Nat)
  | qcbWrite (hart : Nat)
  | svcForwarded (hart : Nat)
  | serviceRingRound (cl : Nat)
  | watchdogExpiry (part : Nat)
  | uncorrectableSramError (core : Nat) (addr : Nat)
  | registerFileParityError (core : Nat) (n : Nat)
  | uncorrectableTierMemoryError (hart : Nat) (addr : Nat)
  | correctableError (n : Nat)
  | coreFenced (core : Nat)
  | coreRepair (core : Nat)
  | lockInterfaceRequest (part : Nat)
  | startInterfaceRequest (part : Nat)
  | stopInterfaceRequest (part : Nat)
  | hostMemoryRequest (port : Nat) (strm : IdeStream) (wr : Bool) (addr : Nat) (v : BitVec 64)
  | ownershipFlipToHost (page : Nat)
  | ownershipFlipToDevice (page : Nat)
  | fabricRemoteOperation (src : Nat) (seq : BitVec 32) (op : FabricOp) (addr : Nat) (v : BitVec 64)
  | flitFailure (link : Nat) (part : Nat) (tag : Bool)
  | linkRetrain (link : Nat) (lane : Nat)
  | keyUpdate (link : Nat) (dir : Nat)
  | coreThrottle (die : Nat) (n : Nat)
  | deviceReset
  | boot (img : BootImages)
  | getMeasurements (n : Nat)
  | mgmtReadIdentity
  | mgmtReadTelemetry
  | mgmtResetRequest
  | illegalInstruction (w : BitVec 32)
  | instructionFetchFault (cause : BitVec 8) (addr : Nat)
  | uncorrectableError (kind : UncorrKind) (n : Nat) (addr : Nat)
  | coreRailSetting (die : Nat) (temp : Nat)
  | linkKeyInstall (part : Nat) (link : Nat) (secret : BitVec 64)
deriving DecidableEq, Repr

end Sys2Proof
end

