-- ==== Sys2Proof/WellFormed.lean ====
section
/-!
DEFINITION. WellFormed.lean: the checks between the fields of one instruction that no single fixed field
says, which the decoder and every meaning make (R58: they precede every other check and raise cause 0x02),
and the ranges of the events' operands. `Fields` names the fields of a word (R44); `Reject` why a word is no
instruction.
-/

namespace Sys2Proof

/-- The fields of a 32-bit word, from the least significant: op [6:0], rd [11:7], f3 [14:12], rs1 [19:15],
rs2 [24:20], vm [25], c1 [26], c2 [27], f4 [31:28] (R44). -/
structure Fields where
  op  : BitVec 7
  rd  : BitVec 5
  f3  : BitVec 3
  rs1 : BitVec 5
  rs2 : BitVec 5
  vm  : BitVec 1
  c1  : BitVec 1
  c2  : BitVec 1
  f4  : BitVec 4
deriving DecidableEq, Repr

/-- Why a word is no instruction: a 16-bit encoding or a 48-bit or wider one (R40), a word the maps of R42
to R56 do not assign, or a word whose fields do not go together. Each raises cause 0x02. -/
inductive Reject where
  | halfword | wide | unassigned | fields
deriving DecidableEq, Repr

/-- The legal pairs of `vtype` (R24): format code and element-width code. -/
def legalPair (fmt : BitVec 3) (sew : BitVec 2) : Bool :=
  match fmt.toNat with
  | 0 => true
  | 1 => sew = 3
  | 2 => sew = 2
  | 3 | 4 => sew = 1
  | _ => sew = 0

/-- A register group of `n` registers starts at a multiple of `al` (n rounded up to a power of two, R55);
an aligned group never crosses from v15 to sv0. -/
def groupAligned (al : Nat) (r : BitVec 5) : Bool := r.toNat % al = 0

/-- Two register groups have a register in common. -/
def groupsMeet (r : BitVec 5) (n : Nat) (q : BitVec 5) (k : Nat) : Bool :=
  r.toNat < q.toNat + k && q.toNat < r.toNat + n

/-- The group checks of an Xlgfx instruction (R55, R155 step 1): a destination group of `nd` registers
aligned to `ad`, a source group of `ns` aligned to `as`, no overlap, and no masked write of `v0`. -/
def gfxWf (vd : BitVec 5) (nd ad : Nat) (vs2 : BitVec 5) (ns as : Nat) (vm : BitVec 1) : Bool :=
  groupAligned ad vd && groupAligned as vs2 && !groupsMeet vd nd vs2 ns &&
    !(vm = 1 && vd = 0)

/-- A scope code of the Q format (R47). -/
def scopeOk (c : BitVec 3) : Bool := c.toNat ≤ 4

/-- Cores of the package, the spares (R7) among them: 0 to 383 logical cores, 384 + cluster the spares. -/
def numCores : Nat := 432
/-- Harts that execute instructions: 8 contexts and a message hart for each core, 48 Lodestar harts and 8
Orrery cores (R7). -/
def numHarts : Nat := 3944

/-- An operation of another package has a width its kind may have (R189, R210) and names a hart of this package. -/
def FabricOp.wf : FabricOp → Bool
  | .load n | .store n => n = 1 || n = 2 || n = 4 || n = 8
  | .amo _ n => n = 4 || n = 8
  | .message _ _ _ l _ _ c _ => l.length = 8 && scopeOk c
  | .answer h _ _ _ => h < numHarts

/-- An instruction is well formed: the checks of R46 (memory widths), R47 (scopes), R50 (the source pair of
vcvt), R55, R155 and R178 (register groups), R56 (lo + len of fw.bext), R124 and R217 (registers that must
differ), R216 (nonempty sets), and `fence` with the words of `pause` left to `pause` (R100). An event is well
formed when it names hardware that the package holds (R7, R15). -/
def Instr.wf : Instr → Bool
  | .fence pred succ => !(pred = 1 && succ = 0)
  | .vle _ _ w _ | .vleS _ _ w | .vse _ _ w _ => w.toNat ≤ 5
  | .vlse _ _ _ w _ | .vlseS _ _ _ w | .vsse _ _ _ w _ | .vsxe _ _ _ w _ => w.toNat ≤ 3
  | .vlxe vd vs2 _ w _ => w.toNat ≤ 3 && vd ≠ vs2
  | .vlxeS vd vs2 _ w => w.toNat ≤ 3 && vd ≠ vs2
  | .vslideup vd vs2 _ _ _ | .vslide1up vd vs2 _ _ _ | .viota vd vs2 _ _ => vd ≠ vs2
  | .vrgather vd vs2 vs1 _ _ _ | .vcompress vd vs2 vs1 _ _ => vd ≠ vs2 && vd ≠ vs1
  | .vcvt _ _ w f _ _ => legalPair f w
  | .taskJoin _ _ c | .msgSend _ _ _ c | .msgSendt _ _ c | .wait _ _ _ c | .ldaW _ _ c | .ldaD _ _ c
  | .stlW _ _ c | .stlD _ _ c | .aqNotify _ _ c | .tcopy _ _ c => scopeOk c
  | .fenceS c p q => scopeOk c && p ≠ 0 && q ≠ 0
  | .vtex vd vs2 _ vm => gfxWf vd 4 4 vs2 3 4 vm
  | .vrayq vd vs2 _ vm => gfxWf vd 4 4 vs2 8 8 vm
  | .vrayo vd vs2 _ vm => gfxWf vd 1 1 vs2 8 8 vm
  | .vsobol vd vs2 _ vm => gfxWf vd 1 1 vs2 2 2 vm
  | .vvbmin vd vs2 _ vm | .vblend vd vs2 _ vm => gfxWf vd 1 1 vs2 1 1 vm
  | .rcQ vd vs2 vm => gfxWf vd 4 4 vs2 8 8 vm
  | .rcQt vd vs2 vs1 vm =>
    gfxWf vd 4 4 vs2 8 8 vm && !groupsMeet vs1 1 vd 4 && !groupsMeet vs1 1 vs2 8
  | .fwBext _ _ lo len1 => lo.toNat + len1.toNat + 1 ≤ 64
  | .matrixQueueExecute c | .copyElementMove c _ | .chunkComplete c _ | .copyComplete c _
  | .copyFault c _ | .messageRun c | .messageLimit c | .vlpApply c | .lmsplitWrite c _
  | .lmgroupWrite c _ | .uncorrectableSramError c _ | .registerFileParityError c _ | .coreFenced c
  | .coreRepair c => c < numCores
  | .lmfmtWrite c n _ => c < numCores && n < 16
  | .streamRefill h k _ => h < numHarts && k < 4
  | .uncountedResend h d => h < numHarts && d < 32768
  | .deferredException h | .interrupt h | .cycleCompare h | .wfiWake h | .waitWake h | .cmAcqWake h
  | .taskPopWake h | .gbarWake h | .fwSwaitWake h | .preemptionRequest h | .saveComplete h
  | .ctxSave h | .ctxRestore ⟨h, _⟩ | .restoreComplete h | .ctxRetire h | .retireComplete h
  | .scyccmpWrite h _ | .sipNotifyClear h _ | .strmctlWrite h _ | .registerWrite h _ _ | .svcAttach h
  | .svcReply h | .qcbWrite h | .svcForwarded h | .uncorrectableTierMemoryError h _ => h < numHarts
  | .lsevt0Pop c | .rcLoadComplete c | .rcUnbind c | .rcWriteback c | .afterglowStep c | .rcPublish c
  | .flagUnion c | .continuationDeferred c | .serviceRingRound c => c < 48
  | .rcBind c _ | .rcWritebackRequest c _ | .tlbinv c _ | .vlpWrite c _ | .cflagsClear c _
  | .unservedRecord c _ => c < 48
  | .presentationReferenceEdge p | .watchdogExpiry p | .lockInterfaceRequest p
  | .startInterfaceRequest p | .stopInterfaceRequest p => p < 8
  | .wdpet p h => p < 8 && h < numHarts
  | .hwEnable p n _ | .hwDisable p n _ | .hwverWrite p n _ => p < 8 && n < 16
  | .agentNop a q | .bicubic a q | .bilinear a q | .grid a q | .triangle a q | .blend a q
  | .present a q | .presentSettle a q | .aqctlEnable a q _ | .aqctlDisable a q _ | .aqheadWrite a q _ =>
    a < 24 && q < 8
  | .dicingRecordEmit a => a < 24
  | .fwkpendClear d _ | .fwalmWrite d _ | .fwpaceWrite d _ | .bitmapStoreRetry d
  | .schedulingRound d => d < 2
  | .fwsmapBind d n _ | .fwsmapUnbind d n => d < 2 && n < 64
  | .kickRestart d _ | .launch d _ | .signal d _ | .pace d _ | .nop d _ => d < 2
  | .hostKick p _ _ | .hostMemoryRequest p _ _ _ _ => p < 2
  | .fabricRemoteOperation _ _ op _ _ => op.wf
  | .flitFailure l p _ => l < 16 && p < 9
  | .linkKeyInstall p l _ => l < 16 && p < 8
  | .correctableError n => n < 10
  | .linkRetrain l n => l < 16 && n < 8
  | .keyUpdate l d => l < 16 && d < 2
  | .coreThrottle d _ | .coreRailSetting d _ => d < 4
  | _ => true

end Sys2Proof
end

