-- ==== Sys2Proof/Decode.lean ====
section
/-!
DEFINITION. Decode.lean: from a 32-bit word to an instruction, by the maps of R42 to R56, and back. One
function per major opcode; the constants each word must hold are those of R44 to R56. Custom-3 holds Xlgfx
on a vector core and Xlfw on an Orrery core (R55, R56), so the decoder is told on which kind of core it
runs. Static checks between the operands (R46, R47, R55, R56, R100, R120, R124, R155, R178, R217) stand in
`Instr.wf`; a word that fails one is rejected. Every rejection raises cause 0x02 (R58).
Lean's compiler makes no code for a constructor with operands beyond the 245th of a type, so the functions
that build such an instruction are marked noncomputable; the kernel evaluates them.
-/

namespace Sys2Proof

/-- The word of four bytes, the first at the lowest address (little-endian, R97). -/
def wordOfBytes (b0 b1 b2 b3 : Byte) : W32 := b3 ++ b2 ++ b1 ++ b0

/-- The fields of a word (R44). -/
def Fields.ofWord (w : W32) : Fields :=
  ⟨w.extractLsb' 0 7, w.extractLsb' 7 5, w.extractLsb' 12 3, w.extractLsb' 15 5, w.extractLsb' 20 5,
   w.extractLsb' 25 1, w.extractLsb' 26 1, w.extractLsb' 27 1, w.extractLsb' 28 4⟩

/-- The word of the fields. -/
def Fields.toWord (f : Fields) : W32 :=
  f.f4 ++ f.c2 ++ f.c1 ++ f.vm ++ f.rs2 ++ f.rs1 ++ f.f3 ++ f.rd ++ f.op

/-- funct7, bits [31:25]. -/
def Fields.f7 (f : Fields) : BitVec 7 := f.f4 ++ f.c2 ++ f.c1 ++ f.vm
/-- funct6, bits [31:26]. -/
def Fields.f6 (f : Fields) : BitVec 6 := f.f4 ++ f.c2 ++ f.c1
/-- funct5, bits [31:27]. -/
def Fields.f5 (f : Fields) : BitVec 5 := f.f4 ++ f.c2
/-- The I immediate, bits [31:20] (also a CSR number). -/
def Fields.immI (f : Fields) : BitVec 12 := f.f7 ++ f.rs2
/-- The S immediate. -/
def Fields.immS (f : Fields) : BitVec 12 := f.f7 ++ f.rd
/-- The B immediate without its zero bit 0: bits 12, 11, 10:5, 4:1 of the offset. -/
def Fields.immB (f : Fields) : BitVec 12 :=
  f.f7.extractLsb' 6 1 ++ f.rd.extractLsb' 0 1 ++ f.f7.extractLsb' 0 6 ++ f.rd.extractLsb' 1 4
/-- The U immediate. -/
def Fields.immU (f : Fields) : BitVec 20 := f.f7 ++ f.rs2 ++ f.rs1 ++ f.f3
/-- The J immediate without its zero bit 0: bits 20, 19:12, 11, 10:1 of the offset. -/
def Fields.immJ (f : Fields) : BitVec 20 :=
  f.f7.extractLsb' 6 1 ++ f.rs1 ++ f.f3 ++ f.rs2.extractLsb' 0 1 ++ f.f7.extractLsb' 0 6 ++
    f.rs2.extractLsb' 1 4

/-- The instruction `i` where the fixed fields `p` hold. -/
def only (p : Prop) [Decidable p] (i : Instr) : Option Instr := if p then some i else none

/-- LUI (R93). -/
def decodeLui (f : Fields) : Option Instr :=
  some (.lui f.rd f.immU)

/-- AUIPC (R93). -/
def decodeAuipc (f : Fields) : Option Instr :=
  some (.auipc f.rd f.immU)

/-- OP-IMM (R92). -/
def decodeOpImm (f : Fields) : Option Instr :=
  match f.f3.toNat with
  | 0 => some (.addi f.rd f.rs1 f.immI)
  | 1 => only (f.f4 = 0 ∧ f.c2 = 0 ∧ f.c1 = 0) (.slli f.rd f.rs1 (f.vm ++ f.rs2))
  | 2 => some (.slti f.rd f.rs1 f.immI)
  | 3 => some (.sltiu f.rd f.rs1 f.immI)
  | 4 => some (.xori f.rd f.rs1 f.immI)
  | 5 =>
    if f.f4 = 0 ∧ f.c2 = 0 ∧ f.c1 = 0 then some (.srli f.rd f.rs1 (f.vm ++ f.rs2))
    else if f.f4 = 4 ∧ f.c2 = 0 ∧ f.c1 = 0 then some (.srai f.rd f.rs1 (f.vm ++ f.rs2))
    else none
  | 6 => some (.ori f.rd f.rs1 f.immI)
  | 7 => some (.andi f.rd f.rs1 f.immI)
  | _ => none

/-- OP-IMM-32 (R92). -/
def decodeOpImm32 (f : Fields) : Option Instr :=
  match f.f3.toNat with
  | 0 => some (.addiw f.rd f.rs1 f.immI)
  | 1 => only (f.f4 = 0 ∧ f.c2 = 0 ∧ f.c1 = 0 ∧ f.vm = 0) (.slliw f.rd f.rs1 f.rs2)
  | 5 =>
    if f.f4 = 0 ∧ f.c2 = 0 ∧ f.c1 = 0 ∧ f.vm = 0 then some (.srliw f.rd f.rs1 f.rs2)
    else if f.f4 = 4 ∧ f.c2 = 0 ∧ f.c1 = 0 ∧ f.vm = 0 then some (.sraiw f.rd f.rs1 f.rs2)
    else none
  | _ => none

/-- OP (R92). -/
def decodeOp (f : Fields) : Option Instr :=
  match f.f3.toNat with
  | 0 =>
    if f.f4 = 0 ∧ f.c2 = 0 ∧ f.c1 = 0 ∧ f.vm = 0 then some (.add f.rd f.rs1 f.rs2)
    else if f.f4 = 4 ∧ f.c2 = 0 ∧ f.c1 = 0 ∧ f.vm = 0 then some (.sub f.rd f.rs1 f.rs2)
    else if f.f4 = 0 ∧ f.c2 = 0 ∧ f.c1 = 0 ∧ f.vm = 1 then some (.mul f.rd f.rs1 f.rs2)
    else none
  | 1 =>
    if f.f4 = 0 ∧ f.c2 = 0 ∧ f.c1 = 0 ∧ f.vm = 0 then some (.sll f.rd f.rs1 f.rs2)
    else if f.f4 = 0 ∧ f.c2 = 0 ∧ f.c1 = 0 ∧ f.vm = 1 then some (.mulh f.rd f.rs1 f.rs2)
    else none
  | 2 =>
    if f.f4 = 0 ∧ f.c2 = 0 ∧ f.c1 = 0 ∧ f.vm = 0 then some (.slt f.rd f.rs1 f.rs2)
    else if f.f4 = 0 ∧ f.c2 = 0 ∧ f.c1 = 0 ∧ f.vm = 1 then some (.mulhsu f.rd f.rs1 f.rs2)
    else none
  | 3 =>
    if f.f4 = 0 ∧ f.c2 = 0 ∧ f.c1 = 0 ∧ f.vm = 0 then some (.sltu f.rd f.rs1 f.rs2)
    else if f.f4 = 0 ∧ f.c2 = 0 ∧ f.c1 = 0 ∧ f.vm = 1 then some (.mulhu f.rd f.rs1 f.rs2)
    else none
  | 4 =>
    if f.f4 = 0 ∧ f.c2 = 0 ∧ f.c1 = 0 ∧ f.vm = 0 then some (.xor f.rd f.rs1 f.rs2)
    else if f.f4 = 0 ∧ f.c2 = 0 ∧ f.c1 = 0 ∧ f.vm = 1 then some (.div f.rd f.rs1 f.rs2)
    else none
  | 5 =>
    if f.f4 = 0 ∧ f.c2 = 0 ∧ f.c1 = 0 ∧ f.vm = 0 then some (.srl f.rd f.rs1 f.rs2)
    else if f.f4 = 4 ∧ f.c2 = 0 ∧ f.c1 = 0 ∧ f.vm = 0 then some (.sra f.rd f.rs1 f.rs2)
    else if f.f4 = 0 ∧ f.c2 = 0 ∧ f.c1 = 0 ∧ f.vm = 1 then some (.divu f.rd f.rs1 f.rs2)
    else none
  | 6 =>
    if f.f4 = 0 ∧ f.c2 = 0 ∧ f.c1 = 0 ∧ f.vm = 0 then some (.or f.rd f.rs1 f.rs2)
    else if f.f4 = 0 ∧ f.c2 = 0 ∧ f.c1 = 0 ∧ f.vm = 1 then some (.rem f.rd f.rs1 f.rs2)
    else none
  | 7 =>
    if f.f4 = 0 ∧ f.c2 = 0 ∧ f.c1 = 0 ∧ f.vm = 0 then some (.and f.rd f.rs1 f.rs2)
    else if f.f4 = 0 ∧ f.c2 = 0 ∧ f.c1 = 0 ∧ f.vm = 1 then some (.remu f.rd f.rs1 f.rs2)
    else none
  | _ => none

/-- OP-32 (R92). -/
def decodeOp32 (f : Fields) : Option Instr :=
  match f.f3.toNat with
  | 0 =>
    if f.f4 = 0 ∧ f.c2 = 0 ∧ f.c1 = 0 ∧ f.vm = 0 then some (.addw f.rd f.rs1 f.rs2)
    else if f.f4 = 4 ∧ f.c2 = 0 ∧ f.c1 = 0 ∧ f.vm = 0 then some (.subw f.rd f.rs1 f.rs2)
    else if f.f4 = 0 ∧ f.c2 = 0 ∧ f.c1 = 0 ∧ f.vm = 1 then some (.mulw f.rd f.rs1 f.rs2)
    else none
  | 1 => only (f.f4 = 0 ∧ f.c2 = 0 ∧ f.c1 = 0 ∧ f.vm = 0) (.sllw f.rd f.rs1 f.rs2)
  | 4 => only (f.f4 = 0 ∧ f.c2 = 0 ∧ f.c1 = 0 ∧ f.vm = 1) (.divw f.rd f.rs1 f.rs2)
  | 5 =>
    if f.f4 = 0 ∧ f.c2 = 0 ∧ f.c1 = 0 ∧ f.vm = 0 then some (.srlw f.rd f.rs1 f.rs2)
    else if f.f4 = 4 ∧ f.c2 = 0 ∧ f.c1 = 0 ∧ f.vm = 0 then some (.sraw f.rd f.rs1 f.rs2)
    else if f.f4 = 0 ∧ f.c2 = 0 ∧ f.c1 = 0 ∧ f.vm = 1 then some (.divuw f.rd f.rs1 f.rs2)
    else none
  | 6 => only (f.f4 = 0 ∧ f.c2 = 0 ∧ f.c1 = 0 ∧ f.vm = 1) (.remw f.rd f.rs1 f.rs2)
  | 7 => only (f.f4 = 0 ∧ f.c2 = 0 ∧ f.c1 = 0 ∧ f.vm = 1) (.remuw f.rd f.rs1 f.rs2)
  | _ => none

/-- BRANCH (R95). -/
def decodeBranch (f : Fields) : Option Instr :=
  match f.f3.toNat with
  | 0 => some (.beq f.rs1 f.rs2 f.immB)
  | 1 => some (.bne f.rs1 f.rs2 f.immB)
  | 4 => some (.blt f.rs1 f.rs2 f.immB)
  | 5 => some (.bge f.rs1 f.rs2 f.immB)
  | 6 => some (.bltu f.rs1 f.rs2 f.immB)
  | 7 => some (.bgeu f.rs1 f.rs2 f.immB)
  | _ => none

/-- JAL (R96). -/
def decodeJal (f : Fields) : Option Instr :=
  some (.jal f.rd f.immJ)

/-- JALR (R96). -/
def decodeJalr (f : Fields) : Option Instr :=
  only (f.f3 = 0) (.jalr f.rd f.rs1 f.immI)

/-- LOAD (R43, R97). -/
def decodeLoad (f : Fields) : Option Instr :=
  match f.f3.toNat with
  | 0 => some (.lb f.rd f.rs1 f.immI)
  | 1 => some (.lh f.rd f.rs1 f.immI)
  | 2 => some (.lw f.rd f.rs1 f.immI)
  | 3 => some (.ld f.rd f.rs1 f.immI)
  | 4 => some (.lbu f.rd f.rs1 f.immI)
  | 5 => some (.lhu f.rd f.rs1 f.immI)
  | 6 => some (.lwu f.rd f.rs1 f.immI)
  | _ => none

/-- STORE (R43, R98). -/
def decodeStore (f : Fields) : Option Instr :=
  match f.f3.toNat with
  | 0 => some (.sb f.rs1 f.rs2 f.immS)
  | 1 => some (.sh f.rs1 f.rs2 f.immS)
  | 2 => some (.sw f.rs1 f.rs2 f.immS)
  | 3 => some (.sd f.rs1 f.rs2 f.immS)
  | _ => none

/-- MISC-MEM (R43, R100, R101). -/
def decodeMiscMem (f : Fields) : Option Instr :=
  match f.f3.toNat with
  | 0 =>
    if f.f4 = 0 ∧ f.c2 = 0 ∧ f.c1 = 0 ∧ f.vm = 0 ∧ f.rs2 = 16 ∧ f.rs1 = 0 ∧ f.rd = 0 then some (.pause)
    else if f.f4 = 0 ∧ f.rs1 = 0 ∧ f.rd = 0 then some (.fence (f.c2 ++ f.c1 ++ f.vm ++ f.rs2.extractLsb' 4 1) (f.rs2.extractLsb' 0 4))
    else none
  | 1 => only (f.f4 = 0 ∧ f.c2 = 0 ∧ f.c1 = 0 ∧ f.vm = 0 ∧ f.rs2 = 0 ∧ f.rs1 = 0 ∧ f.rd = 0) (.fenceI)
  | _ => none

/-- SYSTEM (R43, R102, R105). -/
def decodeSystem (f : Fields) : Option Instr :=
  match f.f3.toNat with
  | 0 =>
    if f.f4 = 0 ∧ f.c2 = 0 ∧ f.c1 = 0 ∧ f.vm = 0 ∧ f.rs2 = 0 ∧ f.rs1 = 0 ∧ f.rd = 0 then some (.ecall)
    else if f.f4 = 0 ∧ f.c2 = 0 ∧ f.c1 = 0 ∧ f.vm = 0 ∧ f.rs2 = 1 ∧ f.rs1 = 0 ∧ f.rd = 0 then some (.ebreak)
    else if f.f4 = 1 ∧ f.c2 = 0 ∧ f.c1 = 0 ∧ f.vm = 0 ∧ f.rs2 = 2 ∧ f.rs1 = 0 ∧ f.rd = 0 then some (.sret)
    else if f.f4 = 3 ∧ f.c2 = 0 ∧ f.c1 = 0 ∧ f.vm = 0 ∧ f.rs2 = 2 ∧ f.rs1 = 0 ∧ f.rd = 0 then some (.mret)
    else if f.f4 = 1 ∧ f.c2 = 0 ∧ f.c1 = 0 ∧ f.vm = 0 ∧ f.rs2 = 5 ∧ f.rs1 = 0 ∧ f.rd = 0 then some (.wfi)
    else if f.f4 = 1 ∧ f.c2 = 0 ∧ f.c1 = 0 ∧ f.vm = 1 ∧ f.rd = 0 then some (.sfenceVma f.rs1 f.rs2)
    else none
  | 1 => some (.csrrw f.rd f.rs1 f.immI)
  | 2 => some (.csrrs f.rd f.rs1 f.immI)
  | 3 => some (.csrrc f.rd f.rs1 f.immI)
  | 5 => some (.csrrwi f.rd f.rs1 f.immI)
  | 6 => some (.csrrsi f.rd f.rs1 f.immI)
  | 7 => some (.csrrci f.rd f.rs1 f.immI)
  | _ => none

/-- AMO (R54, R210). -/
def decodeAmo (f : Fields) : Option Instr :=
  match f.f5.toNat with
  | 0x02 => only (f.rs2 = 0) (.lr f.rd f.rs1 f.c1 f.vm f.f3)
  | 0x03 => some (.sc f.rd f.rs1 f.rs2 f.c1 f.vm f.f3)
  | 0x01 => some (.amoswap f.rd f.rs1 f.rs2 f.c1 f.vm f.f3)
  | 0x00 => some (.amoadd f.rd f.rs1 f.rs2 f.c1 f.vm f.f3)
  | 0x04 => some (.amoxor f.rd f.rs1 f.rs2 f.c1 f.vm f.f3)
  | 0x0C => some (.amoand f.rd f.rs1 f.rs2 f.c1 f.vm f.f3)
  | 0x08 => some (.amoor f.rd f.rs1 f.rs2 f.c1 f.vm f.f3)
  | 0x10 => some (.amomin f.rd f.rs1 f.rs2 f.c1 f.vm f.f3)
  | 0x14 => some (.amomax f.rd f.rs1 f.rs2 f.c1 f.vm f.f3)
  | 0x18 => some (.amominu f.rd f.rs1 f.rs2 f.c1 f.vm f.f3)
  | 0x1C => some (.amomaxu f.rd f.rs1 f.rs2 f.c1 f.vm f.f3)
  | _ => none

/-- OP-V (R48, R49). -/
def decodeOpV (f : Fields) : Option Instr :=
  match f.f3.toNat with
  | 0 =>
    match f.f4.toNat with
    | 0 => some (.vaddVv f.rd f.rs2 f.rs1 f.c2 f.c1 f.vm)
    | 1 => some (.vsubVv f.rd f.rs2 f.rs1 f.c2 f.c1 f.vm)
    | 2 => some (.vmulVv f.rd f.rs2 f.rs1 f.c2 f.c1 f.vm)
    | 3 => some (.vmulhVv f.rd f.rs2 f.rs1 f.c2 f.c1 f.vm)
    | 4 => some (.vmulhuVv f.rd f.rs2 f.rs1 f.c2 f.c1 f.vm)
    | 5 => some (.vmaccVv f.rd f.rs2 f.rs1 f.c2 f.c1 f.vm)
    | 6 => some (.vandVv f.rd f.rs2 f.rs1 f.c2 f.c1 f.vm)
    | 7 => some (.vorVv f.rd f.rs2 f.rs1 f.c2 f.c1 f.vm)
    | 8 => some (.vxorVv f.rd f.rs2 f.rs1 f.c2 f.c1 f.vm)
    | 9 => some (.vsllVv f.rd f.rs2 f.rs1 f.c2 f.c1 f.vm)
    | 10 => some (.vsrlVv f.rd f.rs2 f.rs1 f.c2 f.c1 f.vm)
    | 11 => some (.vsraVv f.rd f.rs2 f.rs1 f.c2 f.c1 f.vm)
    | 12 => some (.vminVv f.rd f.rs2 f.rs1 f.c2 f.c1 f.vm)
    | 13 => some (.vmaxVv f.rd f.rs2 f.rs1 f.c2 f.c1 f.vm)
    | 14 => some (.vminuVv f.rd f.rs2 f.rs1 f.c2 f.c1 f.vm)
    | 15 => some (.vmaxuVv f.rd f.rs2 f.rs1 f.c2 f.c1 f.vm)
    | _ => none
  | 1 =>
    match f.f4.toNat with
    | 0 => only (f.c1 = 0) (.vaddVx f.rd f.rs2 f.rs1 f.c2 f.vm)
    | 1 => only (f.c1 = 0) (.vsubVx f.rd f.rs2 f.rs1 f.c2 f.vm)
    | 2 => only (f.c1 = 0) (.vmulVx f.rd f.rs2 f.rs1 f.c2 f.vm)
    | 3 => only (f.c1 = 0) (.vmulhVx f.rd f.rs2 f.rs1 f.c2 f.vm)
    | 4 => only (f.c1 = 0) (.vmulhuVx f.rd f.rs2 f.rs1 f.c2 f.vm)
    | 5 => only (f.c1 = 0) (.vmaccVx f.rd f.rs2 f.rs1 f.c2 f.vm)
    | 6 => only (f.c1 = 0) (.vandVx f.rd f.rs2 f.rs1 f.c2 f.vm)
    | 7 => only (f.c1 = 0) (.vorVx f.rd f.rs2 f.rs1 f.c2 f.vm)
    | 8 => only (f.c1 = 0) (.vxorVx f.rd f.rs2 f.rs1 f.c2 f.vm)
    | 9 => only (f.c1 = 0) (.vsllVx f.rd f.rs2 f.rs1 f.c2 f.vm)
    | 10 => only (f.c1 = 0) (.vsrlVx f.rd f.rs2 f.rs1 f.c2 f.vm)
    | 11 => only (f.c1 = 0) (.vsraVx f.rd f.rs2 f.rs1 f.c2 f.vm)
    | 12 => only (f.c1 = 0) (.vminVx f.rd f.rs2 f.rs1 f.c2 f.vm)
    | 13 => only (f.c1 = 0) (.vmaxVx f.rd f.rs2 f.rs1 f.c2 f.vm)
    | 14 => only (f.c1 = 0) (.vminuVx f.rd f.rs2 f.rs1 f.c2 f.vm)
    | 15 => only (f.c1 = 0) (.vmaxuVx f.rd f.rs2 f.rs1 f.c2 f.vm)
    | _ => none
  | 2 =>
    match f.f4.toNat with
    | 0 => only (f.c1 = 0) (.vaddVi f.rd f.rs2 f.rs1 f.c2 f.vm)
    | 6 => only (f.c1 = 0) (.vandVi f.rd f.rs2 f.rs1 f.c2 f.vm)
    | 7 => only (f.c1 = 0) (.vorVi f.rd f.rs2 f.rs1 f.c2 f.vm)
    | 8 => only (f.c1 = 0) (.vxorVi f.rd f.rs2 f.rs1 f.c2 f.vm)
    | 9 => only (f.c1 = 0) (.vsllVi f.rd f.rs2 f.rs1 f.c2 f.vm)
    | 10 => only (f.c1 = 0) (.vsrlVi f.rd f.rs2 f.rs1 f.c2 f.vm)
    | 11 => only (f.c1 = 0) (.vsraVi f.rd f.rs2 f.rs1 f.c2 f.vm)
    | _ => none
  | 3 =>
    match f.f4.toNat with
    | 0 => some (.vfaddVv f.rd f.rs2 f.rs1 f.c2 f.c1 f.vm)
    | 1 => some (.vfsubVv f.rd f.rs2 f.rs1 f.c2 f.c1 f.vm)
    | 2 => some (.vfmulVv f.rd f.rs2 f.rs1 f.c2 f.c1 f.vm)
    | 3 => some (.vfdivVv f.rd f.rs2 f.rs1 f.c2 f.c1 f.vm)
    | 4 => some (.vfmaccVv f.rd f.rs2 f.rs1 f.c2 f.c1 f.vm)
    | 5 => some (.vfnmaccVv f.rd f.rs2 f.rs1 f.c2 f.c1 f.vm)
    | 6 => some (.vfmsacVv f.rd f.rs2 f.rs1 f.c2 f.c1 f.vm)
    | 7 => some (.vfminVv f.rd f.rs2 f.rs1 f.c2 f.c1 f.vm)
    | 8 => some (.vfmaxVv f.rd f.rs2 f.rs1 f.c2 f.c1 f.vm)
    | 9 => some (.vfsgnjVv f.rd f.rs2 f.rs1 f.c2 f.c1 f.vm)
    | 10 => some (.vfsgnjnVv f.rd f.rs2 f.rs1 f.c2 f.c1 f.vm)
    | 11 => some (.vfsgnjxVv f.rd f.rs2 f.rs1 f.c2 f.c1 f.vm)
    | 12 => only (f.c1 = 0 ∧ f.rs1 = 0) (.vfsqrt f.rd f.rs2 f.c2 f.vm)
    | 13 => only (f.c1 = 0 ∧ f.rs1 = 0) (.vfclass f.rd f.rs2 f.c2 f.vm)
    | _ => none
  | 4 =>
    match f.f4.toNat with
    | 0 => only (f.c1 = 0) (.vfaddVf f.rd f.rs2 f.rs1 f.c2 f.vm)
    | 1 => only (f.c1 = 0) (.vfsubVf f.rd f.rs2 f.rs1 f.c2 f.vm)
    | 2 => only (f.c1 = 0) (.vfmulVf f.rd f.rs2 f.rs1 f.c2 f.vm)
    | 3 => only (f.c1 = 0) (.vfdivVf f.rd f.rs2 f.rs1 f.c2 f.vm)
    | 4 => only (f.c1 = 0) (.vfmaccVf f.rd f.rs2 f.rs1 f.c2 f.vm)
    | 5 => only (f.c1 = 0) (.vfnmaccVf f.rd f.rs2 f.rs1 f.c2 f.vm)
    | 6 => only (f.c1 = 0) (.vfmsacVf f.rd f.rs2 f.rs1 f.c2 f.vm)
    | 7 => only (f.c1 = 0) (.vfminVf f.rd f.rs2 f.rs1 f.c2 f.vm)
    | 8 => only (f.c1 = 0) (.vfmaxVf f.rd f.rs2 f.rs1 f.c2 f.vm)
    | 9 => only (f.c1 = 0) (.vfsgnjVf f.rd f.rs2 f.rs1 f.c2 f.vm)
    | 10 => only (f.c1 = 0) (.vfsgnjnVf f.rd f.rs2 f.rs1 f.c2 f.vm)
    | 11 => only (f.c1 = 0) (.vfsgnjxVf f.rd f.rs2 f.rs1 f.c2 f.vm)
    | _ => none
  | 7 =>
    match f.f4.toNat with
    | 0 => only (f.rs2.extractLsb' 3 1 = 0) (.vset f.rd f.rs1 (f.c2 ++ f.c1 ++ f.vm ++ f.rs2.extractLsb' 4 1 ++ f.rs2.extractLsb' 0 3))
    | 1 => only (f.c2 = 0 ∧ f.c1 = 0 ∧ f.vm = 0) (.vsetv f.rd f.rs1 f.rs2)
    | _ => none
  | _ => none

/-- custom-2 (R50). -/
def decodeCustom2 (f : Fields) : Option Instr :=
  match f.f3.toNat with
  | 0 =>
    match f.f4.toNat with
    | 0 => some (.vmseqVv f.rd f.rs2 f.rs1 f.c2 f.c1 f.vm)
    | 1 => some (.vmsneVv f.rd f.rs2 f.rs1 f.c2 f.c1 f.vm)
    | 2 => some (.vmsltVv f.rd f.rs2 f.rs1 f.c2 f.c1 f.vm)
    | 3 => some (.vmsltuVv f.rd f.rs2 f.rs1 f.c2 f.c1 f.vm)
    | 4 => some (.vmsleVv f.rd f.rs2 f.rs1 f.c2 f.c1 f.vm)
    | 5 => some (.vmsleuVv f.rd f.rs2 f.rs1 f.c2 f.c1 f.vm)
    | 6 => some (.vsaddVv f.rd f.rs2 f.rs1 f.c2 f.c1 f.vm)
    | 7 => some (.vsadduVv f.rd f.rs2 f.rs1 f.c2 f.c1 f.vm)
    | 8 => some (.vssubVv f.rd f.rs2 f.rs1 f.c2 f.c1 f.vm)
    | 9 => some (.vssubuVv f.rd f.rs2 f.rs1 f.c2 f.c1 f.vm)
    | 10 => some (.vdivVv f.rd f.rs2 f.rs1 f.c2 f.c1 f.vm)
    | 11 => some (.vdivuVv f.rd f.rs2 f.rs1 f.c2 f.c1 f.vm)
    | 12 => some (.vremVv f.rd f.rs2 f.rs1 f.c2 f.c1 f.vm)
    | 13 => some (.vremuVv f.rd f.rs2 f.rs1 f.c2 f.c1 f.vm)
    | 14 => only (f.vm = 1) (.vmergeVv f.rd f.rs2 f.rs1 f.c2 f.c1)
    | 15 => only (f.c2 = 0 ∧ f.vm = 0 ∧ f.rs2 = 0) (.vmvVv f.rd f.rs1 f.c1)
    | _ => none
  | 1 =>
    match f.f4.toNat with
    | 0 => only (f.c1 = 0) (.vmseqVx f.rd f.rs2 f.rs1 f.c2 f.vm)
    | 1 => only (f.c1 = 0) (.vmsneVx f.rd f.rs2 f.rs1 f.c2 f.vm)
    | 2 => only (f.c1 = 0) (.vmsltVx f.rd f.rs2 f.rs1 f.c2 f.vm)
    | 3 => only (f.c1 = 0) (.vmsltuVx f.rd f.rs2 f.rs1 f.c2 f.vm)
    | 4 => only (f.c1 = 0) (.vmsleVx f.rd f.rs2 f.rs1 f.c2 f.vm)
    | 5 => only (f.c1 = 0) (.vmsleuVx f.rd f.rs2 f.rs1 f.c2 f.vm)
    | 6 => only (f.c1 = 0) (.vsaddVx f.rd f.rs2 f.rs1 f.c2 f.vm)
    | 7 => only (f.c1 = 0) (.vsadduVx f.rd f.rs2 f.rs1 f.c2 f.vm)
    | 8 => only (f.c1 = 0) (.vssubVx f.rd f.rs2 f.rs1 f.c2 f.vm)
    | 9 => only (f.c1 = 0) (.vssubuVx f.rd f.rs2 f.rs1 f.c2 f.vm)
    | 10 => only (f.c1 = 0) (.vdivVx f.rd f.rs2 f.rs1 f.c2 f.vm)
    | 11 => only (f.c1 = 0) (.vdivuVx f.rd f.rs2 f.rs1 f.c2 f.vm)
    | 12 => only (f.c1 = 0) (.vremVx f.rd f.rs2 f.rs1 f.c2 f.vm)
    | 13 => only (f.c1 = 0) (.vremuVx f.rd f.rs2 f.rs1 f.c2 f.vm)
    | 14 => only (f.c1 = 0 ∧ f.vm = 1) (.vmergeVx f.rd f.rs2 f.rs1 f.c2)
    | 15 => only (f.c2 = 0 ∧ f.c1 = 0 ∧ f.vm = 0 ∧ f.rs2 = 0) (.vmvVx f.rd f.rs1)
    | _ => none
  | 2 =>
    match f.f4.toNat with
    | 0 => only (f.c1 = 0) (.vmseqVi f.rd f.rs2 f.rs1 f.c2 f.vm)
    | 1 => only (f.c1 = 0) (.vmsneVi f.rd f.rs2 f.rs1 f.c2 f.vm)
    | 4 => only (f.c1 = 0) (.vmsleVi f.rd f.rs2 f.rs1 f.c2 f.vm)
    | 5 => only (f.c1 = 0) (.vmsleuVi f.rd f.rs2 f.rs1 f.c2 f.vm)
    | 6 => only (f.c1 = 0) (.vsaddVi f.rd f.rs2 f.rs1 f.c2 f.vm)
    | 7 => only (f.c1 = 0) (.vsadduVi f.rd f.rs2 f.rs1 f.c2 f.vm)
    | 14 => only (f.c1 = 0 ∧ f.vm = 1) (.vmergeVi f.rd f.rs2 f.rs1 f.c2)
    | 15 => only (f.c2 = 0 ∧ f.c1 = 0 ∧ f.vm = 0 ∧ f.rs2 = 0) (.vmvVi f.rd f.rs1)
    | _ => none
  | 3 =>
    match f.f4.toNat with
    | 0 => some (.vmfeq f.rd f.rs2 f.rs1 f.c2 f.c1 f.vm)
    | 1 => some (.vmfne f.rd f.rs2 f.rs1 f.c2 f.c1 f.vm)
    | 2 => some (.vmflt f.rd f.rs2 f.rs1 f.c2 f.c1 f.vm)
    | 3 => some (.vmfle f.rd f.rs2 f.rs1 f.c2 f.c1 f.vm)
    | 4 => only (f.vm = 0) (.vmand f.rd f.rs2 f.rs1 f.c2 f.c1)
    | 5 => only (f.vm = 0) (.vmor f.rd f.rs2 f.rs1 f.c2 f.c1)
    | 6 => only (f.vm = 0) (.vmxor f.rd f.rs2 f.rs1 f.c2 f.c1)
    | 7 => only (f.vm = 0) (.vmandn f.rd f.rs2 f.rs1 f.c2 f.c1)
    | 8 => only (f.c1 = 0 ∧ f.vm = 0 ∧ f.rs1 = 0) (.vcpop f.rd f.rs2 f.c2)
    | 9 => only (f.c1 = 0 ∧ f.vm = 0 ∧ f.rs1 = 0) (.vfirst f.rd f.rs2 f.c2)
    | 10 => only (f.c1 = 0 ∧ f.rs1 = 0) (.viota f.rd f.rs2 f.c2 f.vm)
    | 11 => only (f.c2 = 0 ∧ f.c1 = 0 ∧ f.rs2 = 0 ∧ f.rs1 = 0) (.vid f.rd f.vm)
    | _ => none
  | 4 =>
    match f.f4.toNat with
    | 0 => some (.vredsum f.rd f.rs2 f.rs1 f.c2 f.c1 f.vm)
    | 1 => some (.vredmax f.rd f.rs2 f.rs1 f.c2 f.c1 f.vm)
    | 2 => some (.vredmin f.rd f.rs2 f.rs1 f.c2 f.c1 f.vm)
    | 3 => some (.vredmaxu f.rd f.rs2 f.rs1 f.c2 f.c1 f.vm)
    | 4 => some (.vredminu f.rd f.rs2 f.rs1 f.c2 f.c1 f.vm)
    | 5 => some (.vredand f.rd f.rs2 f.rs1 f.c2 f.c1 f.vm)
    | 6 => some (.vredor f.rd f.rs2 f.rs1 f.c2 f.c1 f.vm)
    | 7 => some (.vredxor f.rd f.rs2 f.rs1 f.c2 f.c1 f.vm)
    | 8 => some (.vfredsum f.rd f.rs2 f.rs1 f.c2 f.c1 f.vm)
    | 9 => some (.vfredmax f.rd f.rs2 f.rs1 f.c2 f.c1 f.vm)
    | 10 => some (.vfredmin f.rd f.rs2 f.rs1 f.c2 f.c1 f.vm)
    | _ => none
  | 5 =>
    match f.f4.toNat with
    | 0 => only (f.c1 = 0) (.vslideup f.rd f.rs2 f.rs1 f.c2 f.vm)
    | 1 => only (f.c1 = 0) (.vslidedown f.rd f.rs2 f.rs1 f.c2 f.vm)
    | 2 => only (f.c1 = 0) (.vslide1up f.rd f.rs2 f.rs1 f.c2 f.vm)
    | 3 => only (f.c1 = 0) (.vslide1down f.rd f.rs2 f.rs1 f.c2 f.vm)
    | 4 => some (.vrgather f.rd f.rs2 f.rs1 f.c2 f.c1 f.vm)
    | 5 => only (f.vm = 0) (.vcompress f.rd f.rs2 f.rs1 f.c2 f.c1)
    | 6 => only (f.c1 = 0 ∧ f.vm = 0 ∧ f.rs1 = 0) (.vmvxs f.rd f.rs2 f.c2)
    | 7 => only (f.c2 = 0 ∧ f.c1 = 0 ∧ f.vm = 0 ∧ f.rs2 = 0) (.vmvsx f.rd f.rs1)
    | _ => none
  | 6 => only (f.f4 = 0 ∧ f.c1 = 0) (.vcvt f.rd f.rs2 (f.rs1.extractLsb' 3 2) (f.rs1.extractLsb' 0 3) f.c2 f.vm)
  | 7 =>
    match f.f4.toNat with
    | 0 => only (f.c1 = 0 ∧ f.rs1 = 0) (.vfrsqrt f.rd f.rs2 f.c2 f.vm)
    | 1 => only (f.c1 = 0 ∧ f.rs1 = 0) (.vfrcp f.rd f.rs2 f.c2 f.vm)
    | 2 => only (f.c1 = 0 ∧ f.rs1 = 0) (.vfexp2 f.rd f.rs2 f.c2 f.vm)
    | 3 => only (f.c1 = 0 ∧ f.rs1 = 0) (.vflog2 f.rd f.rs2 f.c2 f.vm)
    | 4 => only (f.c1 = 0 ∧ f.rs1 = 0) (.vfsin f.rd f.rs2 f.c2 f.vm)
    | 5 => only (f.c1 = 0 ∧ f.rs1 = 0) (.vfcos f.rd f.rs2 f.c2 f.vm)
    | 6 => only (f.c2 = 0 ∧ f.vm = 0 ∧ f.rs2 = 0 ∧ f.rd = 0) (.vmpush f.rs1 f.c1)
    | 7 => only (f.c2 = 0 ∧ f.c1 = 0 ∧ f.vm = 0 ∧ f.rs2 = 0 ∧ f.rs1 = 0 ∧ f.rd = 0) (.vmelse)
    | 8 => only (f.c2 = 0 ∧ f.c1 = 0 ∧ f.vm = 0 ∧ f.rs2 = 0 ∧ f.rs1 = 0 ∧ f.rd = 0) (.vmpop)
    | 9 => only (f.c2 = 0 ∧ f.vm = 0 ∧ f.rs2 = 0 ∧ f.rd = 0) (.vfchk f.rs1 f.c1)
    | 10 => only (f.c2 = 0 ∧ f.c1 = 0 ∧ f.vm = 0 ∧ f.rs2 = 0 ∧ f.rs1 = 0 ∧ f.rd = 0) (.vfmclr)
    | 11 => only (f.c1 = 0 ∧ f.rd = 0) (.vappend f.rs2 f.rs1 f.c2 f.vm)
    | _ => none
  | _ => none

/-- LOAD-FP: the vector loads (R46, R51). -/
noncomputable def decodeLoadFp (f : Fields) : Option Instr :=
  if f.f4 = 1 ∧ f.c2 = 0 ∧ f.c1 = 0 ∧ f.vm = 0 ∧ f.rs2 = 0 then some (.vleS f.rd f.rs1 f.f3)
  else if f.f4 = 0 ∧ f.c2 = 0 ∧ f.c1 = 0 ∧ f.rs2 = 0 then some (.vle f.rd f.rs1 f.f3 f.vm)
  else if f.f4 = 1 ∧ f.c2 = 0 ∧ f.c1 = 1 ∧ f.vm = 0 then some (.vlseS f.rd f.rs1 f.rs2 f.f3)
  else if f.f4 = 1 ∧ f.c2 = 1 ∧ f.c1 = 0 ∧ f.vm = 0 then some (.vlxeS f.rd f.rs2 f.rs1 f.f3)
  else if f.f4 = 0 ∧ f.c2 = 0 ∧ f.c1 = 1 then some (.vlse f.rd f.rs1 f.rs2 f.f3 f.vm)
  else if f.f4 = 0 ∧ f.c2 = 1 ∧ f.c1 = 0 then some (.vlxe f.rd f.rs2 f.rs1 f.f3 f.vm)
  else none

/-- STORE-FP: the vector stores (R46, R51). -/
noncomputable def decodeStoreFp (f : Fields) : Option Instr :=
  if f.f4 = 0 ∧ f.c2 = 0 ∧ f.c1 = 0 ∧ f.rs2 = 0 then some (.vse f.rd f.rs1 f.f3 f.vm)
  else if f.f4 = 0 ∧ f.c2 = 0 ∧ f.c1 = 1 then some (.vsse f.rd f.rs1 f.rs2 f.f3 f.vm)
  else if f.f4 = 0 ∧ f.c2 = 1 ∧ f.c1 = 0 then some (.vsxe f.rd f.rs2 f.rs1 f.f3 f.vm)
  else none

/-- custom-1: Xlmat (R52). -/
noncomputable def decodeXlmat (f : Fields) : Option Instr :=
  match f.f7.toNat with
  | 0x00 => only (f.rs2 = 0 ∧ f.f3 = 0) (.mset f.rd f.rs1)
  | 0x01 => only (f.rs2 = 0 ∧ f.f3 = 0 ∧ f.rd = 0) (.mrel f.rs1)
  | 0x02 => only (f.rs2 = 0 ∧ f.rs1 = 0 ∧ f.f3.extractLsb' 1 2 = 0 ∧ f.rd = 0) (.mzero (f.f3.extractLsb' 0 1))
  | 0x08 => only (f.rs2.extractLsb' 0 3 = 0 ∧ f.f3.extractLsb' 1 2 = 0 ∧ f.rd = 0) (.mopa (f.f3.extractLsb' 0 1) (f.rs2.extractLsb' 3 2) f.rs1)
  | 0x09 => only (f.rs2.extractLsb' 0 3 = 0 ∧ f.f3.extractLsb' 1 2 = 0 ∧ f.rd = 0) (.mops (f.f3.extractLsb' 0 1) (f.rs2.extractLsb' 3 2) f.rs1)
  | 0x0A => only (f.rs2.extractLsb' 0 3 = 0 ∧ f.f3.extractLsb' 1 2 = 0 ∧ f.rd = 0) (.mopai (f.f3.extractLsb' 0 1) (f.rs2.extractLsb' 3 2) f.rs1)
  | 0x10 => only (f.rs2 = 0 ∧ f.f3.extractLsb' 1 2 = 0) (.mrd f.rd (f.f3.extractLsb' 0 1) f.rs1)
  | 0x11 => only (f.f3.extractLsb' 1 2 = 0 ∧ f.rd = 0) (.mwr (f.f3.extractLsb' 0 1) f.rs2 f.rs1)
  | 0x12 => only (f.rs2 = 0 ∧ f.f3.extractLsb' 1 2 = 0) (.mrdc f.rd (f.f3.extractLsb' 0 1) f.rs1)
  | 0x13 => only (f.f3.extractLsb' 1 2 = 0 ∧ f.rd = 0) (.mwrc (f.f3.extractLsb' 0 1) f.rs2 f.rs1)
  | 0x18 => only (f.f3.extractLsb' 2 1 = 0) (.mdot f.rd (f.f3.extractLsb' 0 2) f.rs2 f.rs1)
  | 0x20 => only (f.rs1 = 0 ∧ f.f3.extractLsb' 1 2 = 0 ∧ f.rd = 0) (.vmaxexp f.rs2 (f.f3.extractLsb' 0 1))
  | 0x21 =>
    if f.rs2 = 0 ∧ f.f3.extractLsb' 1 2 = 0 then some (.vqst f.rd f.rs1 (f.f3.extractLsb' 0 1))
    else if f.rs2 = 0 ∧ f.f3.extractLsb' 1 2 = 1 then some (.vqst2 f.rd f.rs1 (f.f3.extractLsb' 0 1))
    else none
  | 0x28 => only (f.rs2 = 0 ∧ f.f3 = 0 ∧ f.rd = 0) (.vqsave f.rs1)
  | 0x29 => only (f.rs2 = 0 ∧ f.f3 = 0 ∧ f.rd = 0) (.vqload f.rs1)
  | 0x2A => only (f.rs2 = 0 ∧ f.f3 = 0 ∧ f.rd = 0) (.vscsave f.rs1)
  | 0x2B => only (f.rs2 = 0 ∧ f.f3 = 0 ∧ f.rd = 0) (.vscload f.rs1)
  | 0x2C => only (f.rs2 = 0 ∧ f.rs1 = 0 ∧ f.f3 = 0 ∧ f.rd = 0) (.vqclr)
  | _ => none

/-- custom-0: Xlq (R53). -/
noncomputable def decodeXlq (f : Fields) : Option Instr :=
  match f.f7.toNat with
  | 0x00 => only (f.rs2 = 0 ∧ f.f3 = 0) (.taskSpawn f.rd f.rs1)
  | 0x01 => only (f.rs2 = 0 ∧ f.f3 = 0 ∧ f.rd = 0) (.taskSpawnt f.rs1)
  | 0x02 => only (f.rs2 = 0 ∧ f.f3 = 0) (.taskFork f.rd f.rs1)
  | 0x03 => only (f.rs2 = 0 ∧ f.f3 = 0 ∧ f.rd = 0) (.taskForkt f.rs1)
  | 0x04 => only (f.rs2 = 0 ∧ f.f3 = 0) (.taskPop f.rd f.rs1)
  | 0x05 => only (f.rs2 = 0) (.taskJoin f.rd f.rs1 f.f3)
  | 0x06 => only (f.rs2 = 0 ∧ f.rs1 = 0 ∧ f.f3 = 0 ∧ f.rd = 0) (.taskExit)
  | 0x10 => only (f.rs2.extractLsb' 4 1 = 0 ∧ f.f3 = 0) (.gbarArrive f.rd f.rs1 (f.rs2.extractLsb' 0 4))
  | 0x11 => only (f.rs2.extractLsb' 4 1 = 0 ∧ f.f3 = 0) (.gbarMax f.rd f.rs1 (f.rs2.extractLsb' 0 4))
  | 0x12 => only (f.rs2.extractLsb' 4 1 = 0 ∧ f.f3 = 0) (.gbarMin f.rd f.rs1 (f.rs2.extractLsb' 0 4))
  | 0x13 => only (f.rs2.extractLsb' 4 1 = 0 ∧ f.f3 = 0) (.gbarAdd f.rd f.rs1 (f.rs2.extractLsb' 0 4))
  | 0x14 => only (f.rs2.extractLsb' 4 1 = 0 ∧ f.f3 = 0) (.gbarOr f.rd f.rs1 (f.rs2.extractLsb' 0 4))
  | 0x20 => some (.msgSend f.rd f.rs1 f.rs2 f.f3)
  | 0x21 => only (f.rd = 0) (.msgSendt f.rs1 f.rs2 f.f3)
  | 0x22 => only (f.rs2 = 0 ∧ f.rs1 = 0 ∧ f.f3 = 0 ∧ f.rd = 0) (.msgDone)
  | 0x30 => some (.wait f.rd f.rs1 f.rs2 f.f3)
  | 0x31 => only (f.rs2.extractLsb' 4 1 = 0 ∧ f.rs1.extractLsb' 4 1 = 0 ∧ f.rd = 0) (.fenceS f.f3 (f.rs2.extractLsb' 0 4) (f.rs1.extractLsb' 0 4))
  | 0x32 => only (f.rs2 = 0 ∧ f.f3 = 0 ∧ f.rd = 0) (.pub f.rs1)
  | 0x33 => only (f.rs2 = 0) (.ldaW f.rd f.rs1 f.f3)
  | 0x34 => only (f.rs2 = 0) (.ldaD f.rd f.rs1 f.f3)
  | 0x35 => only (f.rd = 0) (.stlW f.rs1 f.rs2 f.f3)
  | 0x36 => only (f.rd = 0) (.stlD f.rs1 f.rs2 f.f3)
  | 0x40 => only (f.rd = 0) (.aqNotify f.rs1 f.rs2 f.f3)
  | 0x48 => only (f.rs2 = 0) (.tcopy f.rd f.rs1 f.f3)
  | 0x49 => only (f.f3 = 0) (.cmAcq f.rd f.rs1 f.rs2)
  | 0x50 => only (f.rs2.extractLsb' 2 3 = 0 ∧ f.f3 = 0 ∧ f.rd = 0) (.strmSet f.rs1 (f.rs2.extractLsb' 0 2))
  | _ => none

/-- custom-3 on a vector core: Xlgfx (R55). -/
noncomputable def decodeXlgfx (f : Fields) : Option Instr :=
  match f.f6.toNat with
  | 0x00 => only (f.f3 = 0) (.vtex f.rd f.rs2 f.rs1 f.vm)
  | 0x04 => only (f.f3 = 0) (.vrayq f.rd f.rs2 f.rs1 f.vm)
  | 0x05 => only (f.f3 = 0) (.vrayo f.rd f.rs2 f.rs1 f.vm)
  | 0x08 => only (f.f3 = 0) (.vsobol f.rd f.rs2 f.rs1 f.vm)
  | 0x0C => only (f.f3 = 0) (.vvbmin f.rd f.rs2 f.rs1 f.vm)
  | 0x10 => only (f.f3 = 0) (.vblend f.rd f.rs2 f.rs1 f.vm)
  | 0x20 => only (f.rs1 = 0 ∧ f.f3 = 0) (.rcQ f.rd f.rs2 f.vm)
  | 0x21 => only (f.f3 = 0) (.rcQt f.rd f.rs2 f.rs1 f.vm)
  | _ => none

/-- custom-3 on an Orrery core: Xlfw (R56). -/
noncomputable def decodeXlfw (f : Fields) : Option Instr :=
  match f.f3.toNat with
  | 0 => only (f.f4 = 0 ∧ f.c2 = 0 ∧ f.c1 = 0 ∧ f.vm = 0) (.fwRing f.rd f.rs1 f.rs2)
  | 1 => some (.fwBext f.rd f.rs1 (f.f4 ++ f.c2 ++ f.c1) (f.vm ++ f.rs2))
  | 2 => only (f.f4 = 0 ∧ f.c2 = 0 ∧ f.c1 = 0 ∧ f.vm = 0 ∧ f.rs2 = 0) (.fwSwait f.rd f.rs1)
  | 3 => only (f.f4 = 0 ∧ f.c2 = 0 ∧ f.c1 = 0 ∧ f.vm = 0) (.fwDisp f.rd f.rs1 f.rs2)
  | 4 => only (f.f4 = 0 ∧ f.c2 = 0 ∧ f.c1 = 0 ∧ f.vm = 0 ∧ f.rs2 = 0) (.fwQcbld f.rd f.rs1)
  | 5 => only (f.f4 = 0 ∧ f.c2 = 0 ∧ f.c1 = 0 ∧ f.vm = 0 ∧ f.rd = 0) (.fwQcbst f.rs1 f.rs2)
  | _ => none

/-- The major-opcode map (R42); `fw` says that the core is an Orrery core. -/
noncomputable def decodeMajor (fw : Bool) (f : Fields) : Option Instr :=
  match f.op.toNat with
  | 0x03 => decodeLoad f
  | 0x07 => decodeLoadFp f
  | 0x0B => decodeXlq f
  | 0x0F => decodeMiscMem f
  | 0x13 => decodeOpImm f
  | 0x17 => decodeAuipc f
  | 0x1B => decodeOpImm32 f
  | 0x23 => decodeStore f
  | 0x27 => decodeStoreFp f
  | 0x2B => decodeXlmat f
  | 0x2F => decodeAmo f
  | 0x33 => decodeOp f
  | 0x37 => decodeLui f
  | 0x3B => decodeOp32 f
  | 0x57 => decodeOpV f
  | 0x5B => decodeCustom2 f
  | 0x63 => decodeBranch f
  | 0x67 => decodeJalr f
  | 0x6F => decodeJal f
  | 0x73 => decodeSystem f
  | 0x7B => if fw then decodeXlfw f else decodeXlgfx f
  | _ => none

/-- Decoding of a word on an Orrery core (`fw`) or on any other: the instruction, or the reason the word is
rejected (R40, R42 to R56). -/
noncomputable def decode (fw : Bool) (w : W32) : Except Reject Instr :=
  if w.extractLsb' 0 2 ≠ 3 then .error .halfword
  else if w.extractLsb' 0 5 = 31 ∨ w.extractLsb' 0 7 = 0x3F then .error .wide
  else
    match decodeMajor fw (Fields.ofWord w) with
    | none => .error .unassigned
    | some i => if i.wf then .ok i else .error .fields

/-- I-format fields. -/
def Fields.i (op : BitVec 7) (rd : BitVec 5) (f3 : BitVec 3) (rs1 : BitVec 5) (imm : BitVec 12) : Fields :=
  ⟨op, rd, f3, rs1, imm.extractLsb' 0 5, imm.extractLsb' 5 1, imm.extractLsb' 6 1, imm.extractLsb' 7 1,
   imm.extractLsb' 8 4⟩
/-- S-format fields. -/
def Fields.s (op : BitVec 7) (f3 : BitVec 3) (rs1 rs2 : BitVec 5) (imm : BitVec 12) : Fields :=
  ⟨op, imm.extractLsb' 0 5, f3, rs1, rs2, imm.extractLsb' 5 1, imm.extractLsb' 6 1, imm.extractLsb' 7 1,
   imm.extractLsb' 8 4⟩
/-- B-format fields; `imm` is the offset without its bit 0. -/
def Fields.b (op : BitVec 7) (f3 : BitVec 3) (rs1 rs2 : BitVec 5) (imm : BitVec 12) : Fields :=
  ⟨op, imm.extractLsb' 0 4 ++ imm.extractLsb' 10 1, f3, rs1, rs2, imm.extractLsb' 4 1,
   imm.extractLsb' 5 1, imm.extractLsb' 6 1, imm.extractLsb' 11 1 ++ imm.extractLsb' 7 3⟩
/-- U-format fields. -/
def Fields.u (op : BitVec 7) (rd : BitVec 5) (imm : BitVec 20) : Fields :=
  ⟨op, rd, imm.extractLsb' 0 3, imm.extractLsb' 3 5, imm.extractLsb' 8 5, imm.extractLsb' 13 1,
   imm.extractLsb' 14 1, imm.extractLsb' 15 1, imm.extractLsb' 16 4⟩
/-- J-format fields; `imm` is the offset without its bit 0. -/
def Fields.j (op : BitVec 7) (rd : BitVec 5) (imm : BitVec 20) : Fields :=
  ⟨op, rd, imm.extractLsb' 11 3, imm.extractLsb' 14 5, imm.extractLsb' 0 4 ++ imm.extractLsb' 10 1,
   imm.extractLsb' 4 1, imm.extractLsb' 5 1, imm.extractLsb' 6 1,
   imm.extractLsb' 19 1 ++ imm.extractLsb' 7 3⟩

/-- The fields of an instruction's word, by the same tables (R44 to R56); an event has no word. -/
def encodeFields : Instr → Option Fields
  | .lui rd imm => some (Fields.u 0x37 rd imm)
  | .auipc rd imm => some (Fields.u 0x17 rd imm)
  | .addi rd rs1 imm => some (Fields.i 0x13 rd 0 rs1 imm)
  | .slti rd rs1 imm => some (Fields.i 0x13 rd 2 rs1 imm)
  | .sltiu rd rs1 imm => some (Fields.i 0x13 rd 3 rs1 imm)
  | .xori rd rs1 imm => some (Fields.i 0x13 rd 4 rs1 imm)
  | .ori rd rs1 imm => some (Fields.i 0x13 rd 6 rs1 imm)
  | .andi rd rs1 imm => some (Fields.i 0x13 rd 7 rs1 imm)
  | .slli rd rs1 sh => some (⟨0x13, rd, 1, rs1, (sh.extractLsb' 0 5), (sh.extractLsb' 5 1), 0, 0, 0⟩)
  | .srli rd rs1 sh => some (⟨0x13, rd, 5, rs1, (sh.extractLsb' 0 5), (sh.extractLsb' 5 1), 0, 0, 0⟩)
  | .srai rd rs1 sh => some (⟨0x13, rd, 5, rs1, (sh.extractLsb' 0 5), (sh.extractLsb' 5 1), 0, 0, 4⟩)
  | .addiw rd rs1 imm => some (Fields.i 0x1B rd 0 rs1 imm)
  | .slliw rd rs1 sh => some (⟨0x1B, rd, 1, rs1, sh, 0, 0, 0, 0⟩)
  | .srliw rd rs1 sh => some (⟨0x1B, rd, 5, rs1, sh, 0, 0, 0, 0⟩)
  | .sraiw rd rs1 sh => some (⟨0x1B, rd, 5, rs1, sh, 0, 0, 0, 4⟩)
  | .add rd rs1 rs2 => some (⟨0x33, rd, 0, rs1, rs2, 0, 0, 0, 0⟩)
  | .sub rd rs1 rs2 => some (⟨0x33, rd, 0, rs1, rs2, 0, 0, 0, 4⟩)
  | .sll rd rs1 rs2 => some (⟨0x33, rd, 1, rs1, rs2, 0, 0, 0, 0⟩)
  | .slt rd rs1 rs2 => some (⟨0x33, rd, 2, rs1, rs2, 0, 0, 0, 0⟩)
  | .sltu rd rs1 rs2 => some (⟨0x33, rd, 3, rs1, rs2, 0, 0, 0, 0⟩)
  | .xor rd rs1 rs2 => some (⟨0x33, rd, 4, rs1, rs2, 0, 0, 0, 0⟩)
  | .srl rd rs1 rs2 => some (⟨0x33, rd, 5, rs1, rs2, 0, 0, 0, 0⟩)
  | .sra rd rs1 rs2 => some (⟨0x33, rd, 5, rs1, rs2, 0, 0, 0, 4⟩)
  | .or rd rs1 rs2 => some (⟨0x33, rd, 6, rs1, rs2, 0, 0, 0, 0⟩)
  | .and rd rs1 rs2 => some (⟨0x33, rd, 7, rs1, rs2, 0, 0, 0, 0⟩)
  | .mul rd rs1 rs2 => some (⟨0x33, rd, 0, rs1, rs2, 1, 0, 0, 0⟩)
  | .mulh rd rs1 rs2 => some (⟨0x33, rd, 1, rs1, rs2, 1, 0, 0, 0⟩)
  | .mulhsu rd rs1 rs2 => some (⟨0x33, rd, 2, rs1, rs2, 1, 0, 0, 0⟩)
  | .mulhu rd rs1 rs2 => some (⟨0x33, rd, 3, rs1, rs2, 1, 0, 0, 0⟩)
  | .div rd rs1 rs2 => some (⟨0x33, rd, 4, rs1, rs2, 1, 0, 0, 0⟩)
  | .divu rd rs1 rs2 => some (⟨0x33, rd, 5, rs1, rs2, 1, 0, 0, 0⟩)
  | .rem rd rs1 rs2 => some (⟨0x33, rd, 6, rs1, rs2, 1, 0, 0, 0⟩)
  | .remu rd rs1 rs2 => some (⟨0x33, rd, 7, rs1, rs2, 1, 0, 0, 0⟩)
  | .addw rd rs1 rs2 => some (⟨0x3B, rd, 0, rs1, rs2, 0, 0, 0, 0⟩)
  | .subw rd rs1 rs2 => some (⟨0x3B, rd, 0, rs1, rs2, 0, 0, 0, 4⟩)
  | .sllw rd rs1 rs2 => some (⟨0x3B, rd, 1, rs1, rs2, 0, 0, 0, 0⟩)
  | .srlw rd rs1 rs2 => some (⟨0x3B, rd, 5, rs1, rs2, 0, 0, 0, 0⟩)
  | .sraw rd rs1 rs2 => some (⟨0x3B, rd, 5, rs1, rs2, 0, 0, 0, 4⟩)
  | .mulw rd rs1 rs2 => some (⟨0x3B, rd, 0, rs1, rs2, 1, 0, 0, 0⟩)
  | .divw rd rs1 rs2 => some (⟨0x3B, rd, 4, rs1, rs2, 1, 0, 0, 0⟩)
  | .divuw rd rs1 rs2 => some (⟨0x3B, rd, 5, rs1, rs2, 1, 0, 0, 0⟩)
  | .remw rd rs1 rs2 => some (⟨0x3B, rd, 6, rs1, rs2, 1, 0, 0, 0⟩)
  | .remuw rd rs1 rs2 => some (⟨0x3B, rd, 7, rs1, rs2, 1, 0, 0, 0⟩)
  | .beq rs1 rs2 imm => some (Fields.b 0x63 0 rs1 rs2 imm)
  | .bne rs1 rs2 imm => some (Fields.b 0x63 1 rs1 rs2 imm)
  | .blt rs1 rs2 imm => some (Fields.b 0x63 4 rs1 rs2 imm)
  | .bge rs1 rs2 imm => some (Fields.b 0x63 5 rs1 rs2 imm)
  | .bltu rs1 rs2 imm => some (Fields.b 0x63 6 rs1 rs2 imm)
  | .bgeu rs1 rs2 imm => some (Fields.b 0x63 7 rs1 rs2 imm)
  | .jal rd imm => some (Fields.j 0x6F rd imm)
  | .jalr rd rs1 imm => some (Fields.i 0x67 rd 0 rs1 imm)
  | .lb rd rs1 imm => some (Fields.i 0x03 rd 0 rs1 imm)
  | .lh rd rs1 imm => some (Fields.i 0x03 rd 1 rs1 imm)
  | .lw rd rs1 imm => some (Fields.i 0x03 rd 2 rs1 imm)
  | .ld rd rs1 imm => some (Fields.i 0x03 rd 3 rs1 imm)
  | .lbu rd rs1 imm => some (Fields.i 0x03 rd 4 rs1 imm)
  | .lhu rd rs1 imm => some (Fields.i 0x03 rd 5 rs1 imm)
  | .lwu rd rs1 imm => some (Fields.i 0x03 rd 6 rs1 imm)
  | .sb rs1 rs2 imm => some (Fields.s 0x23 0 rs1 rs2 imm)
  | .sh rs1 rs2 imm => some (Fields.s 0x23 1 rs1 rs2 imm)
  | .sw rs1 rs2 imm => some (Fields.s 0x23 2 rs1 rs2 imm)
  | .sd rs1 rs2 imm => some (Fields.s 0x23 3 rs1 rs2 imm)
  | .fence pred succ => some (⟨0x0F, 0, 0, 0, (pred.extractLsb' 0 1 ++ succ), (pred.extractLsb' 1 1), (pred.extractLsb' 2 1), (pred.extractLsb' 3 1), 0⟩)
  | .pause => some (⟨0x0F, 0, 0, 0, 16, 0, 0, 0, 0⟩)
  | .fenceI => some (⟨0x0F, 0, 1, 0, 0, 0, 0, 0, 0⟩)
  | .csrrw rd rs1 csr => some (Fields.i 0x73 rd 1 rs1 csr)
  | .csrrs rd rs1 csr => some (Fields.i 0x73 rd 2 rs1 csr)
  | .csrrc rd rs1 csr => some (Fields.i 0x73 rd 3 rs1 csr)
  | .csrrwi rd imm csr => some (Fields.i 0x73 rd 5 imm csr)
  | .csrrsi rd imm csr => some (Fields.i 0x73 rd 6 imm csr)
  | .csrrci rd imm csr => some (Fields.i 0x73 rd 7 imm csr)
  | .ecall => some (⟨0x73, 0, 0, 0, 0, 0, 0, 0, 0⟩)
  | .ebreak => some (⟨0x73, 0, 0, 0, 1, 0, 0, 0, 0⟩)
  | .sret => some (⟨0x73, 0, 0, 0, 2, 0, 0, 0, 1⟩)
  | .mret => some (⟨0x73, 0, 0, 0, 2, 0, 0, 0, 3⟩)
  | .wfi => some (⟨0x73, 0, 0, 0, 5, 0, 0, 0, 1⟩)
  | .sfenceVma rs1 rs2 => some (⟨0x73, 0, 0, rs1, rs2, 1, 0, 0, 1⟩)
  | .lr rd rs1 aq rl ws => some (⟨0x2F, rd, ws, rs1, 0, rl, aq, 0, 1⟩)
  | .sc rd rs1 rs2 aq rl ws => some (⟨0x2F, rd, ws, rs1, rs2, rl, aq, 1, 1⟩)
  | .amoswap rd rs1 rs2 aq rl ws => some (⟨0x2F, rd, ws, rs1, rs2, rl, aq, 1, 0⟩)
  | .amoadd rd rs1 rs2 aq rl ws => some (⟨0x2F, rd, ws, rs1, rs2, rl, aq, 0, 0⟩)
  | .amoxor rd rs1 rs2 aq rl ws => some (⟨0x2F, rd, ws, rs1, rs2, rl, aq, 0, 2⟩)
  | .amoand rd rs1 rs2 aq rl ws => some (⟨0x2F, rd, ws, rs1, rs2, rl, aq, 0, 6⟩)
  | .amoor rd rs1 rs2 aq rl ws => some (⟨0x2F, rd, ws, rs1, rs2, rl, aq, 0, 4⟩)
  | .amomin rd rs1 rs2 aq rl ws => some (⟨0x2F, rd, ws, rs1, rs2, rl, aq, 0, 8⟩)
  | .amomax rd rs1 rs2 aq rl ws => some (⟨0x2F, rd, ws, rs1, rs2, rl, aq, 0, 10⟩)
  | .amominu rd rs1 rs2 aq rl ws => some (⟨0x2F, rd, ws, rs1, rs2, rl, aq, 0, 12⟩)
  | .amomaxu rd rs1 rs2 aq rl ws => some (⟨0x2F, rd, ws, rs1, rs2, rl, aq, 0, 14⟩)
  | .vset rd rs1 z => some (⟨0x57, rd, 7, rs1, (z.extractLsb' 3 1 ++ 0#1 ++ z.extractLsb' 0 3), (z.extractLsb' 4 1), (z.extractLsb' 5 1), (z.extractLsb' 6 1), 0⟩)
  | .vsetv rd rs1 rs2 => some (⟨0x57, rd, 7, rs1, rs2, 0, 0, 0, 1⟩)
  | .vaddVv vd vs2 vs1 c2 c1 vm => some (⟨0x57, vd, 0, vs1, vs2, vm, c1, c2, 0⟩)
  | .vaddVx vd vs2 rs1 c2 vm => some (⟨0x57, vd, 1, rs1, vs2, vm, 0, c2, 0⟩)
  | .vaddVi vd vs2 imm c2 vm => some (⟨0x57, vd, 2, imm, vs2, vm, 0, c2, 0⟩)
  | .vsubVv vd vs2 vs1 c2 c1 vm => some (⟨0x57, vd, 0, vs1, vs2, vm, c1, c2, 1⟩)
  | .vsubVx vd vs2 rs1 c2 vm => some (⟨0x57, vd, 1, rs1, vs2, vm, 0, c2, 1⟩)
  | .vmulVv vd vs2 vs1 c2 c1 vm => some (⟨0x57, vd, 0, vs1, vs2, vm, c1, c2, 2⟩)
  | .vmulVx vd vs2 rs1 c2 vm => some (⟨0x57, vd, 1, rs1, vs2, vm, 0, c2, 2⟩)
  | .vmulhVv vd vs2 vs1 c2 c1 vm => some (⟨0x57, vd, 0, vs1, vs2, vm, c1, c2, 3⟩)
  | .vmulhVx vd vs2 rs1 c2 vm => some (⟨0x57, vd, 1, rs1, vs2, vm, 0, c2, 3⟩)
  | .vmulhuVv vd vs2 vs1 c2 c1 vm => some (⟨0x57, vd, 0, vs1, vs2, vm, c1, c2, 4⟩)
  | .vmulhuVx vd vs2 rs1 c2 vm => some (⟨0x57, vd, 1, rs1, vs2, vm, 0, c2, 4⟩)
  | .vmaccVv vd vs2 vs1 c2 c1 vm => some (⟨0x57, vd, 0, vs1, vs2, vm, c1, c2, 5⟩)
  | .vmaccVx vd vs2 rs1 c2 vm => some (⟨0x57, vd, 1, rs1, vs2, vm, 0, c2, 5⟩)
  | .vandVv vd vs2 vs1 c2 c1 vm => some (⟨0x57, vd, 0, vs1, vs2, vm, c1, c2, 6⟩)
  | .vandVx vd vs2 rs1 c2 vm => some (⟨0x57, vd, 1, rs1, vs2, vm, 0, c2, 6⟩)
  | .vandVi vd vs2 imm c2 vm => some (⟨0x57, vd, 2, imm, vs2, vm, 0, c2, 6⟩)
  | .vorVv vd vs2 vs1 c2 c1 vm => some (⟨0x57, vd, 0, vs1, vs2, vm, c1, c2, 7⟩)
  | .vorVx vd vs2 rs1 c2 vm => some (⟨0x57, vd, 1, rs1, vs2, vm, 0, c2, 7⟩)
  | .vorVi vd vs2 imm c2 vm => some (⟨0x57, vd, 2, imm, vs2, vm, 0, c2, 7⟩)
  | .vxorVv vd vs2 vs1 c2 c1 vm => some (⟨0x57, vd, 0, vs1, vs2, vm, c1, c2, 8⟩)
  | .vxorVx vd vs2 rs1 c2 vm => some (⟨0x57, vd, 1, rs1, vs2, vm, 0, c2, 8⟩)
  | .vxorVi vd vs2 imm c2 vm => some (⟨0x57, vd, 2, imm, vs2, vm, 0, c2, 8⟩)
  | .vsllVv vd vs2 vs1 c2 c1 vm => some (⟨0x57, vd, 0, vs1, vs2, vm, c1, c2, 9⟩)
  | .vsllVx vd vs2 rs1 c2 vm => some (⟨0x57, vd, 1, rs1, vs2, vm, 0, c2, 9⟩)
  | .vsllVi vd vs2 imm c2 vm => some (⟨0x57, vd, 2, imm, vs2, vm, 0, c2, 9⟩)
  | .vsrlVv vd vs2 vs1 c2 c1 vm => some (⟨0x57, vd, 0, vs1, vs2, vm, c1, c2, 10⟩)
  | .vsrlVx vd vs2 rs1 c2 vm => some (⟨0x57, vd, 1, rs1, vs2, vm, 0, c2, 10⟩)
  | .vsrlVi vd vs2 imm c2 vm => some (⟨0x57, vd, 2, imm, vs2, vm, 0, c2, 10⟩)
  | .vsraVv vd vs2 vs1 c2 c1 vm => some (⟨0x57, vd, 0, vs1, vs2, vm, c1, c2, 11⟩)
  | .vsraVx vd vs2 rs1 c2 vm => some (⟨0x57, vd, 1, rs1, vs2, vm, 0, c2, 11⟩)
  | .vsraVi vd vs2 imm c2 vm => some (⟨0x57, vd, 2, imm, vs2, vm, 0, c2, 11⟩)
  | .vminVv vd vs2 vs1 c2 c1 vm => some (⟨0x57, vd, 0, vs1, vs2, vm, c1, c2, 12⟩)
  | .vminVx vd vs2 rs1 c2 vm => some (⟨0x57, vd, 1, rs1, vs2, vm, 0, c2, 12⟩)
  | .vmaxVv vd vs2 vs1 c2 c1 vm => some (⟨0x57, vd, 0, vs1, vs2, vm, c1, c2, 13⟩)
  | .vmaxVx vd vs2 rs1 c2 vm => some (⟨0x57, vd, 1, rs1, vs2, vm, 0, c2, 13⟩)
  | .vminuVv vd vs2 vs1 c2 c1 vm => some (⟨0x57, vd, 0, vs1, vs2, vm, c1, c2, 14⟩)
  | .vminuVx vd vs2 rs1 c2 vm => some (⟨0x57, vd, 1, rs1, vs2, vm, 0, c2, 14⟩)
  | .vmaxuVv vd vs2 vs1 c2 c1 vm => some (⟨0x57, vd, 0, vs1, vs2, vm, c1, c2, 15⟩)
  | .vmaxuVx vd vs2 rs1 c2 vm => some (⟨0x57, vd, 1, rs1, vs2, vm, 0, c2, 15⟩)
  | .vfaddVv vd vs2 vs1 c2 c1 vm => some (⟨0x57, vd, 3, vs1, vs2, vm, c1, c2, 0⟩)
  | .vfaddVf vd vs2 rs1 c2 vm => some (⟨0x57, vd, 4, rs1, vs2, vm, 0, c2, 0⟩)
  | .vfsubVv vd vs2 vs1 c2 c1 vm => some (⟨0x57, vd, 3, vs1, vs2, vm, c1, c2, 1⟩)
  | .vfsubVf vd vs2 rs1 c2 vm => some (⟨0x57, vd, 4, rs1, vs2, vm, 0, c2, 1⟩)
  | .vfmulVv vd vs2 vs1 c2 c1 vm => some (⟨0x57, vd, 3, vs1, vs2, vm, c1, c2, 2⟩)
  | .vfmulVf vd vs2 rs1 c2 vm => some (⟨0x57, vd, 4, rs1, vs2, vm, 0, c2, 2⟩)
  | .vfdivVv vd vs2 vs1 c2 c1 vm => some (⟨0x57, vd, 3, vs1, vs2, vm, c1, c2, 3⟩)
  | .vfdivVf vd vs2 rs1 c2 vm => some (⟨0x57, vd, 4, rs1, vs2, vm, 0, c2, 3⟩)
  | .vfmaccVv vd vs2 vs1 c2 c1 vm => some (⟨0x57, vd, 3, vs1, vs2, vm, c1, c2, 4⟩)
  | .vfmaccVf vd vs2 rs1 c2 vm => some (⟨0x57, vd, 4, rs1, vs2, vm, 0, c2, 4⟩)
  | .vfnmaccVv vd vs2 vs1 c2 c1 vm => some (⟨0x57, vd, 3, vs1, vs2, vm, c1, c2, 5⟩)
  | .vfnmaccVf vd vs2 rs1 c2 vm => some (⟨0x57, vd, 4, rs1, vs2, vm, 0, c2, 5⟩)
  | .vfmsacVv vd vs2 vs1 c2 c1 vm => some (⟨0x57, vd, 3, vs1, vs2, vm, c1, c2, 6⟩)
  | .vfmsacVf vd vs2 rs1 c2 vm => some (⟨0x57, vd, 4, rs1, vs2, vm, 0, c2, 6⟩)
  | .vfminVv vd vs2 vs1 c2 c1 vm => some (⟨0x57, vd, 3, vs1, vs2, vm, c1, c2, 7⟩)
  | .vfminVf vd vs2 rs1 c2 vm => some (⟨0x57, vd, 4, rs1, vs2, vm, 0, c2, 7⟩)
  | .vfmaxVv vd vs2 vs1 c2 c1 vm => some (⟨0x57, vd, 3, vs1, vs2, vm, c1, c2, 8⟩)
  | .vfmaxVf vd vs2 rs1 c2 vm => some (⟨0x57, vd, 4, rs1, vs2, vm, 0, c2, 8⟩)
  | .vfsgnjVv vd vs2 vs1 c2 c1 vm => some (⟨0x57, vd, 3, vs1, vs2, vm, c1, c2, 9⟩)
  | .vfsgnjVf vd vs2 rs1 c2 vm => some (⟨0x57, vd, 4, rs1, vs2, vm, 0, c2, 9⟩)
  | .vfsgnjnVv vd vs2 vs1 c2 c1 vm => some (⟨0x57, vd, 3, vs1, vs2, vm, c1, c2, 10⟩)
  | .vfsgnjnVf vd vs2 rs1 c2 vm => some (⟨0x57, vd, 4, rs1, vs2, vm, 0, c2, 10⟩)
  | .vfsgnjxVv vd vs2 vs1 c2 c1 vm => some (⟨0x57, vd, 3, vs1, vs2, vm, c1, c2, 11⟩)
  | .vfsgnjxVf vd vs2 rs1 c2 vm => some (⟨0x57, vd, 4, rs1, vs2, vm, 0, c2, 11⟩)
  | .vfsqrt vd vs2 c2 vm => some (⟨0x57, vd, 3, 0, vs2, vm, 0, c2, 12⟩)
  | .vfclass vd vs2 c2 vm => some (⟨0x57, vd, 3, 0, vs2, vm, 0, c2, 13⟩)
  | .vmseqVv vd vs2 vs1 c2 c1 vm => some (⟨0x5B, vd, 0, vs1, vs2, vm, c1, c2, 0⟩)
  | .vmseqVx vd vs2 rs1 c2 vm => some (⟨0x5B, vd, 1, rs1, vs2, vm, 0, c2, 0⟩)
  | .vmseqVi vd vs2 imm c2 vm => some (⟨0x5B, vd, 2, imm, vs2, vm, 0, c2, 0⟩)
  | .vmsneVv vd vs2 vs1 c2 c1 vm => some (⟨0x5B, vd, 0, vs1, vs2, vm, c1, c2, 1⟩)
  | .vmsneVx vd vs2 rs1 c2 vm => some (⟨0x5B, vd, 1, rs1, vs2, vm, 0, c2, 1⟩)
  | .vmsneVi vd vs2 imm c2 vm => some (⟨0x5B, vd, 2, imm, vs2, vm, 0, c2, 1⟩)
  | .vmsltVv vd vs2 vs1 c2 c1 vm => some (⟨0x5B, vd, 0, vs1, vs2, vm, c1, c2, 2⟩)
  | .vmsltVx vd vs2 rs1 c2 vm => some (⟨0x5B, vd, 1, rs1, vs2, vm, 0, c2, 2⟩)
  | .vmsltuVv vd vs2 vs1 c2 c1 vm => some (⟨0x5B, vd, 0, vs1, vs2, vm, c1, c2, 3⟩)
  | .vmsltuVx vd vs2 rs1 c2 vm => some (⟨0x5B, vd, 1, rs1, vs2, vm, 0, c2, 3⟩)
  | .vmsleVv vd vs2 vs1 c2 c1 vm => some (⟨0x5B, vd, 0, vs1, vs2, vm, c1, c2, 4⟩)
  | .vmsleVx vd vs2 rs1 c2 vm => some (⟨0x5B, vd, 1, rs1, vs2, vm, 0, c2, 4⟩)
  | .vmsleVi vd vs2 imm c2 vm => some (⟨0x5B, vd, 2, imm, vs2, vm, 0, c2, 4⟩)
  | .vmsleuVv vd vs2 vs1 c2 c1 vm => some (⟨0x5B, vd, 0, vs1, vs2, vm, c1, c2, 5⟩)
  | .vmsleuVx vd vs2 rs1 c2 vm => some (⟨0x5B, vd, 1, rs1, vs2, vm, 0, c2, 5⟩)
  | .vmsleuVi vd vs2 imm c2 vm => some (⟨0x5B, vd, 2, imm, vs2, vm, 0, c2, 5⟩)
  | .vsaddVv vd vs2 vs1 c2 c1 vm => some (⟨0x5B, vd, 0, vs1, vs2, vm, c1, c2, 6⟩)
  | .vsaddVx vd vs2 rs1 c2 vm => some (⟨0x5B, vd, 1, rs1, vs2, vm, 0, c2, 6⟩)
  | .vsaddVi vd vs2 imm c2 vm => some (⟨0x5B, vd, 2, imm, vs2, vm, 0, c2, 6⟩)
  | .vsadduVv vd vs2 vs1 c2 c1 vm => some (⟨0x5B, vd, 0, vs1, vs2, vm, c1, c2, 7⟩)
  | .vsadduVx vd vs2 rs1 c2 vm => some (⟨0x5B, vd, 1, rs1, vs2, vm, 0, c2, 7⟩)
  | .vsadduVi vd vs2 imm c2 vm => some (⟨0x5B, vd, 2, imm, vs2, vm, 0, c2, 7⟩)
  | .vssubVv vd vs2 vs1 c2 c1 vm => some (⟨0x5B, vd, 0, vs1, vs2, vm, c1, c2, 8⟩)
  | .vssubVx vd vs2 rs1 c2 vm => some (⟨0x5B, vd, 1, rs1, vs2, vm, 0, c2, 8⟩)
  | .vssubuVv vd vs2 vs1 c2 c1 vm => some (⟨0x5B, vd, 0, vs1, vs2, vm, c1, c2, 9⟩)
  | .vssubuVx vd vs2 rs1 c2 vm => some (⟨0x5B, vd, 1, rs1, vs2, vm, 0, c2, 9⟩)
  | .vdivVv vd vs2 vs1 c2 c1 vm => some (⟨0x5B, vd, 0, vs1, vs2, vm, c1, c2, 10⟩)
  | .vdivVx vd vs2 rs1 c2 vm => some (⟨0x5B, vd, 1, rs1, vs2, vm, 0, c2, 10⟩)
  | .vdivuVv vd vs2 vs1 c2 c1 vm => some (⟨0x5B, vd, 0, vs1, vs2, vm, c1, c2, 11⟩)
  | .vdivuVx vd vs2 rs1 c2 vm => some (⟨0x5B, vd, 1, rs1, vs2, vm, 0, c2, 11⟩)
  | .vremVv vd vs2 vs1 c2 c1 vm => some (⟨0x5B, vd, 0, vs1, vs2, vm, c1, c2, 12⟩)
  | .vremVx vd vs2 rs1 c2 vm => some (⟨0x5B, vd, 1, rs1, vs2, vm, 0, c2, 12⟩)
  | .vremuVv vd vs2 vs1 c2 c1 vm => some (⟨0x5B, vd, 0, vs1, vs2, vm, c1, c2, 13⟩)
  | .vremuVx vd vs2 rs1 c2 vm => some (⟨0x5B, vd, 1, rs1, vs2, vm, 0, c2, 13⟩)
  | .vmergeVv vd vs2 vs1 c2 c1 => some (⟨0x5B, vd, 0, vs1, vs2, 1, c1, c2, 14⟩)
  | .vmergeVx vd vs2 rs1 c2 => some (⟨0x5B, vd, 1, rs1, vs2, 1, 0, c2, 14⟩)
  | .vmergeVi vd vs2 imm c2 => some (⟨0x5B, vd, 2, imm, vs2, 1, 0, c2, 14⟩)
  | .vmvVv vd vs1 c1 => some (⟨0x5B, vd, 0, vs1, 0, 0, c1, 0, 15⟩)
  | .vmvVx vd rs1 => some (⟨0x5B, vd, 1, rs1, 0, 0, 0, 0, 15⟩)
  | .vmvVi vd imm => some (⟨0x5B, vd, 2, imm, 0, 0, 0, 0, 15⟩)
  | .vmfeq vd vs2 vs1 c2 c1 vm => some (⟨0x5B, vd, 3, vs1, vs2, vm, c1, c2, 0⟩)
  | .vmfne vd vs2 vs1 c2 c1 vm => some (⟨0x5B, vd, 3, vs1, vs2, vm, c1, c2, 1⟩)
  | .vmflt vd vs2 vs1 c2 c1 vm => some (⟨0x5B, vd, 3, vs1, vs2, vm, c1, c2, 2⟩)
  | .vmfle vd vs2 vs1 c2 c1 vm => some (⟨0x5B, vd, 3, vs1, vs2, vm, c1, c2, 3⟩)
  | .vmand vd vs2 vs1 c2 c1 => some (⟨0x5B, vd, 3, vs1, vs2, 0, c1, c2, 4⟩)
  | .vmor vd vs2 vs1 c2 c1 => some (⟨0x5B, vd, 3, vs1, vs2, 0, c1, c2, 5⟩)
  | .vmxor vd vs2 vs1 c2 c1 => some (⟨0x5B, vd, 3, vs1, vs2, 0, c1, c2, 6⟩)
  | .vmandn vd vs2 vs1 c2 c1 => some (⟨0x5B, vd, 3, vs1, vs2, 0, c1, c2, 7⟩)
  | .vcpop rd vs2 c2 => some (⟨0x5B, rd, 3, 0, vs2, 0, 0, c2, 8⟩)
  | .vfirst rd vs2 c2 => some (⟨0x5B, rd, 3, 0, vs2, 0, 0, c2, 9⟩)
  | .viota vd vs2 c2 vm => some (⟨0x5B, vd, 3, 0, vs2, vm, 0, c2, 10⟩)
  | .vid vd vm => some (⟨0x5B, vd, 3, 0, 0, vm, 0, 0, 11⟩)
  | .vredsum vd vs2 vs1 c2 c1 vm => some (⟨0x5B, vd, 4, vs1, vs2, vm, c1, c2, 0⟩)
  | .vredmax vd vs2 vs1 c2 c1 vm => some (⟨0x5B, vd, 4, vs1, vs2, vm, c1, c2, 1⟩)
  | .vredmin vd vs2 vs1 c2 c1 vm => some (⟨0x5B, vd, 4, vs1, vs2, vm, c1, c2, 2⟩)
  | .vredmaxu vd vs2 vs1 c2 c1 vm => some (⟨0x5B, vd, 4, vs1, vs2, vm, c1, c2, 3⟩)
  | .vredminu vd vs2 vs1 c2 c1 vm => some (⟨0x5B, vd, 4, vs1, vs2, vm, c1, c2, 4⟩)
  | .vredand vd vs2 vs1 c2 c1 vm => some (⟨0x5B, vd, 4, vs1, vs2, vm, c1, c2, 5⟩)
  | .vredor vd vs2 vs1 c2 c1 vm => some (⟨0x5B, vd, 4, vs1, vs2, vm, c1, c2, 6⟩)
  | .vredxor vd vs2 vs1 c2 c1 vm => some (⟨0x5B, vd, 4, vs1, vs2, vm, c1, c2, 7⟩)
  | .vfredsum vd vs2 vs1 c2 c1 vm => some (⟨0x5B, vd, 4, vs1, vs2, vm, c1, c2, 8⟩)
  | .vfredmax vd vs2 vs1 c2 c1 vm => some (⟨0x5B, vd, 4, vs1, vs2, vm, c1, c2, 9⟩)
  | .vfredmin vd vs2 vs1 c2 c1 vm => some (⟨0x5B, vd, 4, vs1, vs2, vm, c1, c2, 10⟩)
  | .vslideup vd vs2 rs1 c2 vm => some (⟨0x5B, vd, 5, rs1, vs2, vm, 0, c2, 0⟩)
  | .vslidedown vd vs2 rs1 c2 vm => some (⟨0x5B, vd, 5, rs1, vs2, vm, 0, c2, 1⟩)
  | .vslide1up vd vs2 rs1 c2 vm => some (⟨0x5B, vd, 5, rs1, vs2, vm, 0, c2, 2⟩)
  | .vslide1down vd vs2 rs1 c2 vm => some (⟨0x5B, vd, 5, rs1, vs2, vm, 0, c2, 3⟩)
  | .vrgather vd vs2 vs1 c2 c1 vm => some (⟨0x5B, vd, 5, vs1, vs2, vm, c1, c2, 4⟩)
  | .vcompress vd vs2 vs1 c2 c1 => some (⟨0x5B, vd, 5, vs1, vs2, 0, c1, c2, 5⟩)
  | .vmvxs rd vs2 c2 => some (⟨0x5B, rd, 5, 0, vs2, 0, 0, c2, 6⟩)
  | .vmvsx vd rs1 => some (⟨0x5B, vd, 5, rs1, 0, 0, 0, 0, 7⟩)
  | .vcvt vd vs2 w f c2 vm => some (⟨0x5B, vd, 6, (w ++ f), vs2, vm, 0, c2, 0⟩)
  | .vfrsqrt vd vs2 c2 vm => some (⟨0x5B, vd, 7, 0, vs2, vm, 0, c2, 0⟩)
  | .vfrcp vd vs2 c2 vm => some (⟨0x5B, vd, 7, 0, vs2, vm, 0, c2, 1⟩)
  | .vfexp2 vd vs2 c2 vm => some (⟨0x5B, vd, 7, 0, vs2, vm, 0, c2, 2⟩)
  | .vflog2 vd vs2 c2 vm => some (⟨0x5B, vd, 7, 0, vs2, vm, 0, c2, 3⟩)
  | .vfsin vd vs2 c2 vm => some (⟨0x5B, vd, 7, 0, vs2, vm, 0, c2, 4⟩)
  | .vfcos vd vs2 c2 vm => some (⟨0x5B, vd, 7, 0, vs2, vm, 0, c2, 5⟩)
  | .vmpush vs1 c1 => some (⟨0x5B, 0, 7, vs1, 0, 0, c1, 0, 6⟩)
  | .vmelse => some (⟨0x5B, 0, 7, 0, 0, 0, 0, 0, 7⟩)
  | .vmpop => some (⟨0x5B, 0, 7, 0, 0, 0, 0, 0, 8⟩)
  | .vfchk vs1 c1 => some (⟨0x5B, 0, 7, vs1, 0, 0, c1, 0, 9⟩)
  | .vfmclr => some (⟨0x5B, 0, 7, 0, 0, 0, 0, 0, 10⟩)
  | .vappend vs2 rs1 c2 vm => some (⟨0x5B, 0, 7, rs1, vs2, vm, 0, c2, 11⟩)
  | .vle vd rs1 w vm => some (⟨0x07, vd, w, rs1, 0, vm, 0, 0, 0⟩)
  | .vleS vd rs1 w => some (⟨0x07, vd, w, rs1, 0, 0, 0, 0, 1⟩)
  | .vlse vd rs1 rs2 w vm => some (⟨0x07, vd, w, rs1, rs2, vm, 1, 0, 0⟩)
  | .vlseS vd rs1 rs2 w => some (⟨0x07, vd, w, rs1, rs2, 0, 1, 0, 1⟩)
  | .vlxe vd vs2 rs1 w vm => some (⟨0x07, vd, w, rs1, vs2, vm, 0, 1, 0⟩)
  | .vlxeS vd vs2 rs1 w => some (⟨0x07, vd, w, rs1, vs2, 0, 0, 1, 1⟩)
  | .vse vs3 rs1 w vm => some (⟨0x27, vs3, w, rs1, 0, vm, 0, 0, 0⟩)
  | .vsse vs3 rs1 rs2 w vm => some (⟨0x27, vs3, w, rs1, rs2, vm, 1, 0, 0⟩)
  | .vsxe vs3 vs2 rs1 w vm => some (⟨0x27, vs3, w, rs1, vs2, vm, 0, 1, 0⟩)
  | .mset rd rs1 => some (⟨0x2B, rd, 0, rs1, 0, 0, 0, 0, 0⟩)
  | .mrel rs1 => some (⟨0x2B, 0, 0, rs1, 0, 1, 0, 0, 0⟩)
  | .mzero g => some (⟨0x2B, 0, (0#2 ++ g), 0, 0, 0, 1, 0, 0⟩)
  | .mopa g vs2 vs1 => some (⟨0x2B, 0, (0#2 ++ g), vs1, (vs2 ++ 0#3), 0, 0, 0, 1⟩)
  | .mops g vs2 vs1 => some (⟨0x2B, 0, (0#2 ++ g), vs1, (vs2 ++ 0#3), 1, 0, 0, 1⟩)
  | .mopai g vs2 vs1 => some (⟨0x2B, 0, (0#2 ++ g), vs1, (vs2 ++ 0#3), 0, 1, 0, 1⟩)
  | .mrd vd g rs1 => some (⟨0x2B, vd, (0#2 ++ g), rs1, 0, 0, 0, 0, 2⟩)
  | .mwr g vs2 rs1 => some (⟨0x2B, 0, (0#2 ++ g), rs1, vs2, 1, 0, 0, 2⟩)
  | .mrdc vd g rs1 => some (⟨0x2B, vd, (0#2 ++ g), rs1, 0, 0, 1, 0, 2⟩)
  | .mwrc g vs2 rs1 => some (⟨0x2B, 0, (0#2 ++ g), rs1, vs2, 1, 1, 0, 2⟩)
  | .mdot vd grp vs2 vs1 => some (⟨0x2B, vd, (0#1 ++ grp), vs1, vs2, 0, 0, 0, 3⟩)
  | .vmaxexp vs2 vm => some (⟨0x2B, 0, (0#2 ++ vm), 0, vs2, 0, 0, 0, 4⟩)
  | .vqst vs3 rs1 vm => some (⟨0x2B, vs3, (0#2 ++ vm), rs1, 0, 1, 0, 0, 4⟩)
  | .vqst2 vs3 rs1 vm => some (⟨0x2B, vs3, (1#2 ++ vm), rs1, 0, 1, 0, 0, 4⟩)
  | .vqsave rs1 => some (⟨0x2B, 0, 0, rs1, 0, 0, 0, 0, 5⟩)
  | .vqload rs1 => some (⟨0x2B, 0, 0, rs1, 0, 1, 0, 0, 5⟩)
  | .vscsave rs1 => some (⟨0x2B, 0, 0, rs1, 0, 0, 1, 0, 5⟩)
  | .vscload rs1 => some (⟨0x2B, 0, 0, rs1, 0, 1, 1, 0, 5⟩)
  | .vqclr => some (⟨0x2B, 0, 0, 0, 0, 0, 0, 1, 5⟩)
  | .taskSpawn rd rs1 => some (⟨0x0B, rd, 0, rs1, 0, 0, 0, 0, 0⟩)
  | .taskSpawnt rs1 => some (⟨0x0B, 0, 0, rs1, 0, 1, 0, 0, 0⟩)
  | .taskFork rd rs1 => some (⟨0x0B, rd, 0, rs1, 0, 0, 1, 0, 0⟩)
  | .taskForkt rs1 => some (⟨0x0B, 0, 0, rs1, 0, 1, 1, 0, 0⟩)
  | .taskPop rd rs1 => some (⟨0x0B, rd, 0, rs1, 0, 0, 0, 1, 0⟩)
  | .taskJoin rd rs1 scope => some (⟨0x0B, rd, scope, rs1, 0, 1, 0, 1, 0⟩)
  | .taskExit => some (⟨0x0B, 0, 0, 0, 0, 0, 1, 1, 0⟩)
  | .gbarArrive rd rs1 n => some (⟨0x0B, rd, 0, rs1, (0#1 ++ n), 0, 0, 0, 2⟩)
  | .gbarMax rd rs1 n => some (⟨0x0B, rd, 0, rs1, (0#1 ++ n), 1, 0, 0, 2⟩)
  | .gbarMin rd rs1 n => some (⟨0x0B, rd, 0, rs1, (0#1 ++ n), 0, 1, 0, 2⟩)
  | .gbarAdd rd rs1 n => some (⟨0x0B, rd, 0, rs1, (0#1 ++ n), 1, 1, 0, 2⟩)
  | .gbarOr rd rs1 n => some (⟨0x0B, rd, 0, rs1, (0#1 ++ n), 0, 0, 1, 2⟩)
  | .msgSend rd rs1 rs2 scope => some (⟨0x0B, rd, scope, rs1, rs2, 0, 0, 0, 4⟩)
  | .msgSendt rs1 rs2 scope => some (⟨0x0B, 0, scope, rs1, rs2, 1, 0, 0, 4⟩)
  | .msgDone => some (⟨0x0B, 0, 0, 0, 0, 0, 1, 0, 4⟩)
  | .wait rd rs1 rs2 scope => some (⟨0x0B, rd, scope, rs1, rs2, 0, 0, 0, 6⟩)
  | .fenceS scope pred succ => some (⟨0x0B, 0, scope, (0#1 ++ succ), (0#1 ++ pred), 1, 0, 0, 6⟩)
  | .pub rs1 => some (⟨0x0B, 0, 0, rs1, 0, 0, 1, 0, 6⟩)
  | .ldaW rd rs1 scope => some (⟨0x0B, rd, scope, rs1, 0, 1, 1, 0, 6⟩)
  | .ldaD rd rs1 scope => some (⟨0x0B, rd, scope, rs1, 0, 0, 0, 1, 6⟩)
  | .stlW rs1 rs2 scope => some (⟨0x0B, 0, scope, rs1, rs2, 1, 0, 1, 6⟩)
  | .stlD rs1 rs2 scope => some (⟨0x0B, 0, scope, rs1, rs2, 0, 1, 1, 6⟩)
  | .aqNotify rs1 rs2 scope => some (⟨0x0B, 0, scope, rs1, rs2, 0, 0, 0, 8⟩)
  | .tcopy rd rs1 scope => some (⟨0x0B, rd, scope, rs1, 0, 0, 0, 0, 9⟩)
  | .cmAcq rd rs1 rs2 => some (⟨0x0B, rd, 0, rs1, rs2, 1, 0, 0, 9⟩)
  | .strmSet rs1 k => some (⟨0x0B, 0, 0, rs1, (0#3 ++ k), 0, 0, 0, 10⟩)
  | .vtex vd vs2 rs1 vm => some (⟨0x7B, vd, 0, rs1, vs2, vm, 0, 0, 0⟩)
  | .vrayq vd vs2 rs1 vm => some (⟨0x7B, vd, 0, rs1, vs2, vm, 0, 0, 1⟩)
  | .vrayo vd vs2 rs1 vm => some (⟨0x7B, vd, 0, rs1, vs2, vm, 1, 0, 1⟩)
  | .vsobol vd vs2 rs1 vm => some (⟨0x7B, vd, 0, rs1, vs2, vm, 0, 0, 2⟩)
  | .vvbmin vd vs2 rs1 vm => some (⟨0x7B, vd, 0, rs1, vs2, vm, 0, 0, 3⟩)
  | .vblend vd vs2 rs1 vm => some (⟨0x7B, vd, 0, rs1, vs2, vm, 0, 0, 4⟩)
  | .rcQ vd vs2 vm => some (⟨0x7B, vd, 0, 0, vs2, vm, 0, 0, 8⟩)
  | .rcQt vd vs2 vs1 vm => some (⟨0x7B, vd, 0, vs1, vs2, vm, 1, 0, 8⟩)
  | .fwRing rd rs1 rs2 => some (⟨0x7B, rd, 0, rs1, rs2, 0, 0, 0, 0⟩)
  | .fwBext rd rs1 lo len1 => some (⟨0x7B, rd, 1, rs1, (len1.extractLsb' 0 5), (len1.extractLsb' 5 1), (lo.extractLsb' 0 1), (lo.extractLsb' 1 1), (lo.extractLsb' 2 4)⟩)
  | .fwSwait rd rs1 => some (⟨0x7B, rd, 2, rs1, 0, 0, 0, 0, 0⟩)
  | .fwDisp rd rs1 rs2 => some (⟨0x7B, rd, 3, rs1, rs2, 0, 0, 0, 0⟩)
  | .fwQcbld rd rs1 => some (⟨0x7B, rd, 4, rs1, 0, 0, 0, 0, 0⟩)
  | .fwQcbst rs1 rs2 => some (⟨0x7B, 0, 5, rs1, rs2, 0, 0, 0, 0⟩)
  | .matrixQueueExecute _ => none
  | .copyElementMove _ _ => none
  | .chunkComplete _ _ => none
  | .copyComplete _ _ => none
  | .copyFault _ _ => none
  | .streamRefill _ _ _ => none
  | .deferredException _ => none
  | .interrupt _ => none
  | .cycleCompare _ => none
  | .wfiWake _ => none
  | .waitWake _ => none
  | .cmAcqWake _ => none
  | .taskPopWake _ => none
  | .gbarWake _ => none
  | .fwSwaitWake _ => none
  | .preemptionRequest _ => none
  | .saveComplete _ => none
  | .ctxSave _ => none
  | .ctxRestore _ => none
  | .restoreComplete _ => none
  | .ctxRetire _ => none
  | .retireComplete _ => none
  | .lsevt0Pop _ => none
  | .messageArrival _ => none
  | .messageRun _ => none
  | .messageLimit _ => none
  | .contextFreeNotice _ => none
  | .uncountedResend _ _ => none
  | .notify _ => none
  | .hostPacing _ => none
  | .lodestarDoorbell _ => none
  | .presentationReferenceEdge _ => none
  | .agentNop _ _ => none
  | .bicubic _ _ => none
  | .bilinear _ _ => none
  | .dicingRecordEmit _ => none
  | .grid _ _ => none
  | .triangle _ _ => none
  | .blend _ _ => none
  | .present _ _ => none
  | .presentSettle _ _ => none
  | .aqctlEnable _ _ _ => none
  | .aqctlDisable _ _ _ => none
  | .aqheadWrite _ _ _ => none
  | .hwEnable _ _ _ => none
  | .hwDisable _ _ _ => none
  | .hwverWrite _ _ _ => none
  | .rcBind _ _ => none
  | .rcLoadComplete _ => none
  | .rcUnbind _ => none
  | .rcWritebackRequest _ _ => none
  | .rcWriteback _ => none
  | .afterglowStep _ => none
  | .rcPublish _ => none
  | .tlbinv _ _ => none
  | .wdpet _ _ => none
  | .vlpWrite _ _ => none
  | .vlpApply _ => none
  | .lmsplitWrite _ _ => none
  | .lmgroupWrite _ _ => none
  | .lmfmtWrite _ _ _ => none
  | .cflagsClear _ _ => none
  | .flagUnion _ => none
  | .fwkpendClear _ _ => none
  | .fwalmWrite _ _ => none
  | .fwsmapBind _ _ _ => none
  | .fwsmapUnbind _ _ => none
  | .fwpaceWrite _ _ => none
  | .scyccmpWrite _ _ => none
  | .sipNotifyClear _ _ => none
  | .strmctlWrite _ _ => none
  | .registerWrite _ _ _ => none
  | .hostKick _ _ _ => none
  | .kickRestart _ _ => none
  | .bitmapStoreRetry _ => none
  | .schedulingRound _ => none
  | .launch _ _ => none
  | .signal _ _ => none
  | .pace _ _ => none
  | .nop _ _ => none
  | .unservedRecord _ _ => none
  | .continuationDeferred _ => none
  | .svcAttach _ => none
  | .svcReply _ => none
  | .qcbWrite _ => none
  | .svcForwarded _ => none
  | .serviceRingRound _ => none
  | .watchdogExpiry _ => none
  | .uncorrectableSramError _ _ => none
  | .registerFileParityError _ _ => none
  | .uncorrectableTierMemoryError _ _ => none
  | .correctableError _ => none
  | .coreFenced _ => none
  | .coreRepair _ => none
  | .lockInterfaceRequest _ => none
  | .startInterfaceRequest _ => none
  | .stopInterfaceRequest _ => none
  | .hostMemoryRequest _ _ _ _ _ => none
  | .ownershipFlipToHost _ => none
  | .ownershipFlipToDevice _ => none
  | .fabricRemoteOperation _ _ _ _ _ => none
  | .flitFailure _ _ _ => none
  | .linkRetrain _ _ => none
  | .keyUpdate _ _ => none
  | .coreThrottle _ _ => none
  | .deviceReset => none
  | .boot _ => none
  | .getMeasurements _ => none
  | .mgmtReadIdentity => none
  | .mgmtReadTelemetry => none
  | .mgmtResetRequest => none
  | .illegalInstruction _ => none
  | .instructionFetchFault _ _ => none
  | .uncorrectableError _ _ _ => none
  | .coreRailSetting _ _ => none
  | .linkKeyInstall _ _ _ => none

/-- The word of an instruction; 0 for an event, which no word names. -/
def encode (i : Instr) : W32 :=
  match encodeFields i with
  | some f => f.toWord
  | none => 0

/-- The instruction belongs to Xlfw, whose words only an Orrery core decodes so (R56). -/
def Instr.isFw : Instr → Bool
  | .fwRing _ _ _ | .fwBext _ _ _ _ | .fwSwait _ _ | .fwDisp _ _ _ | .fwQcbld _ _ | .fwQcbst _ _ => true
  | _ => false

/-- The instruction the decoder reads from the bits `w` of a row of `nbits` bits of spec/opcode_table.json.
A word of custom-3 is tried as Xlgfx first and, where no vector core accepts it, as Xlfw (R55, R56). -/
noncomputable def decodeTableWord (nbits w : Nat) : Option Instr :=
  let v : W32 := BitVec.ofNat 32 (w % 2 ^ nbits)
  match decode false v with
  | .ok i => some i
  | .error _ => (decode true v).toOption

end Sys2Proof
end

