-- ==== Sys2Proof/Config.lean ====
section
/-!
DEFINITION. Config.lean: what one implementation fixes and what the manual leaves open, as constants without a
body: no proof can see their values, so a claim holds whatever they are. `n` is the counter of free values that
the state holds (`State.free`), so each use may differ. The assumption log names each of them.
-/

namespace Sys2Proof.Config

/-- Cycles an issue waits beyond its own cycle (R279 gives figures no program may rely on). -/
opaque stall : Nat → Nat
/-- Whether an access uses a cached translation that differs from a fresh walk (R340, R343). -/
opaque useCached : Nat → Bool
/-- Whether a walk goes on from a cached pointer entry that differs from the one in memory (R340, R343). -/
opaque usePointer : Nat → Nat → Bool
/-- Whether a fetch uses the bytes the instruction cache holds of a line that has changed since (R101, R189). -/
opaque useFetched : Nat → Bool
/-- What a load of Lodestar or Orrery returns from a line in error (R355). -/
opaque badLoad : Nat → Word
/-- What a stream register holds of an element of its strip that no instruction has read and that cannot be read (R240,
R241). -/
opaque unreadStrip : Nat → Word
/-- Which member of a contiguous group translates an access (R337). -/
opaque groupPick : Nat → Nat
/-- Where in its area a deque record is spilled (R292). -/
opaque spillPick : Nat → Nat
/-- Which of a copy's remaining elements moves next (R233). -/
opaque copyPick : Nat → Nat
/-- The core rail in mV that holds 1.8 GHz on a die at a temperature (R16). -/
opaque railFor : Nat → Nat → Nat
/-- Temperatures in the management port's telemetry (R18): one for each compute die. -/
opaque temperature : Nat → Nat → Nat
/-- Module power in watts in the telemetry (R18). -/
opaque power : Nat → Nat
/-- SHA-512 (R352, R353), which the manual takes from its standard. -/
opaque sha512 : List (BitVec 512) → BitVec 512
/-- The digest of the boot ROM and the fused debug state (R353). -/
opaque romDigest : BitVec 512
opaque debugFuses : BitVec 512
/-- The nonzero content the manual does not give of a partition's TDI report (R353): its serialisation. -/
opaque tdiReport : List Word → BitVec 512

/-- The certificate of the alias key, from measurement registers 1 to 4 (R353). -/
opaque aliasCert : List (BitVec 512) → BitVec 512
/-- The links and cores enabled in this package (R353), as measured. -/
opaque enabled : BitVec 512
/-- The key of a direction of a link derived from a partition's secret and tenant identifier (R351): secret, identifier,
link, direction. -/
opaque linkKey : Word → BitVec 16 → Nat → Nat → Word
/-- How many flits have passed in a direction of a link since the last event of the link (R351). -/
opaque flits : Nat → Nat
/-- What a line holds whose dirty copy an uncorrectable error has destroyed (R355). -/
opaque lostLine : Nat → BitVec 512
/-- What a party outside the package reads from a line in error (R349, R355). -/
opaque badRead : Nat → Word
/-- The value in `a1` of a service call for which R360 names none. -/
opaque svcValue : Nat → Word

end Sys2Proof.Config
end

