-- ==== Sys2Proof/Machine/Bits.lean ====
section
/-!
DEFINITION. Machine/Bits.lean: bit fields, elements of vector registers, bytes of words, and lists keyed by
natural numbers in rising order, the one representation of every sparse family of the state.
-/

namespace Sys2Proof.Machine

/-- Bits [lo+n−1:lo] of a word (R3). -/
def bits {w : Nat} (x : BitVec w) (lo n : Nat) : BitVec n := x.extractLsb' lo n

/-- Bit i of a word as a truth value. -/
def bit {w : Nat} (x : BitVec w) (i : Nat) : Bool := x.getLsbD i

/-- A truth value as a word of width n. -/
def ofBool (n : Nat) (b : Bool) : BitVec n := if b then 1 else 0

/-- A field value put at bit lo of a word of width w. -/
def place {n : Nat} (w lo : Nat) (x : BitVec n) : BitVec w := x.setWidth w <<< lo

/-- `x` with its bits [lo+n−1:lo] replaced by `v`. -/
def setBits {w n : Nat} (x : BitVec w) (lo : Nat) (v : BitVec n) : BitVec w :=
  (x &&& ~~~(place w lo (BitVec.allOnes n))) ||| place w lo v

/-- `x` with bit i set to b. -/
def setBit {w : Nat} (x : BitVec w) (i : Nat) (b : Bool) : BitVec w :=
  if b then x ||| (1#w <<< i) else x &&& ~~~(1#w <<< i)

/-- Element i at width w bits of a vector register, zero-extended (R23). -/
def getElem (r : VReg) (w i : Nat) : Word := BitVec.ofNat 64 ((r.toNat >>> (i * w)) % 2 ^ w)

/-- `r` with element i at width w bits replaced by the low w bits of v (R23). -/
def putElem (r : VReg) (w i : Nat) (v : Word) : VReg :=
  (r &&& ~~~((BitVec.ofNat 16384 (2 ^ w - 1)) <<< (i * w))) |||
    ((BitVec.ofNat 16384 (v.toNat % 2 ^ w)) <<< (i * w))

/-- The low n bits of a word read as two's complement: `sg(v, n)` of R91. -/
def sg (v : Word) (n : Nat) : Int :=
  let u := v.toNat % 2 ^ n
  if 2 * u < 2 ^ n then (u : Int) else (u : Int) - (2 ^ n : Nat)

/-- The low n bits of a word read as unsigned: `ug(v, n)` of R91. -/
def ug (v : Word) (n : Nat) : Nat := v.toNat % 2 ^ n

/-- An exact integer kept modulo 2^64. -/
def wordOfInt (i : Int) : Word := BitVec.ofInt 64 i

/-- `sext(x[n-1:0], 64)`. -/
def sextFrom (v : Word) (n : Nat) : Word := wordOfInt (sg v n)

/-- The i-th byte of a word, the first the least significant (R97). -/
def byteOf (v : Nat) (i : Nat) : Byte := BitVec.ofNat 8 (v >>> (8 * i))

/-- The value of bytes, the first the least significant (R97). -/
def ofBytes : List Byte → Nat
  | [] => 0
  | b :: bs => b.toNat + 256 * ofBytes bs

/-- The first n bytes of a value, the least significant first. -/
def toBytes (v : Nat) : Nat → List Byte
  | 0 => []
  | n + 1 => BitVec.ofNat 8 v :: toBytes (v >>> 8) n

/-! ### Keyed lists -/

/-- The entry of a key, or the default. -/
def look {α : Type} (m : List (Nat × α)) (k : Nat) (d : α) : α :=
  match m with
  | [] => d
  | (j, a) :: m => if j = k then a else if k < j then d else look m k d

/-- The list with the entry of a key replaced or put in its place in the rising order. -/
def put {α : Type} (m : List (Nat × α)) (k : Nat) (a : α) : List (Nat × α) :=
  match m with
  | [] => [(k, a)]
  | (j, b) :: m =>
    if j = k then (k, a) :: m else if k < j then (k, a) :: (j, b) :: m else (j, b) :: put m k a

/-- The list without the entry of a key. -/
def del {α : Type} (m : List (Nat × α)) (k : Nat) : List (Nat × α) :=
  match m with
  | [] => []
  | (j, b) :: m => if j = k then m else if k < j then (j, b) :: m else (j, b) :: del m k

/-- Keys strictly rising. -/
def rising {α : Type} : List (Nat × α) → Bool
  | [] => true
  | [_] => true
  | (i, _) :: (j, b) :: m => i < j && rising ((j, b) :: m)

/-- A number put into a rising list without repeats. -/
def insertNat (m : List Nat) (k : Nat) : List Nat :=
  match m with
  | [] => [k]
  | j :: m => if j = k then j :: m else if k < j then k :: j :: m else j :: insertNat m k

/-- The numbers 0 to n − 1. -/
def upto (n : Nat) : List Nat := List.range n

/-- Ceiling of a quotient. -/
def ceilDiv (a b : Nat) : Nat := (a + b - 1) / b

/-- The first element of a list that a test accepts, with its place. -/
def findIdx {α : Type} (p : α → Bool) : List α → Nat → Option (Nat × α)
  | [], _ => none
  | a :: l, i => if p a then some (i, a) else findIdx p l (i + 1)

end Sys2Proof.Machine
end

