-- ==== Sys2Proof/Machine/State.lean ====
section
/-!
DEFINITION. Machine/State.lean: everything the manual gives the package to hold, as plain data, the reasons a
step can stop, and the state right after reset. Sparse families (harts, cores, clusters and so on) are lists of
(key, value) in rising order of key, an unlisted key standing for the reset value of that part.

Keys. A core: 96 × die + 8 × cluster + logical core, 0 to 383 (R188), and 384 + cluster for a cluster's spare.
A cluster: 12 × die + cluster, 0 to 47. A hart: 8 × core + context for a context, 3456 + core for a message
hart, 3888 + cluster for a Lodestar, 3936 + 4 × I/O die + core for an Orrery core. An agent: 6 × die + number.
-/

namespace Sys2Proof.Machine

/-- Why the machine stops with a fault. -/
inductive Fault where
  /-- Raised by an event whose operands name a core, hart, cluster, agent, partition, queue or link that the
  package does not hold (R7, R15): no such event happens. Safe. -/
  | noSuchUnit
deriving DecidableEq, Repr

/-- Why the machine gives no next state. -/
inductive Refusal where
  /-- Raised by the dispatch alone, for an instruction the model gives no meaning. Safe. -/
  | notModelled (mnemonic : String)
deriving DecidableEq, Repr

/-- The outcome of an instruction, an event or a step. -/
abbrev Out (σ : Type) := Host.Outcome σ Fault Refusal

/-! ### Accesses and traps -/

/-- An exception on its way: cause code and trap value (R322, R332). -/
structure Trap where
  cause : BitVec 8
  tval  : Word
deriving DecidableEq, Repr

/-- What an access does, which decides its causes and the permission it needs (R98, R212, R338). -/
inductive Acc where
  | fetch | load | store | amo | lr | sc
deriving DecidableEq, Repr

/-- The column of R189 an access belongs to; a scalar access has a width in bytes. -/
inductive Cls where
  | scalar (n : Nat) | vector | atomic | resv | fetch
deriving DecidableEq, Repr

/-- Where a domain address lies (R187, R188, R190). -/
inductive Region where
  | tier | window | remote | scratch (core bank off : Nat) | aperture (port : Nat)
  | clusterBlock (g off : Nat) | agentBlock (a off : Nat) | partBlock (q off : Nat) | unmapped
deriving DecidableEq, Repr

/-- The privilege modes (R320). -/
inductive Mode where
  | u | s | m
deriving DecidableEq, Repr

/-- A load reservation: the 64-byte line (address / 64) and the scope code (R213). -/
structure Resv where
  line  : Nat
  scope : Nat
deriving DecidableEq, Repr

/-- The vector state of a hart (R22, R24 to R26). -/
structure VecState where
  v       : Vector VReg 16 := Vector.replicate 16 0
  vtype   : Word := 1 <<< 63
  vl      : Nat := 0
  vstart  : BitVec 11 := 0
  /-- On-chip masks, newest first, at most 16. -/
  mstack  : List Mask := []
  /-- Masks spilled to memory. -/
  spilled : Nat := 0
  vmsp    : Word := 0
  vfm     : Mask := 0
deriving DecidableEq, Repr

/-- The quantiser state (R29): the axis, the last two residues of each of 64 rows, 64 block scales. -/
structure QuantState where
  qaxis  : Word := 0
  prev1  : Vector W32 64 := Vector.replicate 64 0
  prev2  : Vector W32 64 := Vector.replicate 64 0
  vscale : Vector Byte 64 := Vector.replicate 64 0
deriving DecidableEq, Repr

/-- Whose translation a party uses (R339): the partition, the table, the mode and `sum`. -/
structure TrCtx where
  part : Nat := 0
  atp  : Word := 0
  mode : Mode := .u
  sum  : Bool := false
deriving DecidableEq, Repr

/-- A party that accesses memory: the hart it is or acts for (`none` for an agent or a unit), whether it is a
host or a party of another package, the core whose scratchpad alias it means, the translation caches it uses
(`coreTlb` and the like), and its translation; `mach` marks Lodestar and Orrery cores, which use domain addresses
and are not checked (R334, R346). A copy or a stream has the gang its hart was in when it issued, and `gone` says
that the hart it acts for has since left its context (R203). -/
structure Who where
  key  : Option Nat
  host : Bool := false
  mach : Bool := false
  core : Option Nat := none
  units : List Nat := []
  tr   : TrCtx := {}
  copy : Bool := false
  gang : Option (Nat × BitVec 4) := none
  gone : Bool := false
deriving DecidableEq, Repr

/-- One stream (R239): its 64-byte pattern, its position, the refill's translation and gang (R203, R339) and the
elements of the strip already fetched, by element number of the stream. -/
structure Stream where
  pat  : BitVec 512 := 0
  pos  : Nat := 0
  tr   : TrCtx := {}
  gang : Option (Nat × BitVec 4) := none
  strip : List (Nat × Word) := []
deriving DecidableEq, Repr

/-- The radiance pin (R180). -/
structure Pin where
  epoch   : BitVec 16
  slot    : Nat
  gen     : Word
  cluster : Nat
deriving DecidableEq, Repr

/-- The supervisor CSRs of a context (R321 to R324, R334); of `sip` only bit 0 is latched. -/
structure SCsrs where
  sstatus  : Word := 0
  sie      : Word := 0
  notify   : Bool := false
  stvec    : Word := 0
  sscratch : Word := 0
  sepc     : Word := 0
  scause   : Word := 0
  stval    : Word := 0
  satp     : Word := 0
deriving DecidableEq, Repr

/-- The machine CSRs of a Lodestar or an Orrery core (R320, R321). -/
structure MCsrs where
  mstatus  : Word := 0x1800
  mie      : Word := 0
  mtvec    : Word := 0
  mscratch : Word := 0
  mepc     : Word := 0
  mcause   : Word := 0
  mtval    : Word := 0
deriving DecidableEq, Repr

/-- The task state (R290). -/
structure TaskState where
  tdepth : BitVec 8 := 0
  tmax   : BitVec 8 := 255
  tclass : BitVec 3 := 7
  tjoin  : Word := 0
  tgang  : BitVec 4 := 0
  member : Bool := false
deriving DecidableEq, Repr

/-- The barrier slot (R284). -/
structure BarSlot where
  bpend  : Bool := false
  bn     : BitVec 4 := 0
  bphase : W32 := 0
  bval   : Word := 0
  brel   : Bool := false
deriving DecidableEq, Repr

/-- A deferred exception (R325): cause and `stval`. -/
structure Deferred where
  cause : BitVec 8
  tval  : Word
deriving DecidableEq, Repr

/-- A message (R262, R263): its record, where it goes, who sent it, its number and scope. -/
structure Msg where
  handler : Word
  cpl     : Word
  payload : Vector Word 5
  dst     : BitVec 18
  tohart  : Bool
  gen     : W32
  /-- The sending hart (its key), its package and its `hgen` at the send. -/
  src     : Nat
  srcPkg  : BitVec 6
  srcGen  : W32
  /-- The sender's partition and, for the completion word, its translation (R262). -/
  tr      : TrCtx
  /-- The tenant of the sender's partition, which names the partition to another package (R347). -/
  ptid    : BitVec 16 := 0
  seq     : W32
  scope   : Nat
  trapping : Bool
deriving DecidableEq, Repr

/-- A send-queue entry (R263, R264): not sent yet, in flight (for the first time, or again after a refusal), refused (noted
or uncounted), accepted and awaiting its outcome, or holding an outcome that waits for room in the deferred queue (R325). -/
inductive SendState where
  | unsent | flying (again : Bool) | refused (uncounted : Bool) | accepted | outcome
deriving DecidableEq, Repr

/-- One entry of a send queue. -/
structure SendEntry where
  msg   : Msg
  state : SendState
deriving DecidableEq, Repr

/-- What produced a deferred exception that waits, and keeps its resource meanwhile (R325). -/
inductive WaitSrc where
  | copy (id : Nat)
  | send (dest : Nat) (seq : W32)
  | append
deriving DecidableEq, Repr

/-- A deferred exception waiting at its source (R325). -/
structure WaitDef where
  d   : Deferred
  src : WaitSrc
deriving DecidableEq, Repr

/-- What a hart is parked in, with the operands its wake-up reads (R106, R221, R238, R284, R295, R300, R311). -/
inductive Park where
  | wfi
  | wait (rd : BitVec 5) (addr cmp : Word) (scope : Nat)
  | cmAcq (rd : BitVec 5) (n : Nat) (clr : Bool) (req : Word)
  | taskPop (rd : BitVec 5) (nosteal : Bool)
  | taskExit
  | gbar (rd : BitVec 5) (n : Nat)
  | swait (rd : BitVec 5) (mask : BitVec 3)
deriving DecidableEq, Repr

/-- Why an instruction could not issue (R274): its stall, which it leaves when it issues. -/
inductive Stall where
  | sendQueue | copies | window | matrixQueue | interlock | grant | radiance | bank | flags | append | event | drain | element
deriving DecidableEq, Repr

/-- What stops a context (R327, R328, R355): a save, with the stop code of the save area, or a retirement. -/
inductive SaveReq where
  | save (why : BitVec 8)
  | retire
deriving DecidableEq, Repr

/-- A task record (R288). -/
structure TaskRec where
  code     : Word := 0
  frame    : Word := 0
  join     : Word := 0
  lanes    : BitVec 8 := 0
  gang     : BitVec 8 := 0
  spad     : BitVec 8 := 0
  rsvd     : BitVec 8 := 0
  depth    : BitVec 8 := 0
  maxdepth : BitVec 8 := 0
  cls      : BitVec 8 := 0
  flags    : BitVec 8 := 0
  arg      : Vector Word 4 := Vector.replicate 4 0
deriving DecidableEq, Repr

/-- One hart that executes instructions: a context, a message hart, a Lodestar or an Orrery core. -/
structure Hart where
  x        : Vector Word 32 := Vector.replicate 32 0
  pc       : Word := 0
  mode     : Mode := .u
  resv     : Option Resv := none
  vec      : VecState := {}
  fcsr     : BitVec 8 := 0
  quant    : QuantState := {}
  strmctl  : Word := 0
  strm     : Vector Stream 4 := Vector.replicate 4 {}
  mvl      : BitVec 2 := 0
  rcdesc   : Word := 0
  scyccmp  : Word := 0
  instret  : Word := 0
  hgen     : W32 := 0
  pin      : Option Pin := none
  sc       : SCsrs := {}
  mc       : MCsrs := {}
  /-- `cycle` of a Lodestar or of an Orrery core; a vector core keeps its own. -/
  cycle    : Word := 0
  deferred : List Deferred := []
  /-- Deferred exceptions that wait for room, oldest first (R325). -/
  waiting  : List WaitDef := []
  task     : TaskState := {}
  bar      : BarSlot := {}
  sendQ    : List SendEntry := []
  /-- The next sequence number by destination core, keyed by `hloc`[17:3] (R263). -/
  seqs     : List (Nat × W32) := []
  /-- The record the hart has taken, while matrix instructions of its own are queued that it waits for (R290). -/
  begun    : Option TaskRec := none
  /-- The place of its record among all records begun, the latest highest (R317), and whether Lodestar has pre-empted it for
  an unserved record. -/
  beganAt  : Nat := 0
  preempted : Bool := false
  ctxState : BitVec 2 := 0
  ctxarea  : Word := 0
  ctxpart  : BitVec 3 := 0
  savedAt  : Option Word := none
  /-- The save area of a service call that Lodestar has not taken up yet (R326, R360). -/
  call     : Option Word := none
  park     : Option Park := none
  stall    : Option Stall := none
  saveReq  : Option SaveReq := none
  /-- The save engine has stopped the hart (R327). -/
  stopped  : Bool := false
  /-- The element before which something reaches the hart inside the vector instruction it runs (the model's own). -/
  arrive   : Option Nat := none
  fwsel    : BitVec 6 := 0
  fwsig    : BitVec 3 := 0
deriving DecidableEq, Repr

/-- What R20 leaves of a context: every register zero but `vtype`, no grant, no pin. -/
def Hart.zero : Hart := {}

/-! ### A core -/

/-- The operations of the matrix queue (R134, R136). -/
inductive MqOp where
  | zero | opa | ops | opai
deriving DecidableEq, Repr

/-- A posted matrix instruction with what it captured at issue (R138) and its operands. -/
structure MqEntry where
  slot  : Nat
  array : Nat
  op    : MqOp
  mvl   : Nat := 0
  vtype : Word := 0
  frm   : BitVec 3 := 0
  a     : VReg := 0
  b     : List VReg := []
  /-- The hart has since written `fflags` or `fcsr`: the flags of this instruction come before that write (R90). -/
  cut   : Bool := false
  scale : Vector Byte 64 := Vector.replicate 64 0
deriving DecidableEq, Repr

/-- What stopped a copy (R234): the failing address and the least linear index not written. -/
structure CopyStop where
  faddr : Word
  fidx  : Nat
deriving DecidableEq, Repr

/-- A copy in progress (R229 to R236), with the descriptor read at issue. -/
structure Copy where
  id     : Nat
  slot   : Nat
  hgen   : W32
  desc   : BitVec 1024
  descAt : Word
  tr     : TrCtx
  /-- The issuing hart's gang, as (cluster, number), when the copy issued (R203). -/
  gang   : Option (Nat × BitVec 4) := none
  scope  : Nat
  frm    : BitVec 3
  /-- A converting copy: source and destination bank formats (R154). -/
  conv   : Option (BitVec 3 × BitVec 3) := none
  /-- The banks (core, bank) a converting copy keeps in flight (R232). -/
  banks  : List (Nat × Nat) := []
  /-- Linear indexes already moved or skipped, rising. -/
  done   : List Nat := []
  /-- Chunks whose bit is set. -/
  chunks : List Nat := []
  flags  : BitVec 5 := 0
  /-- The axis and the residues of a shaped copy (R154). -/
  q      : QuantState := {}
  stop   : Option CopyStop := none
  /-- Its 0x34 waits for room in the deferred queue, or its post is made: nothing more moves. -/
  ended  : Bool := false
deriving DecidableEq, Repr

/-- A source record of a message buffer (R265), most recently used first in its list. -/
structure SrcRec where
  src    : Nat
  srcPkg : BitVec 6
  gen    : W32
  expect : W32
deriving DecidableEq, Repr

/-- The message a message hart is running (R266) and the instructions it has retired. -/
structure RunMsg where
  msg   : Msg
  count : Nat
deriving DecidableEq, Repr

/-- A write of `vlp` that waits (R27): the value, and the register of the CSR instruction that waits with it, with what it
read. -/
structure VlpWait where
  v  : Word
  rd : Option (BitVec 5 × Word) := none
deriving DecidableEq, Repr

/-- A vector core (R9, R19, R34, R237, R264, R273 to R278, R281, R356). -/
structure Core where
  sv      : Vector VReg 16 := Vector.replicate 16 0
  vlp     : Word := 0
  vlpWait : Option VlpWait := none
  acc0    : Vector W32 4096 := Vector.replicate 4096 0
  acc1    : Vector W32 4096 := Vector.replicate 4096 0
  /-- The context that holds each array. -/
  hold0   : Option Nat := none
  hold1   : Option Nat := none
  mq      : List MqEntry := []
  lmsplit : BitVec 16 := 0
  lmgroup : BitVec 4 := 0
  lmfmt   : Vector (BitVec 3) 16 := Vector.replicate 16 0
  /-- The instruction cache (R9, R189): up to 1,024 lines by domain address / 64, with the bytes they held when they
  were fetched, most recently used first. -/
  icache  : List (Nat × BitVec 512) := []
  /-- The issue policy (R276). -/
  issuepol : BitVec 1 := 0
  cycle   : Word := 0
  stalecnt : Word := 0
  cmask   : Vector Word 8 := Vector.replicate 8 0
  copies  : List Copy := []
  rot     : Nat := 0
  greedy  : Option Nat := none
  age     : List Nat := [0, 1, 2, 3, 4, 5, 6, 7]
  passed  : Vector Nat 8 := Vector.replicate 8 0
  msgWait : Nat := 0
  dqbase  : Word := 0
  dqcap   : Nat := 0
  /-- On-chip deque records, oldest first, at most 64, and the places of the spilled ones, oldest first. -/
  deque   : List TaskRec := []
  spilled : List Nat := []
  inbox   : List TaskRec := []
  msgBuf  : List Msg := []
  /-- Refused sources with a place in the list of 64: (hart key, package), oldest first. -/
  refused : List (Nat × BitVec 6) := []
  srcs    : List SrcRec := []
  /-- Sources of other packages with a refused message not accepted yet, and its number (R264). -/
  heldSrcs : List (Nat × BitVec 6 × W32) := []
  running : Option RunMsg := none
  fenced  : Bool := false
  absent  : Bool := false
  /-- Lodestar has been told of the fence (R356). -/
  told    : Bool := false
  /-- Contexts whose state fails parity (R358), and the number of records lost to an error (R355). -/
  badCtx  : List Nat := []
  lostRecs : Nat := 0
deriving DecidableEq, Repr

/-! ### A cluster -/

/-- A gang and its barrier (R282, R284): `val` is the combination of the phase, `away` the save areas of the saved
members whose arrival is pending (R287). -/
structure Gang where
  en      : Bool := false
  size    : BitVec 6 := 0
  lanes   : BitVec 3 := 0
  members : Nat := 0
  arr     : Nat := 0
  op      : BitVec 3 := 0
  phase   : W32 := 0
  val     : Word := 0
  away    : List Nat := []
deriving DecidableEq, Repr

/-- A record of the pending-launch store with its passed count (R293). -/
structure PlsRec where
  task  : TaskRec
  count : Nat
deriving DecidableEq, Repr

/-- A Lodestar event (R329): `lsevt0` without its valid bit, `lsevt1`; and, while it waits, the hart and the source whose
resource it keeps. -/
structure LsEvent where
  kind : BitVec 4
  code : BitVec 8 := 0
  hart : BitVec 3 := 0
  core : BitVec 4 := 0
  val  : Word := 0
  keeps : Option (Nat × WaitSrc) := none
deriving DecidableEq, Repr

/-- A training sample: eight inputs and three targets (R179). -/
structure Sample where
  x  : Vector W32 8
  tg : Vector W32 3
deriving DecidableEq, Repr

/-- The radiance unit (R171 to R184). A slot lists its FP16 parameters in the order of R175. -/
structure Radiance where
  rcbind : Word := 0
  state  : BitVec 2 := 0
  err    : BitVec 4 := 0
  epoch  : BitVec 16 := 0
  train  : Bool := false
  tshare : BitVec 3 := 2
  wb     : Bool := false
  rcsteps : Word := 0
  /-- Steps taken since the last publication that counts (R182). -/
  since  : Nat := 0
  /-- The writes a step of Afterglow (`true`) or a write-back has still to make: address, bytes, value (R181, R184, R208). -/
  todo   : Option (Bool × List (Word × Nat × Nat)) := none
  ring   : List Sample := []
  rcdrop : Word := 0
  rcrej  : Word := 0
  slot0  : List (BitVec 16) := []
  slot1  : List (BitVec 16) := []
  /-- Generation numbers of the two slots and the current slot. -/
  gen0   : Word := 0
  gen1   : Word := 0
  cur    : Nat := 0
  desc   : BitVec 512 := 0
  /-- Pins of the current epoch that saved harts hold: save area and slot (R180). -/
  away   : List (Nat × Nat) := []
deriving DecidableEq, Repr

/-- A hart Lodestar has pre-empted and is to resume (R317): its save area, logical core, class, lanes, partition and the
arrays it holds. -/
structure SavedHart where
  area  : Nat
  core  : Nat
  cls   : BitVec 3
  lanes : Nat
  part  : BitVec 3
  arr0  : Bool
  arr1  : Bool
deriving DecidableEq, Repr

/-- A cluster (R8, R33, R39, R281, R329). -/
structure Cluster where
  cflags   : BitVec 5 := 0
  flagsDue : BitVec 5 := 0
  lsel     : BitVec 4 := 0
  gangs    : Vector Gang 16 := Vector.replicate 16 {}
  pls      : List PlsRec := []
  /-- Continuations Lodestar keeps until the store has room, ahead of every other record (R299). -/
  held     : List TaskRec := []
  /-- Records of a repaired core that Lodestar keeps until the store has room (R358). -/
  moved    : List TaskRec := []
  /-- Pre-empted harts that Lodestar is to resume, oldest save first (R317). -/
  preempted : List SavedHart := []
  evq      : List LsEvent := []
  /-- Events that wait at their sources while the queue is full (R329). -/
  evWait   : List LsEvent := []
  lsevt1   : Word := 0
  rc       : Radiance := {}
  spareUsed : Bool := false
deriving DecidableEq, Repr

/-! ### Agents, partitions, Orrery complexes, links -/

/-- A queue of a graphics agent (R244). -/
structure AgentQueue where
  base  : Word := 0
  lg    : Nat := 4
  tail  : Word := 0
  head  : Word := 0
  state : BitVec 2 := 0
  err   : BitVec 4 := 0
  en    : Bool := false
  pres  : Bool := false
  prio  : BitVec 3 := 0
  ien   : Bool := false
  ihloc : BitVec 18 := 0
  plast : Word := 0
  faddr : Word := 0
  /-- The entry in progress, its 64 bytes; how a PRESENT entry settled, complete or missed; how far the agent has
  come with an entry that waits at a write (R208, R260): items written, and two values it holds; and whether its
  post is made and only `aqhead` has still to pass it (R367). -/
  entry : Option (BitVec 512) := none
  settled : Option Bool := none
  prog  : Option (Nat × Nat × Nat) := none
  posted : Bool := false
deriving DecidableEq, Repr

/-- A graphics agent (R243, R246, R251): its last served queue of each priority, the cluster that last received a
record, and the records it has still to emit, and the queue whose records it emits. -/
structure Agent where
  pcnt   : Word := 0
  pmiss  : Word := 0
  pctl   : Bool := false
  qs     : Vector AgentQueue 8 := Vector.replicate 8 {}
  lastQs : Vector Nat 8 := Vector.replicate 8 7
  lastCl : Nat := 5
  emit   : List TaskRec := []
  emitQ  : Option Nat := none
deriving DecidableEq, Repr

/-- A host-visible window (R206, R208); a pending line is kept with the value the host still sees. -/
structure Window where
  en      : Bool := false
  base    : Word := 0
  pages   : BitVec 19 := 0
  ver     : Word := 0
  cnt     : Word := 0
  pending : List (Nat × BitVec 512) := []
deriving DecidableEq, Repr

/-- A notice waiting for a journal entry (R365). -/
structure Notice where
  kind : BitVec 16
  arg  : Vector Word 4
deriving DecidableEq, Repr

/-- A caller whose request Lodestar holds (R362): its context, its save area, and its journal entry once accepted. -/
structure Caller where
  ctx   : Nat
  area  : Nat
  entry : Option Nat := none
deriving DecidableEq, Repr

/-- A partition (R345, R361 to R365, R348, R349). -/
structure Partition where
  patp    : Word := 0
  pstate  : BitVec 2 := 0
  reason  : BitVec 4 := 0
  ptid    : BitVec 16 := 0
  pown    : BitVec 8 := 0
  phab    : Word := 0
  phas    : Word := 0
  pmrbase : Vector Word 8 := Vector.replicate 8 0
  pmrsize : Vector Word 8 := Vector.replicate 8 0
  wins    : Vector Window 16 := Vector.replicate 16 {}
  /-- `svcj`: attached, and the journal address. -/
  attached : Bool := false
  journal : Word := 0
  /-- The service hart (its key) and its `hgen` at attachment. -/
  svcHart : Nat := 0
  svcGen  : W32 := 0
  wdcnt   : Nat := 0
  wdlimit : BitVec 8 := 0
  svcrst  : Word := 0
  /-- The restart image (R360): the bytes of a save area by offset. -/
  image   : List Host.Cell := []
  /-- The service hart's context is lost and its restart has still to be made (R364). -/
  svcLost : Bool := false
  /-- The number of the next journal entry. -/
  jidx    : Nat := 0
  notices : List Notice := []
  /-- Callers of forwarded requests that have not been answered, oldest first. -/
  callers : List Caller := []
  /-- A STOP request waits for the retirement of the partition's contexts (R348). -/
  stopping : Bool := false
  /-- The generation of the partition's memory keys, and whether they exist. -/
  keyGen  : Nat := 0
  hasKeys : Bool := false
deriving DecidableEq, Repr

/-- A slot of an Orrery complex (R303, R306). -/
structure FwSlot where
  valid : Bool := false
  qid   : BitVec 20 := 0
  page  : Word := 0
  cons  : Word := 0
  kick  : Word := 0
deriving DecidableEq, Repr

/-- A line of the QCB cache (R306); a set's lines are kept most recently used first. -/
structure QcbLine where
  id    : Nat
  data  : Vector Word 16
  dirty : Bool
deriving DecidableEq, Repr

/-- An Orrery complex (R303 to R314). -/
structure Complex where
  fwalm   : Word := 0
  slots   : Vector FwSlot 64 := Vector.replicate 64 {}
  fwkpend : Word := 0
  cache   : List QcbLine := []
  /-- Cores a refused `fw.disp` noted (R310). -/
  noted   : List Nat := []
  /-- Bitmap bits still to be stored (R306). -/
  retry   : List Nat := []
  /-- The core last used by a LAUNCH (R314), and the slots' records held in firmware memory. -/
  lastDisp : Nat := 0
  held    : List (Nat × TaskRec) := []
deriving DecidableEq, Repr

/-- A direction of a Mixis link (R351, R366): its nonce counter, the keys installed by partition, and the number of key
updates, which makes the key of its firmware traffic and comets. -/
structure LinkDir where
  nonce  : Nat := 0
  keys   : List (Nat × Word) := []
  rekeys : Nat := 0
deriving DecidableEq, Repr

/-- A Mixis link (R14, R351, R366): its working lanes, its width, whether it is up, and its two directions: 0 from this
package, 1 to it. -/
structure Link where
  lanes  : List Nat := [0, 1, 2, 3, 4, 5, 6, 7]
  half   : Bool := false
  up     : Bool := true
  dirs   : Vector LinkDir 2 := Vector.replicate 2 {}
deriving DecidableEq, Repr

/-- A tenant's partition on another package (R346, R347): package, tenant, whether it is in RUN. -/
structure RemotePart where
  pkg  : BitVec 6
  ptid : BitVec 16
  run  : Bool
  /-- Its ranges of local addresses: base and size. -/
  ranges : List (Nat × Nat) := []
  /-- Link keys for it are installed on the route between the packages. -/
  keyed : Bool := false
deriving DecidableEq, Repr

/-- A comet in flight (R268): a context-free notice from a core to a sender (its hart), host pacing to an agent from an
Orrery core, a notify from an agent, a doorbell to a cluster's Lodestar from an Orrery core. -/
inductive Comet where
  | free (refuser : Nat) (sender : Nat)
  | pacing (agent src : Nat)
  | notify (ihloc : BitVec 18) (agent : Nat) (value : W32)
  | doorbell (cluster : Nat) (value : W32) (src : Nat)
deriving DecidableEq, Repr

/-- A message in flight, to a core of this package (its key). -/
structure Flight where
  core : Nat
  msg  : Msg
deriving DecidableEq, Repr

/-- What this package tells another about a message of its hart `src` to the core `dst` here (R264, R267). -/
structure RemoteReply where
  pkg : BitVec 6
  src : Nat
  dst : BitVec 18
  seq : W32
  ans : MsgAnswer
deriving DecidableEq, Repr

/-- An entry of a translation cache (R340): the unit that holds it, whether it is a pointer entry of a cluster, its tags,
the page or the range of addresses it covers and the entry of the page table. -/
structure TlbEntry where
  unit : Nat
  ptr  : Bool := false
  part : Nat
  asid : BitVec 16
  glob : Bool
  vpage : Nat
  lg   : Nat
  pte  : Word
deriving DecidableEq, Repr

/-- How far the boot has come (R352): the failing stage; the boot loader running; Orrery's firmware running too; or all
the firmware running. -/
inductive BootState where
  | off | failed (stage : Nat) | loader | orrery | running
deriving DecidableEq, Repr

/-- A reply of the management port or of SPDM (R18, R353), or the TDISP error response to a partition's request (R348). -/
inductive MgmtReply where
  | identity (form : BitVec 2) (vendor arch impl : Word) (cert : BitVec 512)
  | telemetry (temps rails : List Nat) (power : Nat) (stopped : List Word) (corrected : List Nat)
  | measurements (index : Nat) (value : BitVec 512)
  | bootFailed (stage : Nat)
  | tdispError (part : Nat)
deriving DecidableEq, Repr

/-- A word a party outside the package reads as the answer to a request: at host port 0 or 1 (R350), or, with 2 added to
its number, a party of another package (R205). -/
structure HostReply where
  port : Nat
  addr : Nat
  val  : Word
deriving DecidableEq, Repr

/-- Who moves next (the model's own; see the assumption log): an event of the table, a hart whose turn it is, or a
hart whose turn it is and which something reaches before an element of the vector instruction it runs (R110). -/
inductive Move where
  | event (i : Instr)
  | issue (hart : Nat)
  | issueTo (hart : Nat) (element : Nat)
deriving DecidableEq, Repr

/-- What the device keeps of a saved hart beside its area. -/
structure SavedNote where
  strm    : List (TrCtx × Option (Nat × BitVec 4)) := []
  beganAt : Nat := 0
deriving DecidableEq, Repr

/-- The package. -/
structure State where
  mem      : List Host.Cell := []
  harts    : List (Nat × Hart) := []
  cores    : List (Nat × Core) := []
  clusters : List (Nat × Cluster) := []
  agents   : List (Nat × Agent) := []
  parts    : Vector Partition 8 := Vector.replicate 8 {}
  orr      : Vector Complex 2 := Vector.replicate 2 {}
  links    : Vector Link 16 := Vector.replicate 16 {}
  remotes  : List RemotePart := []
  tlb      : List TlbEntry := []
  /-- What a save area has no place for, by area: the translations and gangs of the streams of the hart saved there (R203,
  R339), and when its record began (R317). -/
  savedNotes : List (Nat × SavedNote) := []
  /-- Records begun so far (R317). -/
  begins   : Nat := 0
  comets   : List Comet := []
  flights  : List Flight := []
  /-- Messages that have left for other packages and have not ended, and what this package has told them about theirs. -/
  outMsgs  : List Msg := []
  replies  : List RemoteReply := []
  /-- Host-owned 4 KiB pages (local address / 4096), rising (R224). -/
  hostPages : List Nat := []
  /-- Lines (local address / 64) poisoned (R355) and lines whose tag does not match (R349). -/
  poisoned : List Nat := []
  badTags  : List Nat := []
  /-- Corrected errors by row of R355's table. -/
  corrected : Vector Nat 10 := Vector.replicate 10 0
  /-- Packages of the load-store domain (R31, R187). -/
  domain   : List (BitVec 6) := [0]
  form     : BitVec 2 := 1
  pkg      : BitVec 6 := 0
  twoHosts : Bool := false
  cap1     : Nat := 0x3000000000
  cap2     : Nat := 0x10000000000
  rails    : Vector Nat 4 := Vector.replicate 4 500
  sstop    : Vector Word 4 := Vector.replicate 4 0
  /-- Measurement registers by index (R353); 0 where none is listed. -/
  meas     : List (Nat × BitVec 512) := []
  /-- The security version in the fuses (R352). -/
  fuseVer  : Nat := 0
  boot     : BootState := .off
  devKeyGen : Nat := 0
  mgmt     : List MgmtReply := []
  hostOut  : List HostReply := []
  /-- The next number of the operations each other party of the fabric sends (R205). -/
  fabric   : List (Nat × W32) := []
  /-- The model's own: the hart whose instruction runs, the word it fetched, the core whose issue slot moves,
  who moves next, and the counter of free values. -/
  cur      : Nat := 0
  ir       : W32 := 0
  focus    : Nat := 0
  agenda   : List Move := []
  free     : Nat := 0
deriving DecidableEq, Repr

/-- The outcome of an instruction or an event of the package. -/
abbrev Res := Out State

/-- The package right after reset (R20 and the reset column of every register); what the manual leaves open
is as the assumption log says. -/
def State.reset : State := {}

end Sys2Proof.Machine
end

