-- ==== Sys2Proof/Machine/Access.lean ====
section
/-!
DEFINITION. Machine/Access.lean: which hart, core, cluster, agent and partition belong together, and the one
place where each part of the state is read and written.
-/

namespace Sys2Proof.Machine

/-! ### Keys -/

/-- The kind of a hart: 0 a context of a vector core, 1 a message hart, 2 a Lodestar, 3 an Orrery core. -/
def hartKind (k : Nat) : Nat := if k < 3456 then 0 else if k < 3888 then 1 else if k < 3936 then 2 else 3

/-- The hart is a context of a vector core. -/
def isCtx (k : Nat) : Bool := hartKind k = 0
/-- The hart is a message hart. -/
def isMsg (k : Nat) : Bool := hartKind k = 1
/-- The hart runs only in M mode: a Lodestar or an Orrery core (R320). -/
def isMach (k : Nat) : Bool := 2 ≤ hartKind k
/-- The hart is an Orrery core. -/
def isOrr (k : Nat) : Bool := hartKind k = 3

/-- The key of context h of core c, of the message hart of core c, of the Lodestar of cluster g, and of Orrery
core c of I/O die d. -/
def ctxKey (c h : Nat) : Nat := 8 * c + h
def msgKey (c : Nat) : Nat := 3456 + c
def lodeKey (g : Nat) : Nat := 3888 + g
def orrKey (d c : Nat) : Nat := 3936 + 4 * d + c

/-- The vector core of a context or a message hart. -/
def coreOf (k : Nat) : Nat := if k < 3456 then k / 8 else k - 3456
/-- The context number of a hart within its core. -/
def slotOf (k : Nat) : Nat := k % 8
/-- The cluster of a core: logical cores are numbered by cluster, then the spares. -/
def clusterOfCore (c : Nat) : Nat := if c < 384 then c / 8 else c - 384
/-- The logical number of a core within its cluster; 8 is the spare (R39). -/
def coreInCluster (c : Nat) : Nat := if c < 384 then c % 8 else 8
/-- The core of a cluster that a number 0 to 8 names (R39). -/
def coreAt (g n : Nat) : Nat := if n < 8 then 8 * g + n else 384 + g
/-- The cluster of a hart that has one: contexts, message harts and Lodestar. -/
def clusterOf (k : Nat) : Nat := if k < 3888 then clusterOfCore (coreOf k) else k - 3888
/-- The I/O die of an Orrery core. -/
def iodOf (k : Nat) : Nat := (k - 3936) / 4

/-- The half-die of a cluster (R344): 2 × die + half. -/
def halfOfCluster (g : Nat) : Nat := 2 * (g / 12) + (g % 12) / 6
/-- The half-die of an agent: agents a of a die serve half a mod 2 (R190). -/
def halfOfAgent (a : Nat) : Nat := 2 * (a / 6) + (a % 6) % 2

/-- `hloc`[17:0] of a context (R31); bits above the hart field name the core. -/
def hlocOf (pkg : BitVec 6) (k : Nat) : BitVec 18 :=
  let c := coreOf k
  let g := clusterOfCore c
  pkg ++ BitVec.ofNat 2 (g / 12) ++ BitVec.ofNat 4 (g % 12) ++ BitVec.ofNat 3 (coreInCluster c) ++
    BitVec.ofNat 3 (slotOf k)

/-! ### Translation caches (R340) -/

/-- The numbers of the caches: the TLB and pointer caches of cluster g, the TLB of agent a, of the radiance unit of
cluster g and of core c. -/
def clusterTlb (g : Nat) : Nat := g
def agentTlb (a : Nat) : Nat := 48 + a
def radianceTlb (g : Nat) : Nat := 72 + g
def coreTlb (c : Nat) : Nat := 120 + c
/-- How many entries a cache holds. -/
def tlbSize (u : Nat) : Nat := if u < 48 then 2048 else 64
/-- The caches the accesses of a core's harts go through. -/
def coreTlbs (c : Nat) : List Nat := [coreTlb c, clusterTlb (clusterOfCore c)]

/-- The core an `hloc` names, without its package. -/
def coreOfHloc (h : BitVec 18) : Nat :=
  96 * (bits h 10 2).toNat + 8 * (bits h 6 4).toNat + (bits h 3 3).toNat
/-- The core an `hloc` names, with its package, as one number: the number a sequence counter is kept under (R263). -/
def destOf (h : BitVec 18) : Nat := (bits h 3 15).toNat
/-- The destination is in another package. -/
def State.abroad (s : State) (h : BitVec 18) : Bool := bits h 12 6 ≠ s.pkg
/-- The hart an `hloc` names, without its package. -/
def hartOfHloc (h : BitVec 18) : Nat := ctxKey (coreOfHloc h) (bits h 0 3).toNat

/-! ### Parts of the state -/

/-- A hart no step has touched: Lodestar and Orrery cores are in M mode (R320). -/
def Hart.resetOf (k : Nat) : Hart := { Hart.zero with mode := if isMach k then .m else .u }

def State.hart (s : State) (k : Nat) : Hart := look s.harts k (Hart.resetOf k)
def State.setHart (s : State) (k : Nat) (h : Hart) : State := { s with harts := put s.harts k h }
def State.modHart (s : State) (k : Nat) (f : Hart → Hart) : State := s.setHart k (f (s.hart k))

/-- The hart whose instruction runs. -/
def State.me (s : State) : Hart := s.hart s.cur
def State.setMe (s : State) (h : Hart) : State := s.setHart s.cur h
def State.modMe (s : State) (f : Hart → Hart) : State := s.modHart s.cur f

def State.core (s : State) (c : Nat) : Core := look s.cores c {}
def State.setCore (s : State) (c : Nat) (x : Core) : State := { s with cores := put s.cores c x }
def State.modCore (s : State) (c : Nat) (f : Core → Core) : State := s.setCore c (f (s.core c))

/-- The vector core of the hart whose instruction runs. -/
def State.myCore (s : State) : Core := s.core (coreOf s.cur)

def State.cluster (s : State) (g : Nat) : Cluster := look s.clusters g {}
def State.setCluster (s : State) (g : Nat) (x : Cluster) : State := { s with clusters := put s.clusters g x }
def State.modCluster (s : State) (g : Nat) (f : Cluster → Cluster) : State := s.setCluster g (f (s.cluster g))

/-- An agent no step has touched: the clusters it serves are visited from their first (R251). -/
def State.agent (s : State) (a : Nat) : Agent := look s.agents a {}
def State.setAgent (s : State) (a : Nat) (x : Agent) : State := { s with agents := put s.agents a x }
def State.modAgent (s : State) (a : Nat) (f : Agent → Agent) : State := s.setAgent a (f (s.agent a))

def State.part (s : State) (q : Nat) : Partition := s.parts[q]?.getD {}
def State.setPart (s : State) (q : Nat) (x : Partition) : State :=
  { s with parts := s.parts.setIfInBounds q x }
def State.modPart (s : State) (q : Nat) (f : Partition → Partition) : State := s.setPart q (f (s.part q))

def State.complex (s : State) (d : Nat) : Complex := s.orr[d]?.getD {}
def State.setComplex (s : State) (d : Nat) (x : Complex) : State :=
  { s with orr := s.orr.setIfInBounds d x }
def State.modComplex (s : State) (d : Nat) (f : Complex → Complex) : State := s.setComplex d (f (s.complex d))

/-- A free value's number, and the state in which the next one is fresh. -/
def State.bump (s : State) : State := { s with free := s.free + 1 }

/-! ### Registers of a hart -/

/-- `x[r]`; x0 reads as zero (R91). -/
def Hart.getX (h : Hart) (r : BitVec 5) : Word := if r = 0 then 0 else h.x[r.toNat]
/-- A write of `x[r]`; a write of x0 is discarded (R91). -/
def Hart.setX (h : Hart) (r : BitVec 5) (v : Word) : Hart :=
  if r = 0 then h else { h with x := h.x.set r.toNat v }

/-- `x[r]` of the hart whose instruction runs. -/
def State.x (s : State) (r : BitVec 5) : Word := s.me.getX r

/-- The partition a party of the cluster or the agent works for: the one that owns its half-die (R344). -/
def State.ownerOfHalf (s : State) (h : Nat) : Option Nat :=
  (upto 8).find? (fun q => (s.part q).pown.getLsbD h)
def State.ownerOfCluster (s : State) (g : Nat) : Option Nat := s.ownerOfHalf (halfOfCluster g)
def State.ownerOfAgent (s : State) (a : Nat) : Option Nat := s.ownerOfHalf (halfOfAgent a)

/-- The lanes `vlp` gives context h (R27): 0, 4, 8, 16 or 32; a slot at or above the number of slots is
ignored. -/
def lanesOf (vlp : Word) (h : Nat) : Nat :=
  let p := 2 ^ (bits vlp 0 2).toNat
  if (upto 8).any (fun i => i < p && bit vlp (4 * i + 11) && (bits vlp (4 * i + 8) 3).toNat = h)
  then 32 / p else 0

/-- The lanes of a hart; only a context has any (R22). -/
def State.lanes (s : State) (k : Nat) : Nat := if isCtx k then lanesOf (s.core (coreOf k)).vlp (slotOf k) else 0

/-- The partition of a hart: that of `ctxpart` for a context (R344), that of its core for a message hart. -/
def State.partOf (s : State) (k : Nat) : Nat :=
  if isCtx k then (s.hart k).ctxpart.toNat
  else (s.ownerOfCluster (clusterOf k)).getD 0

/-- The translation a hart's accesses use (R339): its own `satp` and mode, or the partition space for a message
hart. -/
def State.trOf (s : State) (k : Nat) : TrCtx :=
  let h := s.hart k
  if isMsg k then { part := s.partOf k, atp := (s.part (s.partOf k)).patp, mode := .u, sum := false }
  else { part := s.partOf k, atp := h.sc.satp, mode := h.mode, sum := bit h.sc.sstatus 18 }

/-- The gang hart k is a member of, with its cluster (R195). -/
def State.gangOf (s : State) (k : Nat) : Option (Nat × BitVec 4) :=
  if (s.hart k).task.member then some (clusterOf k, (s.hart k).task.tgang) else none

/-- The partition space of partition q (R339, R345). -/
def State.partSpace (s : State) (q : Nat) : TrCtx := { part := q, atp := (s.part q).patp, mode := .u, sum := false }

end Sys2Proof.Machine
end

