-- ==== Sys2Proof/Machine/Mem.lean ====
section
/-!
DEFINITION. Machine/Mem.lean: memory. The address map and what each region allows (R187 to R193), translation
(R333 to R338) with its caches (R340), the physical check (R346), ownership (R224 to R226), the checks of an
access in their order (R98, R212, R219), and the stores, which also mark window lines pending (R208), clear
reservations (R213), are seen by the slots that watch a queue page (R306) and wake the Orrery cores (R311).
Memory is the list of bytes by domain address; an unlisted byte reads 0.
-/

namespace Sys2Proof.Machine

/-! ### Bytes -/

/-- What a byte that nothing has written reads as (assumption log 1). -/
def Memory.dflt : Byte := 0

/-- The byte at an address. -/
def Memory.get (m : List Host.Cell) (a : Nat) : Byte := look m a Memory.dflt

/-- The memory with one byte written; writing the default value removes the entry. -/
def Memory.set (m : List Host.Cell) (a : Nat) (b : Byte) : List Host.Cell :=
  if b = Memory.dflt then del m a else put m a b

/-- Canonical form: addresses strictly rising, no entry equal to the default. -/
def Memory.wf (m : List Host.Cell) : Bool := rising m && m.all (fun c => c.2 ≠ Memory.dflt)

/-- The value of n bytes at an address, the byte at the lowest address the least significant (R97). -/
def Memory.read (m : List Host.Cell) (a : Nat) : Nat → Nat
  | 0 => 0
  | n + 1 => (Memory.get m a).toNat + 256 * Memory.read m (a + 1) n

/-- The memory with the low n bytes of a value written at an address, the least significant lowest (R97). -/
def Memory.write (m : List Host.Cell) (a v : Nat) : Nat → List Host.Cell
  | 0 => m
  | n + 1 => Memory.write (Memory.set m a (BitVec.ofNat 8 v)) (a + 1) (v >>> 8) n

/-! ### The address map -/

/-- The package field of a domain address and the local address (R187). -/
def pkgOf (pa : Nat) : Nat := pa >>> 48
def localOf (pa : Nat) : Nat := pa % 2 ^ 48

/-- The local address lies in tier 1 outside the command window, or in tier 2 (R188). -/
def State.inTier (s : State) (l : Nat) : Bool :=
  l + 0x4000000 < s.cap1 || (0x10000000000 ≤ l && l < 0x10000000000 + s.cap2)

/-- Some route to other packages remains (R366). -/
def State.routed (s : State) : Bool := s.links.toList.any (·.up)

/-- The register block at an offset of register space (R190): blocks of 64 KiB, the clusters' from 0, the agents' from
0x10_0000_0000 and the partitions' from 0x20_0000_0000. -/
def blockAt (o : Nat) : Region :=
  let n := o % 0x1000000000 / 0x10000
  let off := o % 0x10000
  match o / 0x1000000000 with
  | 0 => if n < 48 then .clusterBlock n off else .unmapped
  | 1 => if n < 24 then .agentBlock n off else .unmapped
  | 2 => if n < 8 then .partBlock n off else .unmapped
  | _ => .unmapped

/-- A remote package of the load-store domain (R187) has its local tiers at these addresses; it is reached while a route
remains (R366). Its tier 1 includes its command window (R188). -/
def State.remoteOk (s : State) (pa : Nat) : Bool :=
  let l := localOf pa
  s.domain.any (·.toNat = pkgOf pa) && (s.inTier l || (0x2FFC000000 ≤ l && l < 0x3000000000)) && s.routed

/-- The region of a domain address, for a party of core `c` where it has one (R188, R190). -/
def State.region (s : State) (c : Option Nat) (pa : Nat) : Region :=
  let l := localOf pa
  if pa ≥ 2 ^ 54 then .unmapped
  else if pkgOf pa ≠ s.pkg.toNat then (if s.remoteOk pa then .remote else .unmapped)
  else if s.inTier l then .tier
  else if 0x2FFC000000 ≤ l && l < 0x3000000000 then .window
  else if 0x800000000000 ≤ l && l < 0xC00000000000 then .aperture 0
  else if 0xC00000000000 ≤ l && l < 0xE00000000000 then (if s.twoHosts then .aperture 1 else .unmapped)
  else if 0xEFFFFFE00000 ≤ l && l < 0xF00000000000 then
    match c with
    | some c => .scratch c ((l - 0xEFFFFFE00000) / 0x20000) ((l - 0xEFFFFFE00000) % 0x20000)
    | none => .unmapped
  else if 0xF00000000000 ≤ l && l < 0xF00000000000 + 0x200000 * 384 then
    let o := l - 0xF00000000000
    .scratch (o / 0x200000) (o % 0x200000 / 0x20000) (o % 0x20000)
  else if 0xFE0000000000 ≤ l && l < 0xFE3000000000 then blockAt (l - 0xFE0000000000)
  else .unmapped

/-- The address a scratchpad byte is kept under: its core's global address (R188, R191). -/
def State.home (s : State) (c : Option Nat) (pa : Nat) : Nat :=
  match s.region c pa with
  | .scratch g b o => s.pkg.toNat * 2 ^ 48 + 0xF00000000000 + 0x200000 * g + 0x20000 * b + o
  | _ => pa

/-- R189: the region allows the access. -/
def regionAllows (r : Region) (k : Cls) : Bool :=
  match r, k with
  | .tier, _ => true
  | .window, _ => true
  | .remote, .scalar _ => true
  | .remote, .vector => true
  | .remote, .atomic => true
  | .scratch _ _ _, .resv => false
  | .scratch _ _ _, _ => true
  | .aperture _, .scalar n => n = 4 || n = 8
  | .clusterBlock _ _, .scalar n => n = 8
  | .agentBlock _ _, .scalar n => n = 8
  | .partBlock _ _, .scalar n => n = 8
  | _, _ => false

/-- A scratchpad bank is reachable only in the scratchpad role (R191) and while its core is not fenced (R357). -/
def State.bankOpen (s : State) (r : Region) : Bool :=
  match r with
  | .scratch g b _ => (s.core g).lmsplit.getLsbD b && !(s.core g).fenced && !(s.core g).absent
  | _ => true

/-- The local address lies in a tier range of partition q (R345). -/
def State.inRange (s : State) (q l : Nat) : Bool :=
  (upto 8).any (fun k =>
    let b := ((s.part q).pmrbase[k]?.getD 0).toNat
    let z := ((s.part q).pmrsize[k]?.getD 0).toNat
    b ≤ l && l < b + z)

/-- The partition whose range holds a local address. -/
def State.rangeOwner (s : State) (l : Nat) : Option Nat := (upto 8).find? (fun q => s.inRange q l)

/-- R346: the physical check of an access made for partition q. -/
def State.physOk (s : State) (q : Nat) (r : Region) (pa : Nat) : Bool :=
  match r with
  | .tier => s.inRange q (localOf pa)
  | .window => false
  | .remote =>
    let t := (s.part q).ptid
    t ≠ 0 && (s.part q).pstate = 2 &&
      s.remotes.any (fun p => p.pkg.toNat = pkgOf pa && p.ptid = t && p.run && p.keyed &&
        p.ranges.any (fun x => x.1 ≤ localOf pa && localOf pa < x.1 + x.2))
  | .scratch g _ _ => s.ownerOfCluster (clusterOfCore g) = some q
  | .clusterBlock g _ => s.ownerOfCluster g = some q
  | .agentBlock a _ => s.ownerOfAgent a = some q
  | .partBlock k _ => k = q
  | .aperture p =>
    let h := (s.part q).phab
    let base := (h &&& ~~~(0xFFF : Word)).toNat
    let hpa := localOf pa - (if p = 0 then 0x800000000000 else 0xC00000000000)
    p = (bits h 0 1).toNat && base ≤ hpa && hpa < base + (s.part q).phas.toNat
  | .unmapped => false

/-- The page of a tier address is host-owned (R224, R226). -/
def State.hostOwned (s : State) (r : Region) (pa : Nat) : Bool :=
  r = .tier && s.hostPages.contains (localOf pa / 4096)

/-! ### Causes -/

/-- The access fault, page fault and misalignment causes of an access (R98, R212, R189). -/
def accessCause : Acc → BitVec 8
  | .fetch => 0x01
  | .load | .lr => 0x05
  | _ => 0x07
def pageCause : Acc → BitVec 8
  | .fetch => 0x0C
  | .load | .lr => 0x0D
  | _ => 0x0F
def alignCause : Acc → BitVec 8
  | .fetch => 0x00
  | .load | .lr => 0x04
  | _ => 0x06

/-! ### Translation -/

/-- The fields of a page-table entry (R335). -/
def pteV (e : Word) : Bool := bit e 0
def pteR (e : Word) : Bool := bit e 1
def pteW (e : Word) : Bool := bit e 2
def pteX (e : Word) : Bool := bit e 3
def pteU (e : Word) : Bool := bit e 4
def pteG (e : Word) : Bool := bit e 5
def pteA (e : Word) : Bool := bit e 6
def pteD (e : Word) : Bool := bit e 7
def ptePpn (e : Word) : Nat := (bits e 10 42).toNat
def pteC (e : Word) : Bool := bit e 52

/-- The index of a level, and the page offset of a leaf at a level, of a virtual address (R333, R336). -/
def vpn (va : Word) (lvl : Nat) : Nat := (va.toNat >>> (12 + 9 * lvl)) % 512
def pageOff (va : Word) (lvl : Nat) : Nat := va.toNat % 2 ^ (12 + 9 * lvl)

/-- Bits [63:47] of a virtual address are equal (R333). -/
def canonical (va : Word) : Bool := bits va 47 17 = 0 || bits va 47 17 = BitVec.allOnes 17

/-- R338: the entry permits the access. -/
def permits (e : Word) (acc : Acc) (mode : Mode) (sum : Bool) : Bool :=
  (match acc with
    | .fetch => pteX e
    | .load | .lr => pteR e
    | .store | .sc => pteW e
    | .amo => pteR e && pteW e) &&
  (match mode with
    | .u => pteU e
    | _ => !pteU e || (sum && acc ≠ .fetch))

/-- The leaf checks of R336 other than the permission: alignment of the page and the contiguous group, whose
member's index within the group must be the low bits of `ppn`. -/
def leafOk (e : Word) (lvl idx : Nat) : Bool :=
  lvl ≠ 3 && ptePpn e % 2 ^ (9 * lvl) = 0 &&
    (!pteC e || (lvl = 0 && ptePpn e % 16 = idx % 16) ||
      (lvl = 2 && (ptePpn e >>> 18) % 32 = idx % 32))

/-- The entry is valid and well formed (R336, the first check). -/
def entryOk (e : Word) : Bool := pteV e && bits e 53 11 = 0 && !(pteW e && !pteR e)

/-- The access passes the permission, `A` and `D` checks of R336. -/
def usable (e : Word) (acc : Acc) (tr : TrCtx) : Bool :=
  permits e acc tr.mode tr.sum && pteA e && !(pteD e = false && (acc = .store || acc = .amo || acc = .sc))

/-- Why a walk stops: a page fault, an access fault on an entry read, or an entry in a line whose tag does not match or
that is in error, with the cause of a read of it (R349, R355). -/
inductive WalkErr where
  | page | entry
  | line (cause : BitVec 8)
deriving DecidableEq, Repr

/-- The cause of a read of a domain address in local tier memory whose line is in error: its tag does not match (R349), or
it cannot be corrected (R355). -/
def State.lineCause (s : State) (r : Region) (pa : Nat) : Option (BitVec 8) :=
  if r ≠ .tier then none
  else if s.badTags.contains (localOf pa / 64) then some 0xB0
  else if s.poisoned.contains (localOf pa / 64) then some 0xD5
  else none

/-- An entry read of the walk (R336): a device-scope load under the physical check, ownership and the checks of its line.
Entries lie in tier memory, a scratchpad or remote memory. -/
def State.readPte (s : State) (w : Who) (ea : Nat) : Except WalkErr Word :=
  let r := s.region w.core ea
  let plain := match r with
    | .tier | .window | .remote | .scratch _ _ _ => true
    | _ => false
  if plain && s.bankOpen r && s.physOk w.tr.part r ea && !s.hostOwned r ea then
    match s.lineCause r ea with
    | some c => .error (.line c)
    | none => .ok (BitVec.ofNat 64 (Memory.read s.mem (s.home w.core ea) 8))
  else .error .entry

/-- A leaf a walk found: the entry to use and its level. -/
structure Leaf where
  pte : Word
  lvl : Nat
deriving DecidableEq, Repr

/-- Physical address of a leaf (R336). -/
def Leaf.pa (f : Leaf) (va : Word) : Nat := ptePpn f.pte * 4096 + pageOff va f.lvl

/-- Some of n entries from `tab` on has its `C` bit set, bit 4 of the entry's byte 6. -/
def State.anyContig (s : State) (w : Who) (tab n : Nat) : Bool :=
  let a := s.home w.core tab
  s.mem.any (fun c => a ≤ c.1 && c.1 < a + 8 * n && c.1 % 8 = 6 && c.2.getLsbD 4)

/-- The member of a contiguous group that translates an access in the group's range (R337), applied at the access's
place in the group: one whose `C` is 1 and that passes the checks of R336, where the manual leaves open which; none where
the entry for the access's own address decides. In a well-formed group they agree. -/
def State.groupEntry (s : State) (w : Who) (acc : Acc) (tab idx lvl : Nat) : Option Word :=
  let n := if lvl = 0 then 16 else 32
  let first := idx / n * n
  if (lvl = 0 || lvl = 2) && s.anyContig w (tab + 8 * first) n then
    let m := first + Config.groupPick s.free % n
    match s.readPte w (tab + 8 * m) with
    | .error _ => none
    | .ok f =>
      if entryOk f && (pteR f || pteX f) && pteC f && leafOk f lvl m && usable f acc w.tr then
        let lo := if lvl = 0 then 0 else 18
        let k := ptePpn f / 2 ^ lo / n * n + idx % n
        some (setBits f 10 (BitVec.ofNat 42 (k * 2 ^ lo)))
      else none
  else none

/-- The address-space identifier of a root (R334). -/
def asidOf (atp : Word) : BitVec 16 := bits atp 44 16

/-- The tags of a cached entry match an access through one of the party's caches (R340). -/
def TlbEntry.tagged (t : TlbEntry) (w : Who) (va : Word) : Bool :=
  w.units.contains t.unit && t.part = w.tr.part && (t.glob || t.asid = asidOf w.tr.atp) &&
    va.toNat / 2 ^ t.lg = t.vpage

/-- A cached leaf translates an access (R340). -/
def TlbEntry.hits (t : TlbEntry) (w : Who) (va : Word) : Bool := !t.ptr && t.tagged w va

/-- The cached pointer entry of level n for an access (R340). -/
def State.cachedPtr (s : State) (w : Who) (va : Word) (n : Nat) : Option Word :=
  (s.tlb.find? (fun t => t.ptr && t.lg = 12 + 9 * n && t.tagged w va)).map (·.pte)

/-- The entry passes the checks of a pointer entry (R336). -/
def pointerOk (e : Word) (n : Nat) : Bool :=
  entryOk e && !pteR e && !pteX e && n ≠ 0 && !(pteU e || pteA e || pteD e || pteC e)

/-- The entry of level n a walk goes on from: the one in memory, or a cached pointer entry that still covers the address,
where the manual leaves open which (R340, R343). -/
def State.walkEntry (s : State) (w : Who) (va : Word) (tab n : Nat) : Except WalkErr Word :=
  let fresh := s.readPte w (tab + 8 * vpn va n)
  match s.cachedPtr w va n, fresh with
  | none, _ => fresh
  | some e, .ok f => if e = f then fresh else if Config.usePointer s.free n then .ok e else fresh
  | some e, .error _ => if Config.usePointer s.free n then .ok e else fresh

/-- The walk from the table at `tab`, at level `n` − 1 (R336). -/
def State.walkFrom (s : State) (w : Who) (acc : Acc) (va : Word) : Nat → Nat → Except WalkErr Leaf
  | 0, _ => .error .page
  | n + 1, tab =>
    match s.walkEntry w va tab n with
    | .error x => .error x
    | .ok e =>
      match s.groupEntry w acc tab (vpn va n) n with
      | some f => .ok ⟨f, n⟩
      | none =>
        if !entryOk e then .error .page
        else if !pteR e && !pteX e then
          if pointerOk e n then s.walkFrom w acc va n (ptePpn e * 4096) else .error .page
        else if leafOk e n (vpn va n) && usable e acc w.tr then .ok ⟨e, n⟩
        else .error .page

/-- The root table of a translation (R334). -/
def rootOf (atp : Word) : Nat := (bits atp 0 44).toNat * 4096

/-- A fresh walk (R334, R336). -/
def State.walk (s : State) (w : Who) (acc : Acc) (va : Word) : Except WalkErr Leaf :=
  if bits w.tr.atp 60 4 ≠ 9 || !canonical va then .error .page
  else s.walkFrom w acc va 4 (rootOf w.tr.atp)

/-- The pointer entries a walk from `tab` goes through, with their levels. -/
def State.walkPtrs (s : State) (w : Who) (va : Word) : Nat → Nat → List (Nat × Word)
  | 0, _ => []
  | n + 1, tab =>
    match s.walkEntry w va tab n with
    | .error _ => []
    | .ok e => if pointerOk e n then (n, e) :: s.walkPtrs w va n (ptePpn e * 4096) else []

/-- The physical address of an access: by a fresh walk, or by a cached entry that still translates it, where
the manual leaves open which (R340, R343). -/
def State.translate (s : State) (w : Who) (acc : Acc) (va : Word) : Except WalkErr Nat :=
  let fresh := (s.walk w acc va).map (fun f => f.pa va)
  if bits w.tr.atp 60 4 ≠ 9 || !canonical va then fresh else
  match s.tlb.find? (fun t => t.hits w va) with
  | none => fresh
  | some t =>
    let old : Except WalkErr Nat :=
      if usable t.pte acc w.tr then .ok (Leaf.pa ⟨t.pte, (t.lg - 12) / 9⟩ va) else .error .page
    match old, fresh with
    | .ok a, .ok b => if a = b then fresh else if Config.useCached s.free then old else fresh
    | .error _, .error _ => fresh
    | _, _ => if Config.useCached s.free then old else fresh

/-- An entry put at the front of its cache, whose oldest entry leaves a full one (R340). -/
def cacheEntry (l : List TlbEntry) (t : TlbEntry) : List TlbEntry :=
  let mine (u : TlbEntry) : Bool := u.unit = t.unit && u.ptr = t.ptr
  t :: if (l.filter mine).length < tlbSize t.unit then l
    else
      match (l.reverse.find? mine) with
      | some u => (l.reverse.erase u).reverse
      | none => l

/-- The entries a walk leaves in a party's caches: its leaf in each, and its pointer entries in the cluster's. -/
def State.walkCached (s : State) (w : Who) (f : Leaf) (va : Word) : List TlbEntry :=
  let entry (u : Nat) (ptr glob : Bool) (n : Nat) (e : Word) : TlbEntry :=
    { unit := u, ptr := ptr, part := w.tr.part, asid := asidOf w.tr.atp, glob := glob,
      vpage := va.toNat / 2 ^ (12 + 9 * n), lg := 12 + 9 * n, pte := e }
  let ptrs := s.walkPtrs w va 4 (rootOf w.tr.atp)
  w.units.flatMap (fun u =>
    if s.tlb.any (fun t => t.unit = u && t.hits w va) then []
    else entry u false (pteG f.pte) f.lvl f.pte ::
      (if u < 48 then (ptrs.filter (fun p => (s.cachedPtr w va p.1).isNone)).map (fun p => entry u true false p.1 p.2) else []))

/-- The translation caches after an access: the entries of its walk are held (R340), and the next free value is
fresh. -/
def State.cache (s : State) (w : Who) (acc : Acc) (va : Word) : State :=
  if w.mach then s else
  match s.walk w acc va with
  | .error _ => s
  | .ok f => { s with tlb := (s.walkCached w f va).foldl cacheEntry s.tlb, free := s.free + 1 }

/-! ### The checks of an access -/

/-- The partition state check and translation of an address (R98, R346): the domain address. -/
def State.translated (s : State) (w : Who) (acc : Acc) (va : Word) : Except Trap Nat :=
  if w.mach then .ok va.toNat
  else if (s.part w.tr.part).pstate ≠ 2 then .error ⟨0xB2, va⟩
  else
    match s.translate w acc va with
    | .error .page => .error ⟨pageCause acc, va⟩
    | .error .entry => .error ⟨accessCause acc, va⟩
    | .error (.line c) => .error ⟨c, va⟩
    | .ok pa => .ok pa

/-- The region of a translated address allows the access, its bank is open, and the physical check holds (R189, R191,
R346). -/
def State.allowed (s : State) (w : Who) (acc : Acc) (k : Cls) (va : Word) (pa : Nat) : Except Trap Nat :=
  let r := s.region w.core pa
  if regionAllows r k && s.bankOpen r && (w.mach || s.physOk w.tr.part r pa) then .ok pa
  else .error ⟨accessCause acc, va⟩

/-- Steps up to permission: alignment, partition state, translation, region, bank and physical check, in the
order of R98, R212, R219 and R346. The result is the domain address. -/
def State.checkRegion (s : State) (w : Who) (acc : Acc) (k : Cls) (n : Nat) (va : Word) : Except Trap Nat :=
  if va.toNat % n ≠ 0 then .error ⟨alignCause acc, va⟩
  else
    match s.translated w acc va with
    | .error t => .error t
    | .ok pa => s.allowed w acc k va pa

/-- The access reads memory. -/
def Acc.reads : Acc → Bool
  | .store | .sc => false
  | _ => true

/-- Ownership (R226) and, for a read of local tier memory, the tag (R349) and the errors of the line (R355). -/
def State.checkLine (s : State) (w : Who) (acc : Acc) (va : Word) (pa : Nat) : Except Trap Nat :=
  let r := s.region w.core pa
  if s.hostOwned r pa then .error ⟨0x30, va⟩
  else
    match s.lineCause r pa with
    | some c => if acc.reads then .error ⟨c, va⟩ else .ok pa
    | none => .ok pa

/-- All the checks of an access of n bytes; the result is the domain address. -/
def State.check (s : State) (w : Who) (acc : Acc) (k : Cls) (n : Nat) (va : Word) : Except Trap Nat :=
  match s.checkRegion w acc k n va with
  | .error t => .error t
  | .ok pa => s.checkLine w acc va pa

/-! ### Reads and writes -/

/-- The value of n bytes at a domain address, for a party of core c. -/
def State.readPa (s : State) (c : Option Nat) (pa n : Nat) : Nat := Memory.read s.mem (s.home c pa) n

/-- set(scope, hart k) of R195 includes the party: a hart, its copy observer, an agent, or a host. A copy observer belongs
to every set its hart belongs to, with the core and the gang its hart had when it issued (R203). -/
def State.inScope (s : State) (scope k : Nat) (w : Who) : Bool :=
  if w.host then scope = 4
  else match w.key with
    | none => 3 ≤ scope
    | some j =>
      let gang := if w.copy then w.gang else s.gangOf j
      if j = k && !w.gone then true
      else match scope with
        | 0 => false
        | 1 => (isCtx j || isMsg j) && (isCtx k || isMsg k) && coreOf j = coreOf k
        | 2 => gang.isSome && gang = s.gangOf k
        | _ => true

/-- The lines (domain address / 64) that n bytes at a domain address touch. -/
def linesOf (a n : Nat) : List Nat :=
  if n = 0 then [] else (upto ((a + n - 1) / 64 + 1 - a / 64)).map (a / 64 + ·)

/-- The reservations left after a store by a party to some lines (R213). -/
def State.breakResv (s : State) (w : Who) (lines : List Nat) : State :=
  { s with harts := s.harts.map (fun e =>
      match e.2.resv with
      | some r => if lines.contains r.line && s.inScope r.scope e.1 w then (e.1, { e.2 with resv := none }) else e
      | none => e) }

/-- The window of partition q, if enabled, that holds a local address (R206). -/
def Window.holds (v : Window) (l : Nat) : Bool :=
  v.en && v.base.toNat ≤ l && l < v.base.toNat + 4096 * v.pages.toNat

/-- The 64 bytes of a line as a word. -/
def State.lineAt (s : State) (line : Nat) : BitVec 512 := BitVec.ofNat 512 (Memory.read s.mem (line * 64) 64)

/-- A store to the line would make it a further pending line of the window (R208). -/
def Window.adds (v : Window) (line : Nat) : Bool :=
  v.holds (localOf (line * 64)) && !(v.pending.any (fun e => e.1 = line))

/-- A store to a line of an enabled window makes the line pending; the host keeps seeing the value it had
(R208). -/
def State.markLine (s : State) (line : Nat) : State :=
  { s with parts := s.parts.map (fun p => { p with wins := p.wins.map (fun v =>
      if v.adds line then { v with pending := put v.pending line (s.lineAt line) } else v) }) }

/-- The windows have room for the lines of a store all together: none would hold more than 16,384 pending lines (R208). -/
def State.linesFit (s : State) (lines : List Nat) : Bool :=
  s.parts.all (fun p => p.wins.all (fun v =>
    let new := lines.eraseDups.filter v.adds
    new.isEmpty || v.pending.length + new.length ≤ 16384))

/-- A store to the line of a domain address waits for a publication (R208). -/
def State.windowFull (s : State) (pa : Nat) : Bool := !s.linesFit [pa / 64]

/-- Some window holds more pending lines than it may (R208): no store that would bring this about is made. -/
def State.overfull (s : State) : Bool :=
  s.parts.any (fun p => p.wins.any (fun v => 16384 < v.pending.length))

/-- A step with stores for which the windows have no room waits for a publication (R208). -/
def State.untilWindowRoom (s t : State) : State := if t.overfull then s else t

/-- Sets bits of `fwsig` in every core of a complex (R311). -/
def State.signalFw (s : State) (d : Nat) (b : BitVec 3) : State :=
  (upto 4).foldl (fun s c => s.modHart (orrKey d c) (fun h => { h with fwsig := h.fwsig ||| b })) s

/-- The pending bitmap of the Almanac (R304): its first byte, and its length in bytes; none without an
Almanac. -/
def Complex.bitmap (x : Complex) : Option (Nat × Nat) :=
  let lg := (bits x.fwalm 0 5).toNat
  if lg = 0 then none
  else some ((x.fwalm &&& 0xFFFFF8000000).toNat + 128 * 2 ^ lg, 2 ^ lg / 8)

/-- A store by any party to a line of the bitmap sets source 0 (R311). -/
def State.seeBitmap (s : State) (pa n : Nat) : State :=
  (upto 2).foldl (fun s d =>
    match (s.complex d).bitmap with
    | some (b, z) =>
      if pkgOf pa = s.pkg.toNat && localOf pa / 64 * 64 < b + z && b < (localOf pa + n - 1) / 64 * 64 + 64
      then s.signalFw d 1 else s
    | none => s) s

/-- Some window is enabled. -/
def State.windowOn (s : State) : Bool := s.parts.any (fun p => p.wins.any (·.en))

/-- A party's store to the n bytes at a domain address that leaves memory `m`: its window lines become pending (R208), its
lines' tags are recomputed (R349), reservations are lost (R213), and the complexes see a store to the bitmap (R311). -/
def State.stored (s : State) (w : Who) (pa n : Nat) (m : List Host.Cell) : State :=
  let a := s.home w.core pa
  let lines := linesOf a n
  let s := if s.windowOn && s.region w.core pa = .tier then lines.foldl State.markLine s else s
  let s := { s with
    mem := m
    badTags := s.badTags.filter (fun l => !lines.any (fun m => localOf (m * 64) / 64 = l)) }
  (s.breakResv w lines).seeBitmap a n

/-- A store of the low n bytes of v at a domain address by a party. -/
def State.storePa (s : State) (w : Who) (pa v n : Nat) : State :=
  let a := s.home w.core pa
  s.stored w pa n (Memory.write s.mem a v n)

/-- The device itself as the party of a store. -/
def device : Who := { key := none }

/-- Stores a bitmap bit, or keeps it for a retry until the store takes effect (R306): an Almanac, tier 1, device-owned, and
room for the pending line. -/
def State.setBitmap (s : State) (d qid : Nat) : State :=
  let s := s.modComplex d (fun x => { x with retry := insertNat x.retry qid })
  match (s.complex d).bitmap with
  | none => s
  | some (b, _) =>
    let a := b + qid / 8
    let pa := s.pkg.toNat * 2 ^ 48 + a
    if s.inTier a && a < 0x3000000000 && !s.hostPages.contains (a / 4096) && !s.windowFull pa then
      let v := Memory.get s.mem pa ||| BitVec.ofNat 8 (2 ^ (qid % 8))
      let s := s.storePa device pa v.toNat 1
      (s.modComplex d (fun x => { x with retry := x.retry.filter (· ≠ qid) })).signalFw d 1
    else s

/-- The complex that sets the bit of a device party's kick, where the manual leaves open which: the first with an Almanac. -/
def State.kickComplex (s : State) : Nat := if (s.complex 0).bitmap.isNone && (s.complex 1).bitmap.isSome then 1 else 0

/-- The pages whose `kick` word, at offset 0, a store of n bytes at a domain address touches. -/
def kickPages (pa n : Nat) : List Nat :=
  if n = 0 then [] else
  let l := localOf pa
  ((upto ((l + n - 1) / 4096 + 1 - l / 4096)).map (fun i => (l / 4096 + i) * 4096)).filter (fun p => l < p + 8)

/-- A `kick` store to a page is observed by every valid slot that watches it among the complexes `ds`; a
command-window page that no such slot watches gets its host queue's bitmap bit (R306), through the complex of the host's
port, or through `kickComplex` for a device party. -/
def State.seeKickAt (s : State) (ds : List Nat) (page : Nat) : State :=
  let k := BitVec.ofNat 64 (Memory.read s.mem (s.pkg.toNat * 2 ^ 48 + page) 8)
  let watched := ds.any (fun d => (s.complex d).slots.toList.any (fun t => t.valid && t.page.toNat = page))
  let s := ds.foldl (fun s d =>
    let x := s.complex d
    let hit := (upto 64).filter (fun i => match x.slots[i]? with
      | some t => t.valid && t.page.toNat = page
      | none => false)
    if hit.isEmpty then s else
    let slots := x.slots.map (fun t => if t.valid && t.page.toNat = page then { t with kick := k } else t)
    let pend := hit.foldl (fun p i => setBit p i true) x.fwkpend
    let s := s.setComplex d { x with slots := slots, fwkpend := pend }
    if pend = x.fwkpend then s else s.signalFw d 2) s
  if 0x2FFC000000 ≤ page && page < 0x3000000000 && !watched then
    s.setBitmap (match ds with
      | [d] => d
      | _ => s.kickComplex) ((page - 0x2FFC000000) / 4096)
  else s

/-- What the complexes `ds` observe of a store of n bytes at a domain address (R306). -/
def State.seeKick (s : State) (ds : List Nat) (pa n : Nat) : State :=
  (kickPages pa n).foldl (fun s p => s.seeKickAt ds p) s

/-- A store of the low n bytes of v at a domain address by a party, with everything the device does at a
store. -/
def State.writePa (s : State) (w : Who) (pa v n : Nat) : State :=
  let a := s.home w.core pa
  let r := s.region w.core pa
  let s := s.storePa w pa v n
  if pkgOf a = s.pkg.toNat && r ≠ .remote then s.seeKick [0, 1] a n else s

/-! ### Parties -/

/-- The party of a hart (R195, R339). -/
def State.whoHart (s : State) (k : Nat) : Who :=
  { key := some k, mach := isMach k, core := if k < 3888 then some (coreOf k) else none,
    units := if k < 3888 then coreTlbs (coreOf k) else [], tr := s.trOf k }

/-- The hart whose instruction runs, as a party. -/
def State.who (s : State) : Who := s.whoHart s.cur

/-- A device agent that works for partition q with its own caches (R339). -/
def State.whoAgent (s : State) (q : Nat) (units : List Nat) : Who :=
  { key := none, units := units, tr := s.partSpace q }

/-- A copy observer or a stream's refill of context k, with what its hart had when it issued (R203, R339). -/
def whoCopy (k : Nat) (tr : TrCtx) (gang : Option (Nat × BitVec 4)) (gone : Bool) : Who :=
  { key := some k, core := some (coreOf k), units := coreTlbs (coreOf k), tr := tr, copy := true, gang := gang, gone := gone }

/-- A device party's access through a partition's translation: the domain address, or the failing cause. -/
def State.agentRead (s : State) (w : Who) (va : Word) (n : Nat) : Except Trap Nat :=
  match s.check w .load .vector n va with
  | .error t => .error t
  | .ok pa => .ok (s.readPa w.core pa n)

def State.agentWrite (s : State) (w : Who) (va : Word) (v n : Nat) : Except Trap State :=
  match s.check w .store .vector n va with
  | .error t => .error t
  | .ok pa => .ok (s.writePa w pa v n)

/-- A device party's atomic update of n bytes: the old value and the state after it. -/
def State.agentAmo (s : State) (w : Who) (va : Word) (n : Nat) (f : Nat → Nat) : Except Trap (Nat × State) :=
  match s.check w .amo .atomic n va with
  | .error t => .error t
  | .ok pa => .ok (s.readPa w.core pa n, s.writePa w pa (f (s.readPa w.core pa n) % 2 ^ (8 * n)) n)

/-- Reads `n` bytes as aligned doublewords, the lowest first; the first that fails decides. -/
def State.agentReads (s : State) (w : Who) (va : Word) : Nat → Except Trap (List Word)
  | 0 => .ok []
  | k + 1 =>
    match s.agentRead w va 8 with
    | .error t => .error t
    | .ok v =>
      match s.agentReads w (va + 8) k with
      | .error t => .error t
      | .ok vs => .ok (BitVec.ofNat 64 v :: vs)

end Sys2Proof.Machine
end

