-- ==== Sys2Proof/Machine/Notify.lean ====
section
/-!
DEFINITION. Machine/Notify.lean: how one part of the device tells another: events to Lodestar (R329), deferred
exceptions (R325), comets (R268), the errors of an agent's queue (R248), a partition's ERROR (R348), the end of a
message (R266, R267).
-/

namespace Sys2Proof.Machine

/-! ### The Lodestar event queue (R329) -/

/-- Gives up what a waiting deferred exception kept: its copy, its send-queue entry, the hart's issue (R325). -/
def State.release (s : State) (k : Nat) (w : WaitSrc) : State :=
  match w with
  | .copy id => s.modCore (coreOf k) (fun c => { c with copies := c.copies.filter (·.id ≠ id) })
  | .send dest seq =>
    s.modHart k (fun h => { h with sendQ := h.sendQ.filter (fun e =>
      !(destOf e.msg.dst = dest && e.msg.seq = seq && e.state = .outcome)) })
  | .append => s

/-- The context an event concerns. -/
def LsEvent.ctx (g : Nat) (e : LsEvent) : Nat := ctxKey (coreAt g e.core.toNat) e.hart.toNat

/-- What the entry of an event into the queue ends: a save or a retirement leaves its context free, a refused
restore too, a completed restore makes it resident (R327, R329, R330); a fault of a copy or a send gives up what it kept. -/
def State.entered (s : State) (g : Nat) (e : LsEvent) : State :=
  let s := match e.keeps with
    | some (k, w) => s.release k w
    | none => s
  if e.kind = 2 || e.kind = 4 || e.kind = 7 || e.kind = 9 then
    s.modHart (e.ctx g) (fun h => { h with ctxState := 0 })
  else if e.kind = 3 then s.modHart (e.ctx g) (fun h => { h with ctxState := 1 })
  else s

/-- An event in the queue keeps nothing any longer. -/
def LsEvent.placed (e : LsEvent) : LsEvent := { e with keeps := none }

/-- The Lodestar of a cluster can take another event at once. -/
def State.eventRoom (s : State) (g : Nat) : Bool := (s.cluster g).evq.length < 256 && (s.cluster g).evWait.isEmpty

/-- Adds an event to the queue of a cluster's Lodestar, or to those that wait behind a full queue. -/
def State.event (s : State) (g : Nat) (e : LsEvent) : State :=
  let c := s.cluster g
  if c.evq.length < 256 && c.evWait.isEmpty then (s.setCluster g { c with evq := c.evq ++ [e.placed] }).entered g e
  else s.setCluster g { c with evWait := c.evWait ++ [e] }

/-- `lsevt0` as it is read (R329): the fields of an event with the valid bit. -/
def LsEvent.word (e : LsEvent) : Word :=
  place 64 0 e.kind ||| place 64 8 e.code ||| place 64 16 e.hart ||| place 64 19 e.core ||| place 64 63 1#1

/-- A load of `lsevt0`: the oldest event leaves the queue, and an event that waited enters it. -/
def State.popEvent (s : State) (g : Nat) : Word × State :=
  let c := s.cluster g
  match c.evq with
  | [] => (0, s)
  | e :: q =>
    match c.evWait with
    | [] => (e.word, s.setCluster g { c with evq := q, lsevt1 := e.val })
    | w :: ws =>
      (e.word, (s.setCluster g { c with evq := q ++ [w.placed], evWait := ws, lsevt1 := e.val }).entered g w)

/-- The event of a context: its kind, code and value. -/
def State.ctxEvent (s : State) (k : Nat) (kind : BitVec 4) (code : BitVec 8) (v : Word) : State :=
  let c := coreOf k
  s.event (clusterOfCore c)
    { kind := kind, code := code, hart := BitVec.ofNat 3 (slotOf k), core := BitVec.ofNat 4 (coreInCluster c),
      val := v }

/-- A cause sent to Lodestar as a kind-1 event (R329), for a context or a core. -/
def State.forward (s : State) (k : Nat) (cause : BitVec 8) (v : Word) : State := s.ctxEvent k 1 cause v

/-- A deferred exception sent to Lodestar; until its event enters the queue its source keeps its resource (R329). -/
def State.forwardKept (s : State) (k : Nat) (d : Deferred) (w : WaitSrc) : State :=
  let c := coreOf k
  s.event (clusterOfCore c)
    { kind := 1, code := d.cause, hart := BitVec.ofNat 3 (slotOf k), core := BitVec.ofNat 4 (coreInCluster c),
      val := d.tval, keeps := some (k, w) }

/-! ### Deferred exceptions (R325) -/

/-- The save area of the hart a context last held, once it is written, while the hart is in no context (R327, R330). A
context of state 2 whose area is written waits only for room for its event (R329). -/
def Hart.areaNow (h : Hart) : Option Word :=
  if h.ctxState = 1 || (h.ctxState = 2 && h.saveReq.isSome) then none else h.savedAt

/-- A deferred exception of the hart that ran in context k under generation `gen` goes to Lodestar: the context has been
retired or reassigned, holds no hart, or its core is fenced (R234, R267, R356). -/
def State.toLodestar (s : State) (k : Nat) (gen : W32) : Bool :=
  let h := s.hart k
  h.hgen ≠ gen || (s.core (coreOf k)).fenced || (h.areaNow.isNone && (h.ctxState = 0 || h.ctxState = 3))

/-- Places a deferred exception of the hart of context k, in its queue, or in its save area if it is saved (R325). `none`
when the queue is full. -/
def State.defer (s : State) (k : Nat) (d : Deferred) : Option State :=
  let h := s.hart k
  match h.areaNow with
  | some a =>
    let n := Memory.read s.mem (a.toNat + 0x1E0) 8 % 64
    if 32 ≤ n then none else
    let s := s.writePa device (a.toNat + 0x200 + 16 * n) d.cause.toNat 8
    let s := s.writePa device (a.toNat + 0x208 + 16 * n) d.tval.toNat 8
    some (s.writePa device (a.toNat + 0x1E0) (n + 1) 8)
  | none =>
    if h.deferred.length < 32 then some (s.setHart k { h with deferred := h.deferred ++ [d] }) else none

/-- Places a deferred exception, or leaves it waiting at its source (R325). -/
def State.deferOrWait (s : State) (k : Nat) (gen : W32) (d : Deferred) (w : WaitSrc) : State :=
  if s.toLodestar k gen then s.forwardKept k d w
  else
    match s.defer k d with
    | some s => s.release k w
    | none => s.modHart k (fun h => { h with waiting := h.waiting ++ [⟨d, w⟩] })

/-- Takes the oldest entry of the queue of hart k; the oldest waiting one enters it (R325). -/
def State.takeDeferred (s : State) (k : Nat) : Option (Deferred × State) :=
  let h := s.hart k
  match h.deferred with
  | [] => none
  | d :: ds =>
    match h.waiting with
    | [] => some (d, s.setHart k { h with deferred := ds })
    | w :: ws => some (d, (s.setHart k { h with deferred := ds ++ [w.d], waiting := ws }).release k w.src)

/-! ### Agents' errors and partitions (R248, R348) -/

/-- The context an agent's `ihloc` names, if it is one of a cluster of the agent's partition on its own package. -/
def State.ihlocCtx (s : State) (h : BitVec 18) (a : Nat) : Option Nat :=
  let k := hartOfHloc h
  if bits h 12 6 = s.pkg && (bits h 6 4).toNat ≤ 11 && (s.ownerOfAgent a).isSome &&
    s.ownerOfCluster (clusterOf k) = s.ownerOfAgent a then some k else none

/-- The lowest-numbered cluster an agent serves (R190). -/
def firstServed (a : Nat) : Nat := 12 * (a / 6) + 6 * (a % 6 % 2)

/-- The cluster whose Lodestar an undeliverable notify comet goes to (R248, R324): its `ihloc` names no context of the
partition, or one without a hart. -/
def State.undeliverable (s : State) (h : BitVec 18) (a : Nat) : Option Nat :=
  match s.ihlocCtx h a with
  | none => some (firstServed a)
  | some k =>
    let t := s.hart k
    if t.ctxState = 1 || t.ctxState = 2 || t.areaNow.isSome then none else some (clusterOf k)

def Agent.q (a : Agent) (i : Nat) : AgentQueue := a.qs[i]?.getD {}
def Agent.setQ (a : Agent) (i : Nat) (q : AgentQueue) : Agent := { a with qs := a.qs.setIfInBounds i q }

/-- The value of a notify comet (R268): queue, agent number of the die, die. -/
def notifyValue (a q : Nat) : W32 := BitVec.ofNat 32 (q + 8 * (a % 6) + 64 * (a / 6))

/-- A queue of an agent enters the error state at the entry it is reading, and tells `ihloc` if asked (R248). -/
def State.queueError (s : State) (a q : Nat) (err : BitVec 4) (faddr : Word) : State :=
  let g := s.agent a
  let t := g.q q
  let s := s.setAgent a { g.setQ q { t with state := 2, err := err, faddr := faddr, entry := none, settled := none, prog := none, posted := false } with
    emit := if g.emitQ = some q then [] else g.emit
    emitQ := if g.emitQ = some q then none else g.emitQ }
  if t.ien then { s with comets := s.comets ++ [.notify t.ihloc a (notifyValue a q)] } else s

/-- Asks for a save of every resident context of partition q (R348). -/
def State.saveAll (s : State) (q : Nat) : State :=
  { s with harts := s.harts.map (fun e =>
      if isCtx e.1 && e.2.ctxState = 1 && e.2.ctxpart.toNat = q && e.2.saveReq = none
      then (e.1, { e.2 with saveReq := some (.save 0xF2), ctxState := 2 }) else e) }

/-- The running queues of the agents of partition q stop with `err` 3 (R348). -/
def State.stopAgents (s : State) (q : Nat) : State :=
  (upto 24).foldl (fun s a =>
    if s.ownerOfAgent a = some q then
      (upto 8).foldl (fun s i =>
        let t := (s.agent a).q i
        if t.state = 1 then s.queueError a i 3 (t.base + 64 * BitVec.ofNat 64 (t.head.toNat % 2 ^ t.lg)) else s) s
    else s) s

/-- A running partition enters ERROR (R348). -/
def State.partError (s : State) (q : Nat) (reason : BitVec 4) : State :=
  if (s.part q).pstate = 2 then
    ((s.modPart q (fun p => { p with pstate := 3, reason := reason })).saveAll q).stopAgents q
  else s

/-- What an access of a party that is no hart, made for partition q, does beyond its own fault when it reads a line
with an integrity tag fault or an uncorrectable error (R349, R355): the partition enters ERROR, and Lodestar of
cluster g learns of the error. -/
def State.lineError (s : State) (q g : Nat) (cause : BitVec 8) (va : Word) : State :=
  if cause = 0xB0 then s.partError q 1
  else if cause = 0xD5 then (s.partError q 4).event g { kind := 1, code := 0xD5, val := va }
  else s

/-! ### Ending a message (R266, R267) -/

/-- The completion word (R267): status, cause, sequence number. -/
def completionWord (status cause : BitVec 8) (seq : W32) : Word :=
  place 64 0 status ||| place 64 8 cause ||| place 64 32 seq

/-- The core that ends a message, as the party that writes its completion word in the sender's address space: core c, or a
core of another package. -/
def State.ender (s : State) (c : Nat) (m : Msg) : Who :=
  let w : Who := { key := none, core := some (coreOf m.src), tr := m.tr, mach := isMach m.src }
  if s.abroad m.dst then { w with host := true, units := if isMach m.src then [] else coreTlbs (coreOf m.src) }
  else { w with key := some (msgKey c), units := coreTlbs c }

/-- Writes a message's completion word, as the core that ended it; a write that fails is lost, since no rule gives it a
cause. -/
def State.writeCompletion (s : State) (c : Nat) (m : Msg) (status cause : BitVec 8) : State :=
  if m.cpl = 0 then s else
  let w := s.ender c m
  match s.check w .store (.scalar 8) 8 m.cpl with
  | .error t => s.lineError m.tr.part (clusterOfCore (if s.abroad m.dst then coreOf m.src else c)) t.cause t.tval
  | .ok pa =>
    match s.region w.core pa with
    | .clusterBlock _ _ | .agentBlock _ _ | .partBlock _ _ => s
    | _ => s.writePa w pa (completionWord status cause m.seq).toNat 8

/-- Ends the sender's entry of a message: it leaves the send queue, or, when its outcome raises a deferred
exception that finds the queue full, keeps it (R263, R267, R325). -/
def State.resolveSend (s : State) (m : Msg) (status : BitVec 8) : State :=
  let mark (t : SendState) (h : Hart) : Hart := { h with sendQ := h.sendQ.map (fun e =>
    if e.msg.dst = m.dst && e.msg.seq = m.seq && e.state ≠ .outcome then { e with state := t } else e) }
  let s := s.modHart m.src (mark .outcome)
  if m.trapping && (status = 2 || status = 3) then
    let d : Deferred := ⟨if status = 2 then 0x5A else 0x5B, m.seq.setWidth 64⟩
    if isCtx m.src then s.deferOrWait m.src m.srcGen d (.send (destOf m.dst) m.seq)
    else s.release m.src (.send (destOf m.dst) m.seq)
  else s.release m.src (.send (destOf m.dst) m.seq)

/-- A message ends (R267): its word is written and its entry ends, or its sender's package is told. -/
def State.completeMsg (s : State) (c : Nat) (m : Msg) (status cause : BitVec 8) : State :=
  if m.srcPkg = s.pkg then (s.writeCompletion c m status cause).resolveSend m status
  else { s with replies := s.replies ++ [⟨m.srcPkg, m.src, m.dst, m.seq, .ended status cause⟩] }

/-- Ends the message that core c runs, with a status and, for FAULT, a cause. -/
def State.endMessage (s : State) (c : Nat) (status cause : BitVec 8) : State :=
  match (s.core c).running with
  | none => s
  | some r =>
    let s := s.modCore c (fun x => { x with running := none })
    let s := s.modHart (msgKey c) (fun h => { h with resv := none, stall := none })
    s.completeMsg c r.msg status cause

end Sys2Proof.Machine
end

