-- ==== Sys2Proof/Machine/AgentRegs.lean ====
section
/-!
DEFINITION. Machine/AgentRegs.lean: the register block of a graphics agent (R243, R244), the writes that start,
stop and resume a queue (R244, R248), and the check of a notify (R247).
-/

namespace Sys2Proof.Machine

/-- The kind of an agent (R190): 0 dicing, 1 stochastic sampling, 2 blend. -/
def agentKind (a : Nat) : Nat := a % 6 / 2

/-- `agid` (R243). -/
def agentId (a : Nat) : Word := BitVec.ofNat 64 (agentKind a + 4 * (a % 6) + 32 * (a / 6))

/-- `aqstat` (R244). -/
def AgentQueue.stat (t : AgentQueue) : Word := place 64 0 t.state ||| place 64 4 t.err

/-- `aqctl` (R244). -/
def AgentQueue.ctl (t : AgentQueue) : Word :=
  place 64 0 (ofBool 1 t.en) ||| place 64 1 (ofBool 1 t.pres) ||| place 64 2 t.prio |||
    place 64 5 (ofBool 1 t.ien) ||| place 64 6 t.ihloc

/-- The queue and the register offset of a block offset from 0x1000; `none` beyond queue 7. -/
def queueAt (off : Nat) : Option (Nat × Nat) :=
  if 0x1000 ≤ off && off < 0x1200 then some ((off - 0x1000) / 64, (off - 0x1000) % 64) else none

/-- A load of an agent's register (R243, R244); `none` where nothing is mapped. -/
def State.agentLoad (s : State) (a off : Nat) : Option Word :=
  let g := s.agent a
  match queueAt off with
  | some (i, r) =>
    let t := g.q i
    match r with
    | 0x00 => some t.base
    | 0x08 => some (BitVec.ofNat 64 t.lg)
    | 0x10 => some t.tail
    | 0x18 => some t.head
    | 0x20 => some t.stat
    | 0x28 => some t.ctl
    | 0x30 => some t.plast
    | 0x38 => some t.faddr
    | _ => none
  | none =>
    match off with
    | 0x00 => some (agentId a)
    | 0x10 => some g.pcnt
    | 0x18 => some g.pmiss
    | 0x20 => some (place 64 0 (ofBool 1 g.pctl))
    | _ => none

/-- The queue has an entry in progress (R244). -/
def Agent.busy (g : Agent) (i : Nat) : Bool := (g.q i).entry.isSome || g.emitQ = some i

/-- The fields of `aqctl` other than `en` as a write leaves them; `pres` is kept while the queue is enabled, and
only blend units have it (R244). -/
def AgentQueue.setCtl (t : AgentQueue) (blend : Bool) (v : Word) : AgentQueue :=
  { t with
    pres := if t.en then t.pres else blend && bit v 1
    prio := bits v 2 3, ien := bit v 5, ihloc := bits v 6 18 }

/-- A write of `aqctl` that sets `en` (R244): head and tail become zero and the queue runs. A write that finds
`en` already set starts nothing anew (assumption log 12). -/
def State.queueEnable (s : State) (a i : Nat) (v : Word) : State :=
  s.modAgent a (fun g =>
    let t := (g.q i).setCtl (agentKind a = 2) v
    g.setQ i (if (g.q i).en then t else { t with en := true, head := 0, tail := 0, state := 1, err := 0 }))

/-- A write of `aqctl` that clears `en` (R244): the entry in progress finishes, then the queue is disabled. -/
def State.queueDisable (s : State) (a i : Nat) (v : Word) : State :=
  s.modAgent a (fun g =>
    let t := { (g.q i).setCtl (agentKind a = 2) v with en := false }
    g.setQ i (if g.busy i && t.state = 1 then t else { t with state := 0, err := 0 }))

/-- The notify comet of an agent's queue waits for room in the event queue of the Lodestar it goes to (R268, R329). -/
def State.cometWaits (s : State) (a i : Nat) : Bool :=
  s.comets.any (fun c => match c with
    | .notify h b v => b = a && v = notifyValue a i && (match s.undeliverable h a with
        | some g => !s.eventRoom g
        | none => false)
    | _ => false)

/-- A write of `aqhead` (R248): in the error state the queue resumes at that index; otherwise ignored. A queue whose comet
waits as an event stays in the error state (R329). -/
def State.queueHead (s : State) (a i : Nat) (v : Word) : State :=
  if s.cometWaits a i then s else
  s.modAgent a (fun g =>
    let t := g.q i
    if t.state = 2 then g.setQ i { t with head := v, state := 1, err := 0 } else g)

/-- A store to an agent's register; `none` is an access fault: an unmapped offset, or `aqtail` (R244). -/
def State.agentStore (s : State) (a off : Nat) (v : Word) : Option State :=
  let upd (i : Nat) (f : AgentQueue → AgentQueue) : State := s.modAgent a (fun g => g.setQ i (f (g.q i)))
  match queueAt off with
  | some (i, r) =>
    match r with
    | 0x00 => some (upd i (fun t => if t.en then t else { t with base := v &&& ~~~0xFFF }))
    | 0x08 =>
      let lg := (bits v 0 5).toNat
      some (upd i (fun t => if t.en then t else { t with lg := if 4 ≤ lg && lg ≤ 16 then lg else 4 }))
    | 0x10 => none
    | 0x18 => some (s.queueHead a i v)
    | 0x28 => some (if bit v 0 then s.queueEnable a i v else s.queueDisable a i v)
    | 0x20 | 0x30 | 0x38 => some s
    | _ => none
  | none =>
    match off with
    | 0x00 | 0x10 | 0x18 => some s
    | 0x20 => some (if agentKind a = 2 then s.modAgent a (fun g => { g with pctl := bit v 0 }) else s)
    | _ => none

/-- The agent's check of a notify of tail `v` (R247): the cause it answers, or the state with the tail moved. -/
def State.notifyCheck (s : State) (a i : Nat) (v : Word) : Except (BitVec 8) State :=
  let t := (s.agent a).q i
  if t.state ≠ 1 then .error 0x59
  else
    let u := (t.tail - t.head).toNat
    let d := (v - t.head).toNat
    if d < u then .error 0x59
    else if d > 2 ^ t.lg then .error 0x58
    else .ok (s.modAgent a (fun g => g.setQ i { g.q i with tail := v }))

end Sys2Proof.Machine
end

