-- ==== Sys2Proof/Machine/Ops.lean ====
section
/-!
DEFINITION. Machine/Ops.lean: the operations every instruction shares: ending it (R91, R104), stalling it (R274),
parking it, taking an exception or an interrupt and returning from one (R320 to R326).
-/

namespace Sys2Proof.Machine

/-! ### Status registers (R321) -/

/-- `sstatus` keeps only its defined fields: sie [1], spie [5], spp [8], dh [9], sum [18]. -/
def sstatusMask : Word := 0x40322
/-- `mstatus` keeps mie [3] and mpie [7]; mpp [12:11] reads 11. -/
def legalMstatus (v : Word) : Word := (v &&& 0x88) ||| 0x1800

/-- Trap entry (R322) on hart k: the return address and the status are saved, the mode becomes S (M on Lodestar
and Orrery), the reservation is cleared, and the hart goes to its trap vector. -/
def Hart.enterTrap (h : Hart) (mach : Bool) (intr : Bool) (cause : BitVec 8) (tval e : Word) : Hart :=
  let code : Word := place 64 0 cause ||| place 64 63 (ofBool 1 intr)
  if mach then
    let st := h.mc.mstatus
    { h with
      mc := { h.mc with
        mepc := e, mcause := code, mtval := tval,
        mstatus := legalMstatus (setBit (setBit st 7 (bit st 3)) 3 false) },
      resv := none, park := none, stall := none, pc := h.mc.mtvec &&& ~~~3 }
  else
    let st := h.sc.sstatus
    let st := setBit (setBit st 5 (bit st 1)) 1 false
    let st := setBit (setBit st 8 (h.mode = .s)) 9 true
    { h with
      sc := { h.sc with sepc := e, scause := code, stval := tval, sstatus := st },
      mode := .s, resv := none, park := none, stall := none, pc := h.sc.stvec &&& ~~~3 }

/-- `sret` (R322). -/
def Hart.sret (h : Hart) : Hart :=
  let st := h.sc.sstatus
  let st' := setBit (setBit (setBit (setBit st 1 (bit st 5)) 5 true) 8 false) 9 false
  { h with mode := if bit st 8 then .s else .u, sc := { h.sc with sstatus := st' }, pc := h.sc.sepc }

/-- `mret` (R322): the same with `mstatus`; the mode stays M. -/
def Hart.mret (h : Hart) : Hart :=
  let st := h.mc.mstatus
  { h with mc := { h.mc with mstatus := legalMstatus (setBit (setBit st 3 (bit st 7)) 7 true) }, pc := h.mc.mepc }

/-! ### Ending or stalling an instruction -/

/-- One more instruction retired: `instret` counts it (R104), and the message hart's count (R266). -/
def State.count (s : State) : State :=
  let s := s.modMe (fun h => { h with instret := h.instret + 1, stall := none, park := none })
  if isMsg s.cur then
    s.modCore (coreOf s.cur) (fun c => { c with
      running := c.running.map (fun r => { r with count := r.count + 1 }) })
  else s

/-- The instruction retires and the hart goes on at a target. -/
def retireTo (target : Word) (s : State) : Res := .next (s.count.modMe (fun h => { h with pc := target }))

/-- The instruction retires and `pc` advances by 4 (R91). -/
def retire (s : State) : Res := retireTo (s.me.pc + 4) s

/-- The instruction writes `x[rd]` and retires. -/
def retireX (rd : BitVec 5) (v : Word) (s : State) : Res := retire (s.modMe (fun h => h.setX rd v))

/-- The instruction cannot issue yet (R274): the hart tries again at its next turn. -/
def stall (w : Stall) (s : State) : Res := .next (s.modMe (fun h => { h with stall := some w }))

/-! ### Flags -/

/-- Flags a hart has set are on their way to the union of its cluster (R33). -/
def State.feedFlags (s : State) (k : Nat) (f : BitVec 5) : State :=
  if f = 0 || isOrr k then s else s.modCluster (clusterOf k) (fun c => { c with flagsDue := c.flagsDue ||| f })

/-- A hart's `fcsr` flags, and the union its cluster will see (R32, R33). -/
def State.raiseFlags (s : State) (k : Nat) (f : BitVec 5) : State :=
  if f = 0 then s else (s.modHart k (fun h => { h with fcsr := h.fcsr ||| f.setWidth 8 })).feedFlags k f

/-! ### Taking an exception -/

/-- The lowest-numbered cluster of partition q: its Lodestar hears of errors that no core met (R355). -/
def State.firstCluster (s : State) (q : Nat) : Nat :=
  match (upto 48).find? (fun g => s.ownerOfCluster g = some q) with
  | some g => g
  | none => 0

/-- The Lodestar that hears of an uncorrectable error Lodestar or Orrery core k met in a line of a partition. -/
def State.machEventAt (s : State) (k : Nat) (q : Option Nat) : Nat :=
  if isOrr k then s.firstCluster (q.getD 0) else clusterOf k

/-- Lodestar or Orrery core k reads a line with an uncorrectable error at a domain address: the partition whose range
holds it enters ERROR, and a Lodestar hears of it (R355). -/
def State.machError (s : State) (k : Nat) (va : Word) : State :=
  let q := s.rangeOwner (localOf va.toNat)
  let s := match q with
    | some q => s.partError q 4
    | none => s
  s.event (s.machEventAt k q) { kind := 1, code := 0xD5, val := va }

/-- What Lodestar or Orrery core k's failing access does beyond its own fault when its line is in error (R349, R355). -/
def State.machLineError (s : State) (k : Nat) (t : Trap) : State :=
  if t.cause = 0xB0 then
    match s.rangeOwner (localOf t.tval.toNat) with
    | some q => s.partError q 1
    | none => s
  else if t.cause = 0xD5 then s.machError k t.tval
  else s

/-- An uncorrectable error enters no handler of Lodestar or Orrery (R329): the instruction that read the line retires with
an open value in its destination, once there is room for the event. -/
def machErrorRead (va : Word) (s : State) : Res :=
  if s.eventRoom (s.machEventAt s.cur (s.rangeOwner (localOf va.toNat))) then
    retireX (bits s.ir 7 5) (Config.badLoad s.free) (s.bump.machError s.cur va)
  else stall .event s

/-- A message that core c runs ends (R266, R267), or waits for room in the window that holds its completion word (R208). -/
def State.endMessageOrWait (s : State) (c : Nat) (status cause : BitVec 8) : State :=
  s.untilWindowRoom (s.endMessage c status cause)

/-- What a reading hart's error does to its partition and tells Lodestar (R348, R349, R355). -/
def State.readError (s : State) (k : Nat) (t : Trap) : State :=
  let s := if t.cause = 0xB0 then s.partError (s.partOf k) 1
    else if t.cause = 0xD5 then s.partError (s.partOf k) 4 else s
  if t.cause = 0xD5 then s.ctxEvent k 1 0xD5 t.tval else s

/-- The current hart takes an exception (R320, R322, R326). A context enters its S-mode handler, except that
an S-mode `ecall` (0x09) saves it for the service call, and an uncorrectable tier-memory error (0xD5) saves it
and puts its partition in ERROR (R355); an integrity tag fault (0xB0) also does the latter (R349). A message hart
ends its message with FAULT (R266). Lodestar and Orrery cores enter their M-mode handler; a tag fault there puts the
partition of the line in ERROR. -/
def takeTrap (t : Trap) (s : State) : Res :=
  let k := s.cur
  let h := s.me
  if isMsg k then .next (s.untilWindowRoom ((s.endMessage (coreOf k) 4 t.cause).readError k t))
  else if isMach k then
    if t.cause = 0xD5 then machErrorRead t.tval s
    else .next ((s.setMe (h.enterTrap true false t.cause t.tval h.pc)).machLineError k t)
  else if t.cause = 0x09 || t.cause = 0xD5 then
    .next ((s.setMe { h with
      saveReq := some (.save t.cause), stopped := true, ctxState := 2, resv := none, park := none,
      stall := none }).readError k t)
  else .next ((s.setMe (h.enterTrap false false t.cause t.tval h.pc)).readError k t)

/-- Raises a cause with a trap value. -/
def raise (cause : BitVec 8) (tval : Word) (s : State) : Res := takeTrap ⟨cause, tval⟩ s

/-- Illegal instruction: `stval` holds the fetched bits (R40, R58, R323). -/
def illegal (s : State) : Res := raise 0x02 (s.ir.setWidth 64) s

/-- Continues with the value of a checked operation, or takes its exception in `s`. -/
def orTrap {α : Type} (r : Except Trap α) (s : State) (f : α → Res) : Res :=
  match r with
  | .ok a => f a
  | .error t => takeTrap t s

/-- The hart can execute: a resident context, or one whose save has not been taken yet, of a core that is neither
fenced nor absent; a message hart with a message; Lodestar and Orrery cores once their firmware runs, and Orrery core 0 of I/O die 0 once the loader does (R274, R352). -/
def State.runs (s : State) (k : Nat) : Bool :=
  let h := s.hart k
  let c := s.core (coreOf k)
  match hartKind k with
  | 0 => !c.fenced && !c.absent && (h.ctxState = 1 || (h.ctxState = 2 && !h.stopped && h.saveReq.isSome))
  | 1 => !c.fenced && !c.absent && c.running.isSome
  | 2 => s.boot = .running
  | _ => s.boot = .running || s.boot = .orrery || (s.boot = .loader && k = orrKey 0 0)

/-- In t a Lodestar has events waiting behind its full queue that it does not have in s (R329). -/
def State.addsWaiting (s t : State) : Bool :=
  (upto 48).any (fun g => (s.cluster g).evWait.length < (t.cluster g).evWait.length)

/-- An instruction that would add an event behind a full Lodestar queue (R329), or store where the windows have no room
(R208), stalls. -/
def untilRoom (s : State) (r : Res) : Res :=
  match r with
  | .next t => if s.addsWaiting t then stall .event s else if t.overfull then stall .window s else .next t
  | r => r

/-- What the device makes of s, once it does neither. -/
def State.ifRoom (s t : State) : State := if s.addsWaiting t || t.overfull then s else t

/-- A step of the device outside the issue slot that would do either is not made yet. -/
def untilRoomStep (s : State) (r : Res) : Res :=
  match r with
  | .next t => .next (s.ifRoom t)
  | r => r

/-- The hart parks at the instruction (R106, R221, R238, R284, R295, R300, R311). -/
def parkIn (p : Park) (s : State) : Res := .next (s.modMe (fun h => { h with park := some p, stall := none }))

/-! ### Interrupts (R324) -/

/-- The interrupts pending at hart k, as bits of `sip` or `mip`: notify [0], the event queue [1], cycle-compare
[3], doorbell [4]. -/
def State.pending (s : State) (k : Nat) : Word :=
  let h := s.hart k
  let cyc := if isCtx k then (s.core (coreOf k)).cycle else h.cycle
  let due := h.scyccmp ≠ 0 && h.scyccmp.toNat ≤ cyc.toNat
  let q := (s.cluster (clusterOf k)).evq
  if isMsg k then 0
  else place 64 0 (ofBool 1 (isCtx k && h.sc.notify)) |||
    place 64 1 (ofBool 1 (hartKind k = 2 && q.any (fun e => e.kind ≠ 6))) |||
    place 64 3 (ofBool 1 due) |||
    place 64 4 (ofBool 1 (hartKind k = 2 && q.any (fun e => e.kind = 6)))

/-- Pending and enabled in `sie` or `mie`. -/
def State.enabledPending (s : State) (k : Nat) : Word :=
  s.pending k &&& (if isMach k then (s.hart k).mc.mie else (s.hart k).sc.sie)

/-- Interrupts are globally enabled (R324). -/
def Hart.globally (h : Hart) : Bool :=
  match h.mode with
  | .u => true
  | .s => bit h.sc.sstatus 1
  | .m => bit h.mc.mstatus 3

/-- The interrupt hart k takes first, of those it can take: 0xF4, 0xF1, 0xF0, 0xF3 (R324). -/
def State.nextInterrupt (s : State) (k : Nat) : Option (BitVec 8) :=
  let p := s.enabledPending k
  if !(s.hart k).globally then none
  else if bit p 4 then some 0xF4 else if bit p 1 then some 0xF1
  else if bit p 0 then some 0xF0 else if bit p 3 then some 0xF3 else none

/-- Hart k takes the interrupt of a code at its boundary (R322 to R324): `sepc` is its `pc`, `stval` 0. -/
def State.takeInterrupt (s : State) (k : Nat) (code : BitVec 8) : State :=
  s.modHart k (fun h => h.enterTrap (isMach k) true code 0 h.pc)

end Sys2Proof.Machine
end

