-- ==== Sys2Proof/Machine/Legal.lean ====
section
/-!
DEFINITION. Machine/Legal.lean: what a register keeps of a value written to it, field by field (R4 and the WARL
fields of R24, R27, R30, R32, R39, R143, R321, R334), and the words read from composed registers (R24, R26, R28).
-/

namespace Sys2Proof.Machine

/-- `satp` and `patp` (R334): mode 0 or 9, and [43:42] zero. -/
def legalAtp (v : Word) : Word :=
  let v := v &&& ~~~((3 : Word) <<< 42)
  if bits v 60 4 = 0 || bits v 60 4 = 9 then v else setBits v 60 (0 : BitVec 4)

/-- `fcsr` (R32): a rounding mode above 4 is written as 0. -/
def legalFcsr (v : Word) : BitVec 8 := if 4 < (bits v 5 3).toNat then setBits (bits v 0 8) 5 (0 : BitVec 3) else bits v 0 8

/-- `qaxis` (R143): `dfmt` 3 is written as 0. -/
def legalQaxis (v : Word) : Word :=
  let v := v &&& 0xFFF3F
  if bits v 18 2 = 3 then setBits v 18 (0 : BitVec 2) else v

/-- The register of stream k and its enable (R30). -/
def strmReg (c : Word) (k : Nat) : Nat := (bits c (4 * k) 4).toNat
def strmEn (c : Word) (k : Nat) : Bool := bit c (16 + k)

/-- Of two active streams that name one register the higher-numbered is disabled (R30). -/
def oneStreamEach (v : Word) : Word :=
  (upto 4).foldl (fun v k =>
    if strmEn v k && (upto k).any (fun j => strmEn v j && strmReg v j = strmReg v k)
    then setBit v (16 + k) false else v) v

/-- The register field of stream k, with 0 written as 1 (R30). -/
def legalStrmReg (v : Word) (k : Nat) : Word :=
  if strmReg v k = 0 then setBits v (4 * k) (1 : BitVec 4) else v

/-- `strmctl` (R30, R240) after a write of `v` over `old`: the register of an active stream is kept, a register 0
becomes 1. -/
def legalStrmctl (old v : Word) : Word :=
  oneStreamEach ((upto 4).foldl (fun v k =>
    if strmEn old k then setBits v (4 * k) (bits old (4 * k) 4) else legalStrmReg v k) (v &&& 0xFFFFF))

/-- `strmctl` after `strm.set` of stream k (R239): its enable is set. Its own register field, where it still holds the reset
value 0, becomes 1; the other streams' fields stay as they are (assumption log 90). -/
def strmctlSet (c : Word) (k : Nat) : Word := oneStreamEach (setBit (legalStrmReg c k) (16 + k) true)

/-- `strmctl` as a restore loads it (R330): the word of the save area, except that an enabled stream keeps no register 0. -/
def strmctlLoad (v : Word) : Word :=
  oneStreamEach ((upto 4).foldl (fun v k => if strmEn v k then legalStrmReg v k else v) (v &&& 0xFFFFF))

/-- A configuration `vtype` may hold (R24): the word itself, or `vill` alone. -/
def legalVtype (v : Word) : Word :=
  if bit v 63 || (bits v 0 3).toNat > 3 || !legalPair (bits v 4 3) (bits v 0 2) then 1 <<< 63
  else v &&& 0xF7

/-- `vlp` (R27): of two valid slots that name one hart, the higher-numbered loses its valid bit. -/
def legalVlp (v : Word) : Word :=
  let ok (v : Word) (i : Nat) : Bool := bit v (4 * i + 11)
  let who (v : Word) (i : Nat) : BitVec 3 := bits v (4 * i + 8) 3
  (upto 8).foldl (fun v i =>
    if ok v i && (upto i).any (fun j => ok v j && who v j = who v i) then setBit v (4 * i + 11) false else v)
    (v &&& 0xFFFFFFFF03)

/-- `lsel` (R39). -/
def legalLsel (v : Word) : BitVec 4 := if 8 < (bits v 0 4).toNat then 8 else bits v 0 4

/-- `scause` and `mcause` (R321). -/
def legalCause (v : Word) : Word := v &&& 0x80000000000000FF

/-- `fwalm` (R304): `lgn` outside 14 to 20 is written as 14. -/
def legalFwalm (v : Word) : Word :=
  let v := v &&& 0xFFFFF800001F
  let n := (bits v 0 5).toNat
  if 14 ≤ n && n ≤ 20 then v else setBits v 0 (14 : BitVec 5)

/-- `vmdepth` (R26). -/
def VecState.vmdepth (v : VecState) : Word :=
  BitVec.ofNat 64 (v.mstack.length + 65536 * (v.spilled % 65536))

/-- `mcfg` (R28) of a hart. -/
def State.mcfg (s : State) (k : Nat) : Word :=
  let c := s.core (coreOf k)
  if !isCtx k then 0 else
  place 64 0 (s.hart k).mvl ||| place 64 2 (ofBool 1 (c.hold0 = some (slotOf k))) |||
    place 64 3 (ofBool 1 (c.hold1 = some (slotOf k)))

/-- `mgrant` (R28) of a core. -/
def Core.mgrant (c : Core) : Word :=
  let nib (h : Option Nat) : BitVec 4 :=
    match h with
    | some k => BitVec.ofNat 4 (8 + k % 8)
    | none => 0
  place 64 0 (nib c.hold0) ||| place 64 4 (nib c.hold1)

end Sys2Proof.Machine
end

