-- ==== Sys2Proof/Machine/Publish.lean ====
section
/-!
DEFINITION. Machine/Publish.lean: host-visible windows: enabling, disabling and publication (R206 to R209), and
what the host sees of a line (R208).
-/

namespace Sys2Proof.Machine

def Partition.win (p : Partition) (n : Nat) : Window := p.wins[n]?.getD {}
def Partition.setWin (p : Partition) (n : Nat) (v : Window) : Partition :=
  { p with wins := p.wins.setIfInBounds n v }

/-- The line of a local address as a host reads it: the value last published while it is pending (R208). -/
def State.hostLine (s : State) (line : Nat) : BitVec 512 :=
  let pend := s.parts.toList.flatMap (fun p => p.wins.toList.flatMap (fun v => v.pending))
  match pend.find? (fun e => e.1 = line) with
  | some e => e.2
  | none => s.lineAt line

/-- Where a doubleword of the host on the port of partition q is kept (R188, R345): at its domain address in the port's
aperture; the second aperture is the smaller, and a word of that host beyond it is kept at a number above every domain
address. -/
def State.hostAddr (s : State) (q hpa : Nat) : Nat :=
  if bit (s.part q).phab 0 then
    (if hpa < 2 ^ 45 then s.pkg.toNat * 2 ^ 48 + 0xC00000000000 + hpa else 2 ^ 54 + hpa)
  else s.pkg.toNat * 2 ^ 48 + 0x800000000000 + hpa

/-- The lines of the windows `m` become visible to the host (R209, steps 2 and 4). -/
def State.publishLines (s : State) (q : Nat) (m : List Nat) : State :=
  s.modPart q (fun p => m.foldl (fun p n => p.setWin n { p.win n with pending := [] }) p)

/-- One window's count advances and is written to its version word (R209, step 3). -/
def State.advance (s : State) (q n : Nat) : State :=
  let v := (s.part q).win n
  let s := s.modPart q (fun p => p.setWin n { v with cnt := v.cnt + 1 })
  s.writePa (s.whoAgent q []) (s.hostAddr q v.ver.toNat) (v.cnt + 1).toNat 8

/-- A publication of the enabled windows of `m`, in ascending number (R209). -/
def State.publish (s : State) (q : Nat) (m : BitVec 16) : State :=
  let ws := (upto 16).filter (fun n => m.getLsbD n && ((s.part q).win n).en)
  ws.foldl (fun s n => s.advance q n) (s.publishLines q ws)

/-- The window may be enabled (R207). -/
def State.winOk (s : State) (base : Nat) (v : Window) : Bool :=
  let size := 4096 * v.pages.toNat
  1 ≤ v.pages.toNat && v.pages.toNat ≤ 262144 && v.ver ≠ 0 &&
    ((base + size + 0x4000000 ≤ s.cap1) ||
      (0x10000000000 ≤ base && base + size ≤ 0x10000000000 + s.cap2)) &&
    s.parts.toList.all (fun p => p.wins.toList.all (fun u =>
      !u.en || u.base.toNat + 4096 * u.pages.toNat ≤ base || base + size ≤ u.base.toNat))

/-- A write of `hwbase` that sets `en` on a disabled window (R207). -/
def State.winEnable (s : State) (q n : Nat) (x : Word) : State :=
  let v := (s.part q).win n
  if v.en then s else
  let base := x &&& 0xFFFFFFFFF000
  if s.winOk base.toNat v then s.modPart q (fun p => p.setWin n { v with en := true, base := base })
  else s.modPart q (fun p => p.setWin n { v with base := base })

/-- A write of `hwbase` that clears `en`: the window publishes, then it is disabled (R207). -/
def State.winDisable (s : State) (q n : Nat) (x : Word) : State :=
  let v := (s.part q).win n
  let base := x &&& 0xFFFFFFFFF000
  if v.en then
    (s.publish q (setBit 0 n true)).modPart q (fun p => p.setWin n { p.win n with en := false })
  else s.modPart q (fun p => p.setWin n { v with base := base })

/-- A write of `hwver` (R206, R207): ignored while enabled; it sets `hwcnt` to 0. -/
def State.winVer (s : State) (q n : Nat) (x : Word) : State :=
  let v := (s.part q).win n
  if v.en then s
  else s.modPart q (fun p => p.setWin n { v with ver := x &&& 0x3FFFFFFFFFF8, cnt := 0 })

/-- A write of `hwsize` (R206): ignored while enabled. -/
def State.winSize (s : State) (q n : Nat) (x : Word) : State :=
  let v := (s.part q).win n
  if v.en then s else s.modPart q (fun p => p.setWin n { v with pages := bits x 0 19 })

end Sys2Proof.Machine
end

