-- ==== Sys2Proof/Machine/RadRegs.lean ====
section
/-!
DEFINITION. Machine/RadRegs.lean: the register block of the radiance unit (R172), binding and unbinding (R173) and
the pins it invalidates (R180).
-/

namespace Sys2Proof.Machine

/-- `rcstat` (R172); `err` is held only in state 3. -/
def Radiance.stat (r : Radiance) : Word := place 64 0 r.state ||| place 64 4 r.err ||| place 64 16 r.epoch

/-- `rcctl` (R172). -/
def Radiance.ctl (r : Radiance) : Word :=
  place 64 0 (ofBool 1 r.train) ||| place 64 1 r.tshare ||| place 64 4 (ofBool 1 r.wb)

/-- The generation number of a slot, and the generation number of the current one (`rcgen`). -/
def Radiance.genOf (r : Radiance) (slot : Nat) : Word := if slot = 0 then r.gen0 else r.gen1
def Radiance.rcgenNow (r : Radiance) : Word := r.genOf r.cur
/-- The parameters of a slot, in the order of R175. -/
def Radiance.slot (r : Radiance) (i : Nat) : List (BitVec 16) := if i = 0 then r.slot0 else r.slot1

/-- A load of a register of the unit; `none` where nothing is mapped. -/
def Radiance.load (r : Radiance) (off : Nat) : Option Word :=
  match off with
  | 0x00 => some r.rcbind
  | 0x08 => some r.stat
  | 0x10 => some r.ctl
  | 0x18 => some r.rcgenNow
  | 0x20 => some r.rcsteps
  | 0x28 => some (BitVec.ofNat 64 r.ring.length)
  | 0x30 => some r.rcdrop
  | 0x38 => some r.rcrej
  | _ => none

/-- The unit with both slots zeroed and no generation (R173). -/
def Radiance.clearSlots (r : Radiance) : Radiance :=
  { r with slot0 := [], slot1 := [], gen0 := 0, gen1 := 0, cur := 0, rcsteps := 0, since := 0, desc := 0 }

/-- The unit after a write of `rcbind` (R173): the epoch advances, the ring is emptied, and a load begins, or the
unit is unbound. -/
def Radiance.bind (r : Radiance) (v : Word) : Radiance :=
  let r := { r with rcbind := v, epoch := r.epoch + 1, ring := [], rcdrop := 0, rcrej := 0, err := 0, away := [],
                    todo := none }
  if v = 0 then { r.clearSlots with state := 0 } else { r with state := 1 }

/-- The pins taken in a cluster are released (R180). -/
def State.dropPins (s : State) (g : Nat) : State :=
  { s with harts := s.harts.map (fun e =>
      match e.2.pin with
      | some p => if p.cluster = g then (e.1, { e.2 with pin := none }) else e
      | none => e) }

/-- A write of `rcbind` (R173, R180). -/
def State.rcWriteBind (s : State) (g : Nat) (v : Word) : State :=
  (s.modCluster g (fun c => { c with rc := c.rc.bind v })).dropPins g

/-- A write of `rcctl` (R172): `wb` is set by writing 1 and stays until the write-back is complete. -/
def State.rcWriteCtl (s : State) (g : Nat) (v : Word) : State :=
  s.modCluster g (fun c =>
    { c with rc := { c.rc with train := bit v 0, tshare := bits v 1 3, wb := c.rc.wb || bit v 4 } })

/-- A store to a register of the unit; `none` where nothing is mapped. -/
def State.rcStore (s : State) (g off : Nat) (v : Word) : Option State :=
  match off with
  | 0x00 => some (s.rcWriteBind g v)
  | 0x10 => some (s.rcWriteCtl g v)
  | 0x08 | 0x18 | 0x20 | 0x28 | 0x30 | 0x38 => some s
  | _ => none

end Sys2Proof.Machine
end

