-- ==== Sys2Proof/Machine/TaskOps.lean ====
section
/-!
DEFINITION. Machine/TaskOps.lean: task records (R288, R289), where they wait and which hart takes which
(R280 to R283, R291 to R296), beginning one (R290), join counters and continuations (R298, R299).
-/

namespace Sys2Proof.Machine

/-! ### Records -/

/-- A record from its eight doublewords (R288). -/
def TaskRec.ofWords (l : List Word) : TaskRec :=
  let w (i : Nat) : Word := l.getD i 0
  { code := w 0, frame := w 1, join := w 2,
    lanes := bits (w 3) 0 8, gang := bits (w 3) 8 8, spad := bits (w 3) 16 8, rsvd := bits (w 3) 24 8,
    depth := bits (w 3) 32 8, maxdepth := bits (w 3) 40 8, cls := bits (w 3) 48 8, flags := bits (w 3) 56 8,
    arg := #v[w 4, w 5, w 6, w 7] }

/-- The eight doublewords of a record. -/
def TaskRec.words (r : TaskRec) : List Word :=
  [r.code, r.frame, r.join,
   r.flags ++ r.cls ++ r.maxdepth ++ r.depth ++ r.rsvd ++ r.spad ++ r.gang ++ r.lanes,
   r.arg[0], r.arg[1], r.arg[2], r.arg[3]]

/-- The record keeps the limits of R288 (R289). -/
def TaskRec.ok (r : TaskRec) : Bool :=
  r.code.toNat % 4 = 0 && r.join.toNat % 128 = 0 &&
    [0, 4, 8, 16, 32].contains r.lanes.toNat && r.gang.toNat < 16 && r.spad.toNat ≤ 16 && r.rsvd = 0 &&
    r.cls.toNat ≤ 7 && r.flags.toNat ≤ 1

/-- The GANG flag. -/
def TaskRec.isGang (r : TaskRec) : Bool := bit r.flags 0

/-! ### Gangs (R282, R283) -/

def Cluster.gang (c : Cluster) (g : Nat) : Gang := c.gangs[g]?.getD {}
def Cluster.setGang (c : Cluster) (g : Nat) (x : Gang) : Cluster :=
  { c with gangs := c.gangs.setIfInBounds g x }

/-- The number of members a gang has when full. -/
def Gang.n (g : Gang) : Nat := g.size.toNat + 1
/-- The lanes its code names (R282). -/
def Gang.laneCount (g : Gang) : Nat := if g.lanes = 0 then 0 else 2 ^ (g.lanes.toNat + 1)

/-- Hart k is eligible for a record (R280, R283). -/
def State.eligible (s : State) (k : Nat) (r : TaskRec) : Bool :=
  let v := s.lanes k
  let g := (s.cluster (clusterOf k)).gang (r.gang.toNat % 16)
  r.lanes.toNat ≤ v &&
    (!r.isGang || (g.en && g.members < g.n && v = g.laneCount)) &&
    (r.spad = 0 ||
      r.spad.toNat ≤ (upto 16).countP (fun b => (s.core (coreOf k)).lmsplit.getLsbD b))

/-- A hart leaves its gang (R283, R300). -/
def State.leaveGang (s : State) (k : Nat) : State :=
  let t := (s.hart k).task
  if t.member then
    let s := s.modCluster (clusterOf k) (fun c =>
      let g := c.gang t.tgang.toNat
      c.setGang t.tgang.toNat { g with members := g.members - 1 })
    s.modHart k (fun h => { h with task := { h.task with member := false } })
  else s

/-! ### The deque (R291, R292) -/

/-- Records in a core's deque. -/
def Core.dqlen (c : Core) : Nat := c.deque.length + c.spilled.length
/-- The deque holds all it can. -/
def Core.dqFull (c : Core) : Bool := 64 + c.dqcap ≤ c.dqlen

/-- The party of a core's deque: the device, in the partition space of the core's partition (R292, R339). -/
def State.whoDeque (s : State) (c : Nat) : Who :=
  s.whoAgent ((s.ownerOfCluster (clusterOfCore c)).getD 0) [clusterTlb (clusterOfCore c)]

/-- A free place of the spill area: the first from a place the manual leaves open (R292). -/
def spillPlace (cap : Nat) (used : List Nat) (start : Nat) : Nat :=
  ((upto cap).map (fun i => (start + i) % cap)).find? (fun i => !used.contains i) |>.getD 0

/-- Writes doublewords one after the other; the first that fails decides. -/
def State.agentWrites (s : State) (w : Who) (va : Word) : List Word → Except Trap State
  | [] => .ok s
  | v :: vs =>
    match s.agentWrite w va v.toNat 8 with
    | .error t => .error t
    | .ok s => s.agentWrites w (va + 8) vs

/-- A record at the bottom of a core's deque; the 65th on chip spills the oldest (R292). A failing spill is
cause 0x53 with the failing address. -/
def State.pushDeque (s : State) (c : Nat) (r : TaskRec) : Except Trap State :=
  let x := s.core c
  if x.deque.length < 64 then .ok (s.setCore c { x with deque := x.deque ++ [r] })
  else
    match x.deque with
    | [] => .ok s
    | o :: ds =>
      let i := spillPlace x.dqcap x.spilled (Config.spillPick s.free)
      match s.bump.agentWrites (s.whoDeque c) (x.dqbase + 64 * BitVec.ofNat 64 i) o.words with
      | .error t => .error ⟨0x53, t.tval⟩
      | .ok s => .ok (s.modCore c (fun y => { y with deque := ds ++ [r], spilled := y.spilled ++ [i] }))

/-- The spilled record at a place, read by the device; a failing read gives its address. -/
def State.readSpilled (s : State) (c i : Nat) : Except Trap TaskRec :=
  match s.agentReads (s.whoDeque c) ((s.core c).dqbase + 64 * BitVec.ofNat 64 i) 8 with
  | .error t => .error ⟨0x53, t.tval⟩
  | .ok l => .ok (TaskRec.ofWords l)

/-- What a failing refill at an address does beyond its 0x53 (R349, R355). -/
def State.spillError (s : State) (c : Nat) (va : Word) : State :=
  let w := s.whoDeque c
  match s.check w .load .vector 8 va with
  | .error t => s.lineError w.tr.part (clusterOfCore c) t.cause va
  | .ok _ => s

/-- The owner takes the bottom record; the newest spilled record comes back on chip, so that the newest 64 stay
there (R292). -/
def State.popBottom (s : State) (c : Nat) : Except Trap (Option TaskRec × State) :=
  let x := s.core c
  match x.deque.reverse with
  | [] => .ok (none, s)
  | r :: ds =>
    match x.spilled.reverse with
    | [] => .ok (some r, s.setCore c { x with deque := ds.reverse })
    | i :: rest =>
      match s.readSpilled c i with
      | .error t => .error t
      | .ok o => .ok (some r, s.setCore c { x with deque := o :: ds.reverse, spilled := rest.reverse })

/-- The top record of a victim's deque, and the state without it. -/
def State.popTop (s : State) (c : Nat) : Except Trap (Option (TaskRec × State)) :=
  let x := s.core c
  match x.spilled with
  | i :: rest =>
    match s.readSpilled c i with
    | .error t => .error t
    | .ok r => .ok (some (r, s.setCore c { x with spilled := rest }))
  | [] =>
    match x.deque with
    | [] => .ok none
    | r :: ds => .ok (some (r, s.setCore c { x with deque := ds }))

/-! ### Which record a hart takes (R293, R294, R296) -/

/-- Of two records with places, the one of higher class, the earlier on a tie. -/
def betterOf (a : Option (Nat × TaskRec)) (b : Nat × TaskRec) : Option (Nat × TaskRec) :=
  match a with
  | none => some b
  | some x => if x.2.cls.toNat < b.2.cls.toNat then some b else some x

/-- The record of highest class, then the oldest, among those numbered. -/
def bestOf (l : List (Nat × TaskRec)) : Option (Nat × TaskRec) := l.foldl betterOf none

/-- A list numbered from 0. -/
def numbered {α : Type} (l : List α) : List (Nat × α) := (upto l.length).zip l

/-- R293: the eligible record of the store a hart takes, its place, and whether its count is 64. -/
def State.storeChoice (s : State) (k : Nat) : Option (Nat × TaskRec × Bool) :=
  let el := (numbered (s.cluster (clusterOf k)).pls).filter (fun e => s.eligible k e.2.task)
  match bestOf ((el.filter (fun e => 64 ≤ e.2.count)).map (fun e => (e.1, e.2.task))) with
  | some e => some (e.1, e.2, true)
  | none =>
    match bestOf (el.map (fun e => (e.1, e.2.task))) with
    | some e => some (e.1, e.2, false)
    | none => none

/-- The oldest eligible record of a core's inbox and its place (R291). -/
def State.inboxChoice (s : State) (k : Nat) : Option (Nat × TaskRec) :=
  findIdx (fun r => s.eligible k r) (s.core (coreOf k)).inbox 0

/-- The bottom record of the core's deque, if eligible. -/
def State.dequeChoice (s : State) (k : Nat) : Option TaskRec :=
  match (s.core (coreOf k)).deque.getLast? with
  | some r => if s.eligible k r then some r else none
  | none => none

/-- Where the record a hart takes lies. -/
inductive Place where
  | inbox (i : Nat) | deque | store (i : Nat)
deriving DecidableEq, Repr

/-- R294: the candidate a hart takes, without stealing. -/
def State.workAt (s : State) (k : Nat) : Option (Place × TaskRec) :=
  let st := s.storeChoice k
  match st with
  | some (i, r, true) => some (.store i, r)
  | _ =>
    let c1 := (s.inboxChoice k).map (fun e => (Place.inbox e.1, e.2))
    let c2 := (s.dequeChoice k).map (fun r => (Place.deque, r))
    let c3 := st.map (fun e => (Place.store e.1, e.2.1))
    let pick (a b : Option (Place × TaskRec)) : Option (Place × TaskRec) :=
      match a, b with
      | some x, some y => if x.2.cls.toNat < y.2.cls.toNat then some y else some x
      | some x, none => some x
      | none, y => y
    pick (pick c1 c2) c3

/-- The clusters a thief of cluster g visits after its own, in neighbour order, within its die and partition
(R296). -/
def State.neighbours (s : State) (g : Nat) : List Nat :=
  let d := g / 12
  let c := g % 12
  let offs := [1, 11, 2, 10, 3, 9, 4, 8, 5, 7, 6]
  (offs.map (fun o => 12 * d + (c + o) % 12)).filter (fun v => s.ownerOfCluster v = s.ownerOfCluster g)

/-- The victims of a thief on core c in the order of R296; fenced cores are none (R357). -/
def State.victims (s : State) (c : Nat) : List Nat :=
  let g := clusterOfCore c
  let n := coreInCluster c
  let own := (upto 7).map (fun i => coreAt g ((n + 1 + i) % 8))
  let far := (s.neighbours g).flatMap (fun v => (upto 8).map (fun i => coreAt v ((n + i) % 8)))
  (own ++ far).filter (fun v => !(s.core v).fenced && !(s.core v).absent)

/-- Steals from the first victim whose top record is eligible (R296); a victim whose record cannot be read is
passed over and its Lodestar told (R292). -/
def State.steal (s : State) (k : Nat) : List Nat → Option TaskRec × State
  | [] => (none, s)
  | v :: vs =>
    match s.popTop v with
    | .error t => ((s.spillError v t.tval).forward (ctxKey v 0) 0x53 t.tval).steal k vs
    | .ok none => s.steal k vs
    | .ok (some (r, s')) =>
      if s.eligible k r && (!r.isGang || clusterOfCore v = clusterOf k) then (some r, s') else s.steal k vs

/-- Counts the eligible lower-class records of the store that a take passes over (R293). -/
def State.passOver (s : State) (k : Nat) (r : TaskRec) : State :=
  s.modCluster (clusterOf k) (fun c => { c with pls := c.pls.map (fun e =>
    if s.eligible k e.task && e.task.cls.toNat < r.cls.toNat then { e with count := e.count + 1 } else e) })

/-- Wakes the Orrery cores that a full inbox of this core refused (R311, source 2). -/
def State.inboxFreed (s : State) (c : Nat) : State :=
  (upto 2).foldl (fun s d =>
    if (s.complex d).noted.contains c then
      (s.modComplex d (fun x => { x with noted := x.noted.filter (· ≠ c) })).signalFw d 4
    else s) s

/-- Takes the record at a place away. -/
def State.takeAt (s : State) (k : Nat) (p : Place) : Except Trap (Option TaskRec × State) :=
  let c := coreOf k
  match p with
  | .inbox i =>
    .ok ((s.core c).inbox[i]?, (s.modCore c (fun x => { x with inbox := x.inbox.eraseIdx i })).inboxFreed c)
  | .deque => s.popBottom c
  | .store i =>
    .ok (((s.cluster (clusterOf k)).pls[i]?).map (·.task),
      s.modCluster (clusterOf k) (fun x => { x with pls := x.pls.eraseIdx i }))

/-- A hart looks for work (R294, R296): the record it takes and the state without it, or none. -/
def State.findWork (s : State) (k : Nat) (nosteal : Bool) : Except Trap (Option TaskRec × State) :=
  match s.workAt k with
  | some (p, r) => (s.passOver k r).takeAt k p
  | none =>
    if nosteal then .ok (none, s)
    else
      match s.steal k (s.victims (coreOf k)) with
      | (some r, s') => .ok (some r, s'.passOver k r)
      | (none, s') => .ok (none, s')

/-! ### Beginning a record (R290) -/

/-- A context moves to the youngest end of its core's age order (R276). -/
def State.youngest (s : State) (k : Nat) : State :=
  s.modCore (coreOf k) (fun c => { c with age := c.age.filter (· ≠ slotOf k) ++ [slotOf k] })

/-- A hart's arrays become free; their contents are lost (R130, R132). -/
def State.freeArrays (s : State) (k : Nat) : State :=
  s.modCore (coreOf k) (fun c =>
    { c with hold0 := if c.hold0 = some (slotOf k) then none else c.hold0,
             hold1 := if c.hold1 = some (slotOf k) then none else c.hold1 })

/-- The matrix queue of the hart's core holds an instruction of it. -/
def State.hasQueued (s : State) (k : Nat) : Bool :=
  isCtx k && (s.core (coreOf k)).mq.any (fun e => e.slot = slotOf k)

/-- A hart takes a record: its task state is the record's (R290). -/
def Hart.takeRec (h : Hart) (r : TaskRec) : Hart :=
  { h with task :=
    { tdepth := r.depth, tmax := r.maxdepth, tclass := bits r.cls 0 3, tjoin := r.join,
      tgang := if r.isGang then bits r.gang 0 4 else h.task.tgang,
      member := h.task.member || r.isGang } }

/-- The registers of a hart as it runs the record it has taken (R290). -/
def Hart.runRec (h : Hart) (r : TaskRec) : Hart :=
  let h := { h with
    begun := none, mvl := 0, mode := .u, pc := r.code, park := none, stall := none,
    strmctl := h.strmctl &&& ~~~0xF0000,
    vec := { h.vec with vtype := 1 <<< 63, vl := 0, vstart := 0, mstack := [], spilled := 0, vfm := 0 } }
  let h := h.setX 10 r.frame
  let h := (((h.setX 11 r.arg[0]).setX 12 r.arg[1]).setX 13 r.arg[2]).setX 14 r.arg[3]
  h.setX 15 r.join

/-- Hart k takes a record, and is counted a member of its gang (R290). -/
def State.takeRec (s : State) (k : Nat) (r : TaskRec) : State :=
  let s := if r.isGang then s.modCluster (clusterOf k) (fun c =>
      let g := c.gang (r.gang.toNat % 16)
      c.setGang (r.gang.toNat % 16) { g with members := g.members + 1 }) else s
  s.modHart k (fun h => h.takeRec r)

/-- Hart k runs the record it has taken (R290); `instret` counts the `task.pop` or `task.exit` that ends so. -/
def State.runRec (s : State) (k : Nat) (r : TaskRec) : State :=
  let s := (s.freeArrays k).youngest k
  State.modHart { s with begins := s.begins + 1 } k (fun h =>
    { h.runRec r with instret := h.instret + 1, beganAt := s.begins + 1 })

/-- Hart k begins a record (R290). It takes the record at once; while matrix instructions of the hart are queued it waits
with it. -/
def State.beginRec (s : State) (k : Nat) (r : TaskRec) : State :=
  let s := s.takeRec k r
  if s.hasQueued k then s.modHart k (fun h => { h with begun := some r, stall := some .interlock, park := none })
  else s.runRec k r

/-! ### Join counters and continuations (R298, R299) -/

/-- The store with the records Lodestar keeps placed in it as far as it has room, its continuations first (R299, R358). -/
def Cluster.drained (c : Cluster) : Cluster :=
  let room := 256 - c.pls.length
  { c with
    pls := c.pls ++ ((c.held ++ c.moved).take room).map (fun r => ⟨r, 0⟩)
    held := c.held.drop room
    moved := c.moved.drop (room - c.held.length) }

/-- Places a record in a cluster's pending-launch store, if it has room after the records Lodestar keeps. -/
def State.placeStore (s : State) (g : Nat) (r : TaskRec) : Option State :=
  let c := (s.cluster g).drained
  if c.pls.length < 256 then some (s.setCluster g { c with pls := c.pls ++ [⟨r, 0⟩] }) else none

/-- Lodestar keeps no record that waits for the cluster's store (R299, R358). -/
def Cluster.keepsNone (c : Cluster) : Bool := c.held.isEmpty && c.moved.isEmpty

/-- The continuation as Lodestar reads it in the space of the partition, to keep it (R299, R339); where that read gives no
record it keeps what the decrementing party read (assumption log 57). -/
def State.lodestarReads (s : State) (q c : Nat) (va : Word) (r : TaskRec) : TaskRec :=
  match s.agentReads (s.whoAgent q [clusterTlb (clusterOfCore c)]) (va + 64) 8 with
  | .ok l => if (TaskRec.ofWords l).ok then TaskRec.ofWords l else r
  | .error _ => r

/-- Places the continuation of the block at `va` for a decrement made on core c by party w (R299). A spill that
fails is the only fault. The deque of a core that is lost takes no record (R359). -/
def State.continuation (s : State) (w : Who) (c : Nat) (va : Word) : Except Trap State :=
  let k := w.key.getD (ctxKey c 0)
  match s.agentReads w (va + 64) 8 with
  | .error t => .ok ((s.lineError w.tr.part (clusterOfCore c) t.cause t.tval).forward k 0x52 va)
  | .ok l =>
    let r := TaskRec.ofWords l
    if r.code = 0 then .ok s
    else if !r.ok then .ok (s.forward k 0x52 va)
    else if !(s.core c).dqFull && !(s.core c).absent then s.pushDeque c r
    else
      match s.placeStore (clusterOfCore c) r with
      | some s => .ok s
      | none =>
        .ok ((s.modCluster (clusterOfCore c) (fun x =>
          { x with held := x.held ++ [s.lodestarReads w.tr.part c va r] })).forward k 0x50 va)

/-- The decrement of the join counter at `va` by party w (R298): the old count and the state with the new one. -/
def State.joinTake (s : State) (w : Who) (va : Word) : Except Trap (Nat × State) :=
  if va.toNat % 128 ≠ 0 then .error ⟨0x06, va⟩
  else
    match s.check w .amo .atomic 8 va with
    | .error t => .error t
    | .ok pa =>
      let old := s.readPa w.core pa 8
      if old = 0 then .error ⟨0x57, va⟩
      else .ok (old, (s.cache w .amo va).writePa w pa (old - 1) 8)

/-- `task.join` by party w on core c (R298): the old count and the state, with the continuation placed when the count
reaches zero. -/
def State.joinDec (s : State) (w : Who) (c : Nat) (va : Word) : Except Trap (Nat × State) :=
  match s.joinTake w va with
  | .error t => .error t
  | .ok (old, s') =>
    if old = 1 then
      match s'.continuation w c va with
      | .error t => .error t
      | .ok s' => .ok (1, s')
    else .ok (old, s')

end Sys2Proof.Machine
end

