-- ==== Sys2Proof/Machine/Regs.lean ====
section
/-!
DEFINITION. Machine/Regs.lean: loads and stores of register space (R190): the cluster block (R172, R281, R328,
R329, R342), the agent blocks (R243) and the partition blocks (R206, R345, R361); and the invalidation of
translations (R341, R342).
-/

namespace Sys2Proof.Machine

/-! ### Invalidation -/

/-- The cache is one that serves cluster g (R341): a core's or the cluster's own, its radiance unit's, or that of an agent
of its half-die. -/
def servesCluster (u g : Nat) : Bool :=
  if u < 48 then u = g
  else if u < 72 then halfOfAgent (u - 48) = halfOfCluster g
  else if u < 120 then u - 72 = g
  else clusterOfCore (u - 120) = g

/-- Discards the translations of partition q in the caches that serve cluster g: those of the page that
holds `va`, or of every page; those with an identifier that are not global, or all (R341). -/
def State.discard (s : State) (g q : Nat) (va : Option Word) (asid : Option (BitVec 16)) : State :=
  let hit (t : TlbEntry) : Bool :=
    servesCluster t.unit g && t.part = q &&
      (match va with
        | some v => v.toNat / 2 ^ t.lg = t.vpage
        | none => true) &&
      (match asid with
        | some i => !t.glob && t.asid = i
        | none => true)
  { s with tlb := s.tlb.filter (fun t => !hit t) }

/-- A write of `tlbinv` (R342), for the partition that owns the cluster. -/
def State.tlbinvWrite (s : State) (g : Nat) (v : Word) : State :=
  let page : Word := (bits v 12 36 ++ (0 : BitVec 12)).signExtend 64
  s.discard g ((s.ownerOfCluster g).getD 0) (if bit v 0 then none else some page)
    (if bit v 1 then none else some (bits v 48 16))

/-! ### Context registers (R328) -/

/-- `ctxstat`: the class and the membership are those of the record a context runs. -/
def Hart.ctxstat (h : Hart) : Word :=
  if h.ctxState = 0 then 0
  else place 64 0 h.ctxState ||| place 64 8 h.task.tclass ||| place 64 11 (ofBool 1 h.task.member)

/-- The save command: accepted by a resident context (R328). -/
def Hart.cmdSave (h : Hart) : Hart :=
  if h.ctxState = 1 then { h with ctxState := 2, saveReq := some (.save 0xF2) } else h
/-- The restore command: accepted by a free context. -/
def Hart.cmdRestore (h : Hart) : Hart := if h.ctxState = 0 then { h with ctxState := 3 } else h
/-- The retire command: accepted by a resident context. -/
def Hart.cmdRetire (h : Hart) : Hart :=
  if h.ctxState = 1 then { h with ctxState := 2, saveReq := some .retire } else h

/-- A write of `ctxcmd`. -/
def Hart.command (h : Hart) (v : Word) : Hart :=
  match (bits v 0 2).toNat with
  | 1 => h.cmdSave
  | 2 => h.cmdRestore
  | 3 => h.cmdRetire
  | _ => h

/-- The context whose registers an offset of the cluster block names, with the register's own offset. -/
def ctxAt (g off : Nat) : Option (Nat × Nat) :=
  if 0x3000 ≤ off && off < 0x4200 then
    let n := (off - 0x3000) / 64
    some (ctxKey (coreAt g (n / 8)) (n % 8), (off - 0x3000) % 64)
  else none

/-- A load of a context register. -/
def Hart.ctxLoad (h : Hart) (r : Nat) : Option Word :=
  match r with
  | 0x00 => some 0
  | 0x08 => some h.ctxstat
  | 0x10 => some h.ctxarea
  | 0x18 => some (h.ctxpart.setWidth 64)
  | _ => some 0

/-- A store to a context register. -/
def Hart.ctxStore (h : Hart) (r : Nat) (v : Word) : Hart :=
  match r with
  | 0x00 => h.command v
  | 0x10 => if h.ctxState = 0 then { h with ctxarea := v &&& ~~~0x1FFFF } else h
  | 0x18 => if h.ctxState = 0 then { h with ctxpart := bits v 0 3 } else h
  | _ => h

/-! ### Scheduling registers (R281, R282) -/

/-- `gcfg`. -/
def Gang.cfg (g : Gang) : Word :=
  place 64 0 (ofBool 1 g.en) ||| place 64 1 g.size ||| place 64 7 g.lanes |||
    place 64 16 (BitVec.ofNat 7 g.members)

/-- A write of `gcfg`: ignored while the gang has members. -/
def Gang.setCfg (g : Gang) (v : Word) : Gang :=
  if g.members ≠ 0 then g
  else { g with
    en := bit v 0, size := bits v 1 6
    lanes := if 4 < (bits v 7 3).toNat then 0 else bits v 7 3 }

/-- `gbstat`. -/
def Gang.stat (g : Gang) : Word :=
  place 64 0 (BitVec.ofNat 7 g.arr) ||| place 64 7 g.op ||| place 64 16 g.phase

/-- The core and the register of an offset among the deque registers. -/
def dequeAt (g off : Nat) : Option (Nat × Nat) :=
  if 0x2000 ≤ off && off < 0x2100 && (off - 0x2000) % 32 < 24 then
    some (coreAt g ((off - 0x2000) / 32), (off - 0x2000) % 32)
  else none

/-- A write of `dqbase` or `dqcap`: ignored while records are spilled. -/
def Core.setDeque (c : Core) (r : Nat) (v : Word) : Core :=
  if 64 < c.dqlen then c
  else match r with
    | 0 => { c with dqbase := v &&& ~~~0x3F }
    | 8 => { c with dqcap := min (bits v 0 17).toNat 65536 }
    | _ => c

/-! ### The cluster block -/

/-- A load of the block of cluster g by hart k: the value and the state after it; `none` is an access fault. -/
def State.clusterLoad (s : State) (k g off : Nat) : Option (Word × State) :=
  let c := s.cluster g
  if off < 0x40 then (c.rc.load off).map (fun v => (v, s))
  else match dequeAt g off with
    | some (n, r) =>
      let x := s.core n
      some (if r = 0 then x.dqbase else if r = 8 then BitVec.ofNat 64 x.dqcap else BitVec.ofNat 64 x.dqlen, s)
    | none =>
      match ctxAt g off with
      | some (n, r) => if hartKind k = 2 then ((s.hart n).ctxLoad r).map (fun v => (v, s)) else none
      | none =>
        if 0x2100 ≤ off && off < 0x2180 then some ((c.gang ((off - 0x2100) / 8)).cfg, s)
        else if 0x2180 ≤ off && off < 0x2200 then some ((c.gang ((off - 0x2180) / 8)).stat, s)
        else if off = 0x2200 then some (BitVec.ofNat 64 c.pls.length, s)
        else if off = 0x4800 then (if hartKind k = 2 then some (s.popEvent g) else none)
        else if off = 0x4808 then (if hartKind k = 2 then some (c.lsevt1, s) else none)
        else if off = 0x5000 || off = 0x5008 then some (0, s)
        else none

/-- A store to the block of cluster g by hart k; `none` is an access fault. -/
def State.clusterStore (s : State) (k g off : Nat) (v : Word) : Option State :=
  if off < 0x40 then s.rcStore g off v
  else match dequeAt g off with
    | some (n, r) => some (s.modCore n (fun x => x.setDeque r v))
    | none =>
      match ctxAt g off with
      | some (n, r) => if hartKind k = 2 then some (s.modHart n (fun h => h.ctxStore r v)) else none
      | none =>
        if 0x2100 ≤ off && off < 0x2180 then
          some (s.modCluster g (fun c =>
            c.setGang ((off - 0x2100) / 8) ((c.gang ((off - 0x2100) / 8)).setCfg v)))
        else if 0x2180 ≤ off && off ≤ 0x2200 then some s
        else if off = 0x4800 || off = 0x4808 then (if hartKind k = 2 then some s else none)
        else if off = 0x5000 then some (s.tlbinvWrite g v)
        else if off = 0x5008 then some s
        else none

/-! ### The partition block (R206, R345, R361) -/

/-- `svcj` and `svchart`. -/
def Partition.svcj (p : Partition) : Word := if p.attached then (p.journal &&& 0xFFFFFFFFC000) ||| 1 else 0
def Partition.svchart (p : Partition) (pkg : BitVec 6) : Word :=
  if p.attached then place 64 0 (hlocOf pkg p.svcHart) ||| place 64 32 p.svcGen else 0

/-- `pstate`. -/
def Partition.stateWord (p : Partition) : Word := place 64 0 p.pstate ||| place 64 4 p.reason

/-- The window and register of an offset. -/
def winAt (off : Nat) : Option (Nat × Nat) :=
  if 0x400 ≤ off && off < 0x800 then some ((off - 0x400) / 64, (off - 0x400) % 64) else none
/-- The range and register (0 base, 8 size) of an offset. -/
def pmrAt (off : Nat) : Option (Nat × Nat) :=
  if 0x40 ≤ off && off < 0xC0 then some ((off - 0x40) / 16, (off - 0x40) % 16) else none

/-- A load of the block of partition q. -/
def State.partLoad (s : State) (q off : Nat) : Option Word :=
  let p := s.part q
  match winAt off with
  | some (n, r) =>
    let v := p.win n
    match r with
    | 0x00 => some (v.base ||| place 64 0 (ofBool 1 v.en))
    | 0x08 => some (v.pages.setWidth 64)
    | 0x10 => some v.ver
    | 0x18 => some v.cnt
    | 0x20 => some (BitVec.ofNat 64 v.pending.length)
    | _ => some 0
  | none =>
    match pmrAt off with
    | some (i, r) => some (if r = 0 then p.pmrbase[i]?.getD 0 else p.pmrsize[i]?.getD 0)
    | none =>
      match off with
      | 0x000 => some p.patp
      | 0x008 => some p.stateWord
      | 0x010 => some (p.ptid.setWidth 64)
      | 0x018 => some (p.pown.setWidth 64)
      | 0x020 => some p.phab
      | 0x028 => some p.phas
      | 0x100 => some p.svcj
      | 0x108 => some (p.svchart s.pkg)
      | 0x110 => some (BitVec.ofNat 64 (p.wdcnt + 256 * p.wdlimit.toNat))
      | 0x118 => some 0
      | 0x120 => some p.svcrst
      | _ => none

/-- What Orrery firmware's store to a configuration field leaves (R345). -/
def Partition.config (p : Partition) (off : Nat) (v : Word) : Partition :=
  match pmrAt off with
  | some (i, r) =>
    if r = 0 then { p with pmrbase := p.pmrbase.setIfInBounds i (v &&& 0xFFFFFFE00000) }
    else { p with pmrsize := p.pmrsize.setIfInBounds i (v &&& 0x1FFFFE00000) }
  | none =>
    match off with
    | 0x010 => { p with ptid := bits v 0 16 }
    | 0x018 => { p with pown := bits v 0 8 }
    | 0x020 => { p with phab := v &&& 0x3FFFFFFFF001 }
    | 0x028 => { p with phas := v &&& 0x3FFFFFFFF000 }
    | _ => p

/-- A store to the block of partition q by hart k (R206, R345, R361); `none` is an access fault. Configuration is
written by Orrery firmware in CONFIG_UNLOCKED; once it is frozen a store that would change it does not, and puts
a running partition in ERROR with reason 3. -/
def State.partStore (s : State) (k q off : Nat) (v : Word) : Option State :=
  let p := s.part q
  match winAt off with
  | some (n, r) =>
    match r with
    | 0x00 => some (if bit v 0 then s.winEnable q n v else s.winDisable q n v)
    | 0x08 => some (s.winSize q n v)
    | 0x10 => some (s.winVer q n v)
    | _ => some s
  | none =>
    if (pmrAt off).isSome || off = 0x010 || off = 0x018 || off = 0x020 || off = 0x028 then
      some (if !isOrr k then s
        else if p.pstate = 0 then s.modPart q (fun p => p.config off v)
        else if p.config off v = p then s else s.partError q 3)
    else
      match off with
      | 0x000 =>
        some (if isCtx k && (s.hart k).mode = .s && s.partOf k = q
          then s.modPart q (fun p => { p with patp := legalAtp v }) else s)
      | 0x008 => some s
      | 0x118 =>
        some (if p.attached && p.svcHart = k && p.svcGen = (s.hart k).hgen
          then s.modPart q (fun p => { p with wdcnt := 0 }) else s)
      | 0x100 | 0x108 | 0x110 | 0x120 => some s
      | _ => none

/-! ### Register space -/

/-- A doubleword load of a register block by hart k; `none` is an access fault. -/
def State.regLoad (s : State) (k : Nat) (r : Region) : Option (Word × State) :=
  match r with
  | .clusterBlock g off => s.clusterLoad k g off
  | .agentBlock a off => (s.agentLoad a off).map (fun v => (v, s))
  | .partBlock q off => (s.partLoad q off).map (fun v => (v, s))
  | _ => none

/-- A doubleword store to a register block by hart k; `none` is an access fault. -/
def State.regStore (s : State) (k : Nat) (r : Region) (v : Word) : Option State :=
  match r with
  | .clusterBlock g off => s.clusterStore k g off v
  | .agentBlock a off => s.agentStore a off v
  | .partBlock q off => s.partStore k q off v
  | _ => none

/-- The region is a register block. -/
def Region.isBlock : Region → Bool
  | .clusterBlock _ _ | .agentBlock _ _ | .partBlock _ _ => true
  | _ => false

end Sys2Proof.Machine
end

