-- ==== Sys2Proof/Machine/Save.lean ====
section
/-!
DEFINITION. Machine/Save.lean: fencing a core (R356), the save area (R331), saving a hart (R327), restoring one
(R330), retiring a context (R20, R328).
-/

namespace Sys2Proof.Machine

/-! ### Fencing (R356) -/

/-- A core is fenced: its instructions that have not retired are abandoned, its matrix queue discarded, and its
contexts and its message hart issue no more. -/
def State.fence (s : State) (c : Nat) : State :=
  let s := s.modCore c (fun x => { x with fenced := true, mq := [] })
  (upto 8).foldl (fun s h =>
    let k := ctxKey c h
    match (s.hart k).begun with
    | some r => s.runRec k r
    | none => s.modHart k (fun t => { t with stall := none })) s

/-! ### The save area -/

/-- Size of a save area (R331). -/
def areaSize : Nat := 0x20000

/-- A list of words of w bits as one number, the first lowest. -/
def packBits (w : Nat) : List Nat → Nat
  | [] => 0
  | x :: l => x % 2 ^ w + 2 ^ w * packBits w l

/-- Element i of a number packed at w bits. -/
def unpackAt (w n i : Nat) : Nat := (n >>> (w * i)) % 2 ^ w

/-- The first 4 KiB page of a save area that the engine cannot access: not local tier memory, or host-owned
(R331); for a read also a page with a line in error (R355, R349). -/
def State.areaFault (s : State) (a : Nat) (read : Bool) : Option Nat :=
  let bad (p : Nat) : Bool :=
    s.region none p ≠ .tier || s.hostOwned .tier p ||
      (read && (s.poisoned.any (fun l => l / 64 = localOf p / 4096) ||
        s.badTags.any (fun l => l / 64 = localOf p / 4096)))
  ((upto 32).map (fun i => a + 4096 * i)).find? bad

/-- The pin as the area holds it (R331). -/
def pinWord (p : Option Pin) : Word :=
  match p with
  | none => 0
  | some p => place 64 0 1#1 ||| place 64 1 (BitVec.ofNat 1 p.slot) ||| place 64 16 p.epoch |||
      place 64 32 (BitVec.ofNat 4 (p.cluster % 12))

/-- The contents of the save area of the hart of context k: offset, size in bytes, value (R331). -/
def State.areaFields (s : State) (k : Nat) (why : BitVec 8) : List (Nat × Nat × Nat) :=
  let h := s.hart k
  let c := s.core (coreOf k)
  let z := s.lanes k
  let csr : List Word :=
    [h.fcsr.setWidth 64, h.vec.vstart.setWidth 64, h.vec.vtype, BitVec.ofNat 64 h.vec.vl, h.quant.qaxis, h.vec.vmsp,
     h.strmctl, h.rcdesc, h.scyccmp, h.sc.sstatus, h.sc.sie, s.pending k, h.sc.stvec, h.sc.sscratch, h.sc.sepc,
     h.sc.scause, h.sc.stval, h.sc.satp, h.vec.vmdepth, BitVec.ofNat 64 z, s.mcfg k]
  let whyWord : Word := place 64 0 why ||| place 64 8 (ofBool 1 (h.mode = .s)) ||| place 64 9 h.ctxpart
  let task : Word := place 64 0 h.task.tdepth ||| place 64 8 h.task.tmax ||| place 64 16 h.task.tclass |||
    place 64 24 (ofBool 1 h.task.member) ||| place 64 28 h.task.tgang
  let bar : Word := place 64 0 (ofBool 1 h.bar.bpend) ||| place 64 1 (ofBool 1 h.bar.brel) |||
    place 64 4 h.bar.bn ||| place 64 32 h.bar.bphase
  let gen : Word := match h.pin with
    | some p => p.gen
    | none => 0
  let masks := h.vec.mstack.reverse
  [(0, 8, h.pc.toNat)] ++
  (upto 31).map (fun i => (8 + 8 * i, 8, (h.x[i + 1]?.getD 0).toNat)) ++
  [(0x100, 8, whyWord.toNat)] ++
  ((upto csr.length).zip csr).map (fun e => (0x108 + 8 * e.1, 8, e.2.toNat)) ++
  [(0x1B0, 8, task.toNat), (0x1B8, 8, h.task.tjoin.toNat), (0x1C0, 8, bar.toNat), (0x1C8, 8, h.bar.bval.toNat),
   (0x1D0, 8, (pinWord h.pin).toNat), (0x1D8, 8, gen.toNat), (0x1E0, 8, h.deferred.length), (0x1E8, 8, h.instret.toNat)] ++
  ((upto h.deferred.length).zip h.deferred).flatMap (fun e =>
    [(0x200 + 16 * e.1, 8, e.2.cause.toNat), (0x208 + 16 * e.1, 8, e.2.tval.toNat)]) ++
  (upto 4).flatMap (fun i =>
    let t := h.strm[i]?.getD {}
    [(0x400 + 64 * i, 64, t.pat.toNat), (0x500 + 8 * i, 8, t.pos)]) ++
  ((upto masks.length).zip masks).map (fun e => (0x1000 + 256 * e.1, 256, e.2.toNat)) ++
  [(0x2000, 256, h.vec.vfm.toNat)] ++
  (upto 64).flatMap (fun r =>
    [(0x2100 + 8 * r, 4, (h.quant.prev1[r]?.getD 0).toNat), (0x2104 + 8 * r, 4, (h.quant.prev2[r]?.getD 0).toNat)]) ++
  (upto 64).map (fun r => (0x2300 + r, 1, (h.quant.vscale[r]?.getD 0).toNat)) ++
  (upto 16).map (fun n => (0x4000 + 0x800 * n, 64 * z, (h.vec.v[n]?.getD 0).toNat)) ++
  (if c.hold0 = some (slotOf k) then
    [(0xC000, 0x4000, packBits 32 (c.acc0.toList.map (·.toNat)))] else []) ++
  (if c.hold1 = some (slotOf k) then
    [(0x10000, 0x4000, packBits 32 (c.acc1.toList.map (·.toNat)))] else [])

/-- A save area written by the save engine: bytes no field fills are zero. Lines written whole are in error no longer. -/
def State.writeArea (s : State) (a : Nat) (fs : List (Nat × Nat × Nat)) : State :=
  let m := s.mem.filter (fun c => c.1 < a || a + areaSize ≤ c.1)
  let s := s.stored device a areaSize (fs.foldl (fun m f => Memory.write m (a + f.1) f.2.2 f.2.1) m)
  State.seeKick { s with poisoned := s.poisoned.filter (fun l => l < localOf a / 64 || localOf a / 64 + 2048 ≤ l) }
    [0, 1] a areaSize

/-! ### Saving (R327) -/

/-- The save engine can take the hart's request at this boundary: it is not stalled in a stall of R318, nor in the wait of
a record it has taken (R290). -/
def Hart.savable (h : Hart) : Bool :=
  h.begun.isNone &&
    match h.stall with
    | some .sendQueue | some .window | some .matrixQueue | some .interlock => false
    | _ => true

/-- The context's arrays and pin are given up and its reservation cleared (R132, R180, R327). -/
def State.giveUp (s : State) (k : Nat) : State :=
  (s.freeArrays k).modHart k (fun h =>
    { h with pin := none, resv := none, park := none, stall := none, arrive := none, saveReq := none, stopped := false,
             preempted := false })

/-- What the device keeps of the hart of context k beside its area. -/
def Hart.note (h : Hart) : SavedNote := { strm := h.strm.toList.map (fun t => (t.tr, t.gang)), beganAt := h.beganAt }

/-- Lodestar's own entry for a hart it has pre-empted (R317). -/
def State.preemptedEntry (s : State) (k a : Nat) : SavedHart :=
  let c := s.core (coreOf k)
  { area := a, core := coreInCluster (coreOf k), cls := (s.hart k).task.tclass, lanes := s.lanes k
    part := (s.hart k).ctxpart, arr0 := c.hold0 = some (slotOf k), arr1 := c.hold1 = some (slotOf k) }

/-- What is kept of a hart saved at `a`: its streams' translations and gangs, and, where Lodestar is to resume it, its
entry. -/
def State.keepNote (s : State) (k a : Nat) : State :=
  let h := s.hart k
  let e := s.preemptedEntry k a
  let s := { s with savedNotes := put s.savedNotes a h.note }
  s.modCluster (clusterOf k) (fun c => { c with
    preempted := c.preempted.filter (·.area ≠ a) ++ (if h.preempted then [e] else []) })

/-- Nothing any longer rests on the area at `a` (R330): its hart is in a context again. -/
def State.areaDone (s : State) (a : Word) : State :=
  let forget (e : Nat × Hart) : Nat × Hart := if e.2.savedAt = some a then (e.1, { e.2 with savedAt := none }) else e
  let resumed (e : Nat × Cluster) : Nat × Cluster :=
    (e.1, { e.2 with preempted := e.2.preempted.filter (·.area ≠ a.toNat) })
  { s with
    savedNotes := del s.savedNotes a.toNat, harts := s.harts.map forget, clusters := s.clusters.map resumed }

/-- No gang of cluster g keeps the area of a saved member at `a` any longer. -/
def State.notAway (s : State) (g a : Nat) : State :=
  s.modCluster g (fun c => { c with gangs := c.gangs.map (fun t => { t with away := t.away.filter (· ≠ a) }) })

/-- A member saved with a pending arrival is handed its phase's release in its area (R287). -/
def State.goAway (s : State) (k a : Nat) : State :=
  let s := s.notAway (clusterOf k) a
  let b := (s.hart k).bar
  if b.bpend && !b.brel then
    s.modCluster (clusterOf k) (fun c =>
      let t := c.gang b.bn.toNat
      c.setGang b.bn.toNat { t with away := t.away ++ [a] })
  else s

/-- The radiance unit of cluster g counts the pin a save area at `a` holds, if it is of the current epoch (R180, R182). -/
def State.pinAway (s : State) (g a : Nat) (p : Option Pin) : State :=
  s.modCluster g (fun c =>
    let l := del c.rc.away a
    { c with rc := { c.rc with away := match p with
      | some p => if p.epoch = c.rc.epoch then put l a p.slot else l
      | none => l } })

/-- The save engine writes the area of context k and frees the context (R327), or stops at a failing write (R331).
The event's kind says whether a service call ended so. -/
def State.saveHart (s : State) (k : Nat) (why : BitVec 8) : State :=
  let a := (s.hart k).ctxarea
  match s.areaFault a.toNat false with
  | some f => ((s.modHart k (fun h => { h with saveReq := none })).ctxEvent k 8 0 (BitVec.ofNat 64 f)).fence (coreOf k)
  | none =>
    let s := ((s.writeArea a.toNat (s.areaFields k why)).goAway k a.toNat).pinAway (clusterOf k) a.toNat (s.hart k).pin
    let s := (s.keepNote k a.toNat).giveUp k
    let s := s.modHart k (fun h => { h with savedAt := some a, deferred := [], call := if why = 0x09 then some a else none })
    s.ctxEvent k (if why = 0x09 then 7 else 2) 0 a

/-! ### Retiring and reassigning (R20, R31) -/

/-- The deferred exceptions a context still holds go to Lodestar; a source keeps its resource until its event enters the
queue (R234, R267, R329). -/
def State.forwardAll (s : State) (k : Nat) : State :=
  let h := s.hart k
  let s := h.deferred.foldl (fun s d => s.forward k d.cause d.tval) s
  let s := h.waiting.foldl (fun s w => s.forwardKept k w.d w.src) s
  s.modHart k (fun h => { h with deferred := [], waiting := [] })

/-- The state R20 gives a context; what belongs to the context and not to the hart stays. -/
def Hart.zeroed (h : Hart) : Hart :=
  { Hart.zero with
    hgen := h.hgen, ctxState := h.ctxState, ctxarea := h.ctxarea, ctxpart := h.ctxpart, savedAt := h.savedAt,
    sendQ := h.sendQ, seqs := h.seqs }

/-- The generation of context k advances; every sequence counter restarts (R31, R263). -/
def State.advanceGen (s : State) (k : Nat) : State :=
  (s.forwardAll k).modHart k (fun h => { h.zeroed with hgen := h.hgen + 1, seqs := [], savedAt := none })

/-- A context may be retired or reassigned: its send queue is empty and no message addressed to it is running
(R263, R266). -/
def State.maySwitch (s : State) (k : Nat) : Bool :=
  (s.hart k).sendQ.isEmpty &&
    (match (s.core (coreOf k)).running with
      | some r => !(r.msg.tohart && hartOfHloc r.msg.dst = k)
      | none => true)

/-- Retirement (R20, R283): the gang is left, arrays and pin are released, the generation advances. -/
def State.retireCtx (s : State) (k : Nat) : State :=
  ((((s.leaveGang k).freeArrays k).advanceGen k))

/-! ### Restoring (R330) -/

/-- A doubleword of the save area at `a`. -/
def State.areaWord (s : State) (a off : Nat) : Word := BitVec.ofNat 64 (Memory.read s.mem (a + off) 8)

/-- The hart a save area holds, loaded over the context's own fields (R330 step 3). Values a register cannot hold
are made legal as a write of that register makes them. A stream has the translation and the gang of its `strm.set` (R203,
R339), or, in an area no save has filled, those of the hart. -/
def State.areaHart (s : State) (k a : Nat) (h : Hart) : Hart :=
  let note := look s.savedNotes a {}
  let w (off : Nat) : Word := s.areaWord a off
  let z := s.lanes k
  let vt := legalVtype (w 0x118)
  let vmax := if z = 0 then 0 else 512 * z / (8 * 2 ^ (bits vt 0 3).toNat)
  let why := w 0x100
  let task := w 0x1B0
  let bar := w 0x1C0
  let pin := w 0x1D0
  let depth := w 0x198
  let nmask := min (bits depth 0 5).toNat 16
  let ndef := min (bits (w 0x1E0) 0 6).toNat 32
  let tr : TrCtx := { part := (bits why 9 3).toNat, atp := legalAtp (w 0x190), mode := if bit why 8 then .s else .u,
                      sum := bit (w 0x150) 18 }
  { h with
    x := Vector.ofFn (fun i : Fin 32 => if i.val = 0 then 0 else w (8 * i.val))
    pc := w 0
    mode := if bit why 8 then .s else .u
    vec := {
      v := Vector.ofFn (fun i : Fin 16 => BitVec.ofNat 16384 (Memory.read s.mem (a + 0x4000 + 0x800 * i.val) (64 * z)))
      vtype := vt
      vl := min (w 0x120).toNat vmax
      vstart := bits (w 0x110) 0 11
      mstack := ((upto nmask).map (fun j => BitVec.ofNat 2048 (Memory.read s.mem (a + 0x1000 + 256 * j) 256))).reverse
      spilled := (bits depth 16 16).toNat
      vmsp := w 0x130
      vfm := BitVec.ofNat 2048 (Memory.read s.mem (a + 0x2000) 256) }
    fcsr := legalFcsr (w 0x108)
    quant := {
      qaxis := legalQaxis (w 0x128)
      prev1 := Vector.ofFn (fun r : Fin 64 => BitVec.ofNat 32 (Memory.read s.mem (a + 0x2100 + 8 * r.val) 4))
      prev2 := Vector.ofFn (fun r : Fin 64 => BitVec.ofNat 32 (Memory.read s.mem (a + 0x2104 + 8 * r.val) 4))
      vscale := Vector.ofFn (fun r : Fin 64 => BitVec.ofNat 8 (Memory.read s.mem (a + 0x2300 + r.val) 1)) }
    strmctl := strmctlLoad (w 0x138)
    strm := Vector.ofFn (fun i : Fin 4 =>
      let own := (tr, if bit task 24 then some (clusterOf k, bits task 28 4) else none)
      let kept := note.strm[i.val]?.getD own
      { pat := BitVec.ofNat 512 (Memory.read s.mem (a + 0x400 + 64 * i.val) 64)
        pos := (w (0x500 + 8 * i.val)).toNat, tr := kept.1, gang := kept.2, strip := [] })
    mvl := bits (w 0x1A8) 0 2
    rcdesc := w 0x140 &&& ~~~0x3F
    scyccmp := w 0x148
    instret := w 0x1E8
    pin := if bit pin 0 then
        some { epoch := bits pin 16 16, slot := (bits pin 1 1).toNat, gen := w 0x1D8, cluster := clusterOf k }
      else none
    sc := {
      sstatus := w 0x150 &&& sstatusMask, sie := w 0x158 &&& 0xD, notify := bit (w 0x160) 0
      stvec := w 0x168 &&& ~~~3, sscratch := w 0x170, sepc := w 0x178, scause := legalCause (w 0x180), stval := w 0x188
      satp := legalAtp (w 0x190) }
    deferred := (upto ndef).map (fun j => ⟨bits (w (0x200 + 16 * j)) 0 8, w (0x208 + 16 * j)⟩)
    task := {
      tdepth := bits task 0 8, tmax := bits task 8 8, tclass := bits task 16 3, tjoin := w 0x1B8
      tgang := bits task 28 4, member := bit task 24 }
    bar := { bpend := bit bar 0, brel := bit bar 1, bn := bits bar 4 4, bphase := bits bar 32 32, bval := w 0x1C8 }
    beganAt := note.beganAt
    resv := none, park := none, stall := none, saveReq := none, stopped := false, arrive := none, begun := none
    preempted := false }

/-- The arrays of the saved grant, given back to context k with their contents. -/
def State.regrant (s : State) (k a : Nat) : State :=
  let g := s.areaWord a 0x1A8
  let arr (off : Nat) : Vector W32 4096 :=
    let n := Memory.read s.mem (a + off) 0x4000
    Vector.ofFn (fun i : Fin 4096 => BitVec.ofNat 32 (unpackAt 32 n i.val))
  s.modCore (coreOf k) (fun c =>
    let c := if bit g 2 then { c with hold0 := some (slotOf k), acc0 := arr 0xC000 } else c
    if bit g 3 then { c with hold1 := some (slotOf k), acc1 := arr 0x10000 } else c)

/-- The checks of R330 steps 1 and 2: the code of the first that fails. -/
def State.restoreRefusal (s : State) (k : Nat) : Option (BitVec 8) :=
  let h := s.hart k
  let a := h.ctxarea.toNat
  let g := s.areaWord a 0x1A8
  let c := s.core (coreOf k)
  let pin := s.areaWord a 0x1D0
  if (s.areaFault a true).isSome then some 3
  else if s.areaWord a 0x1A0 ≠ BitVec.ofNat 64 (s.lanes k) then some 1
  else if (bit g 2 && c.hold0.isSome) || (bit g 3 && c.hold1.isSome) then some 2
  else if bits (s.areaWord a 0x100) 9 3 ≠ h.ctxpart then some 4
  else if bit pin 0 && (bits pin 32 4).toNat ≠ clusterOf k % 12 then some 5
  else none

/-- The restore fills the context (R330 steps 3 to 5). -/
def State.restoreCtx (s : State) (k : Nat) : State :=
  let h := s.hart k
  let a := h.ctxarea
  let same := h.savedAt = some a
  let s := if same then s else s.advanceGen k
  let s := s.modHart k (fun h => { s.areaHart k a.toNat h with savedAt := none, call := none })
  let s := s.feedFlags k (bits (s.hart k).fcsr 0 5)
  let s := ((s.regrant k a.toNat).notAway (clusterOf k) a.toNat).pinAway (clusterOf k) a.toNat none
  ((s.areaDone a).youngest k).ctxEvent k 3 0 a

end Sys2Proof.Machine
end

