-- ==== Sys2Proof/Machine/Boundary.lean ====
section
/-!
DEFINITION. Machine/Boundary.lean: what a hart takes at an instruction boundary (R324 to R327), the save engine and the
context commands of Lodestar (R327 to R331), and the exceptions of fetching and decoding (R40, R323).
-/

namespace Sys2Proof.Machine

/-! ### What is due at a boundary (R326) -/

/-- A parked `wfi` retires before the interrupt that wakes it is taken (R106); a write of `vlp` that has issued is
not interrupted (R27, R91). -/
def Hart.interruptible (h : Hart) : Bool := h.park ≠ some .wfi && h.stall ≠ some .drain

/-- The kinds of boundary event. -/
inductive Due where
  | save | deferred | interrupt
deriving DecidableEq, Repr

/-- A save or retirement of the hart can be taken. -/
def Hart.saveDue (h : Hart) : Bool := h.saveReq.isSome && !h.stopped && h.savable

/-- What a hart takes at its boundary, if anything, in the order of R326. A hart that has taken a record is at none until it
runs it (R290). -/
def State.due (s : State) (k : Nat) : Option Due :=
  let h := s.hart k
  if h.begun.isSome then none
  else if isCtx k && h.saveDue then some .save
  else if isCtx k && !h.deferred.isEmpty && !bit h.sc.sstatus 9 then some .deferred
  else if (s.nextInterrupt k).isSome && h.interruptible then some .interrupt
  else none

/-- PREEMPTION_REQUEST (R326, R327): the hart stops where it is; a fenced core issues nothing, and its harts are at a
boundary. -/
def execPreemptionRequest (hart : Nat) (s : State) : Res :=
  if isCtx hart && (s.hart hart).saveDue && (s.runs hart || (s.core (coreOf hart)).fenced) then
    .next (s.modHart hart (fun h => { h with stopped := true, stall := none }))
  else .next s

/-- DEFERRED_EXCEPTION (R325): the oldest entry of the deferred queue is taken. -/
def execDeferredException (hart : Nat) (s : State) : Res :=
  if s.runs hart && s.due hart = some .deferred then
    match s.takeDeferred hart with
    | some (d, s) => .next (s.modHart hart (fun h => h.enterTrap false false d.cause d.tval h.pc))
    | none => .next s
  else .next s

/-- INTERRUPT (R324). -/
def execInterrupt (hart : Nat) (s : State) : Res :=
  if s.runs hart && s.due hart = some .interrupt then
    match s.nextInterrupt hart with
    | some c => .next (s.takeInterrupt hart c)
    | none => .next s
  else .next s

/-- CYCLE_COMPARE (R324): time passes until `cycle` reaches `scyccmp`, and the interrupt is pending. -/
def execCycleCompare (hart : Nat) (s : State) : Res :=
  let h := s.hart hart
  if isMsg hart || h.scyccmp = 0 then .next s
  else if isCtx hart then
    .next (if (s.core (coreOf hart)).cycle.toNat < h.scyccmp.toNat
      then s.modCore (coreOf hart) (fun c => { c with cycle := h.scyccmp }) else s)
  else .next (if h.cycle.toNat < h.scyccmp.toNat then s.setHart hart { h with cycle := h.scyccmp } else s)

/-! ### The commands of Lodestar (R328) -/

/-- CTX_SAVE. -/
def execCtxSave (hart : Nat) (s : State) : Res := .next (if isCtx hart then s.modHart hart Hart.cmdSave else s)
/-- The pre-empted hart that Lodestar resumes next in context k (R317): of those saved on its core whose lanes the context
has and whose arrays are free, one of the highest class, and of those the one saved first. -/
def State.resumes (s : State) (k : Nat) : Option SavedHart :=
  let c := s.core (coreOf k)
  let fits (e : SavedHart) : Bool :=
    e.core = coreInCluster (coreOf k) && e.lanes = s.lanes k && !(e.arr0 && c.hold0.isSome) && !(e.arr1 && c.hold1.isSome)
  ((s.cluster (clusterOf k)).preempted.filter fits).foldl (fun b e =>
    match b with
    | none => some e
    | some f => if f.cls.toNat < e.cls.toNat then some e else some f) none

/-- CTX_RESTORE: of the area `ctxarea` names, or, where Lodestar resumes a hart it has pre-empted, of that hart's (R317). -/
def execCtxRestore (cmd : RestoreCmd) (s : State) : Res :=
  let hart := cmd.hart
  if !isCtx hart || (s.hart hart).ctxState ≠ 0 then .next s
  else if cmd.resume then
    match s.resumes hart with
    | some e => .next (s.modHart hart (fun h =>
        { h with ctxarea := BitVec.ofNat 64 e.area, ctxpart := e.part }.cmdRestore))
    | none => .next s
  else .next (s.modHart hart Hart.cmdRestore)
/-- CTX_RETIRE. -/
def execCtxRetire (hart : Nat) (s : State) : Res := .next (if isCtx hart then s.modHart hart Hart.cmdRetire else s)

/-! ### Their completion (R327, R330) -/

/-- SAVE_COMPLETE (R327): the matrix queue holds nothing of the stopped hart, and its area is written. -/
def execSaveComplete (hart : Nat) (s : State) : Res :=
  let h := s.hart hart
  match h.saveReq with
  | some (.save why) =>
    if isCtx hart && h.stopped && !s.hasQueued hart then .next (s.untilWindowRoom (s.saveHart hart why)) else .next s
  | _ => .next s

/-- An event of one of these kinds about context k waits for room in the queue. -/
def State.eventWaits (s : State) (k : Nat) (kinds : List (BitVec 4)) : Bool :=
  let g := clusterOf k
  (s.cluster g).evWait.any (fun e => kinds.contains e.kind && e.ctx g = k)

/-- RESTORE_COMPLETE (R330): the restore is refused, or fills the context; one that reassigns it waits until it may be
(R263, R266). -/
def execRestoreComplete (hart : Nat) (s : State) : Res :=
  let h := s.hart hart
  if !isCtx hart || h.ctxState ≠ 3 || s.eventWaits hart [3, 4] || (s.core (coreOf hart)).absent then .next s
  else
    match s.restoreRefusal hart with
    | some c => .next (s.ctxEvent hart 4 c h.ctxarea)
    | none =>
      if h.savedAt = some h.ctxarea || s.maySwitch hart then .next (s.restoreCtx hart) else .next s

/-- RETIRE_COMPLETE (R328, R20): once nothing of the stopped hart is queued and its sends have ended. -/
def execRetireComplete (hart : Nat) (s : State) : Res :=
  let h := s.hart hart
  if isCtx hart && h.stopped && h.saveReq = some .retire && !s.hasQueued hart && s.maySwitch hart then
    .next ((s.retireCtx hart).ctxEvent hart 9 0 0)
  else .next s

/-- LSEVT0_POP (R329): Lodestar takes the oldest event. -/
def execLsevt0Pop (cl : Nat) (s : State) : Res := .next (s.popEvent cl).2

/-! ### Exceptions of fetching and decoding -/

/-- ILLEGAL_INSTRUCTION (R40 to R58, R323): `stval` holds the fetched bits. -/
def execIllegalInstruction (w : BitVec 32) (s : State) : Res := raise 0x02 (w.setWidth 64) s

/-- INSTRUCTION_FETCH_FAULT (R189, R323, R336): `stval` holds the fetch address. -/
def execInstructionFetchFault (cause : BitVec 8) (addr : Nat) (s : State) : Res :=
  raise cause (BitVec.ofNat 64 addr) s

end Sys2Proof.Machine
end

