-- ==== Sys2Proof/Machine/Num.lean ====
section
/-!
DEFINITION. Machine/Num.lean: number formats (R71 to R76), rounding (R80 to R82), conversions (R83), the exact
operations of R84 to R86, R118, and classes and comparisons (R85, R118). A value is exact, a rational or a special;
each operation is exact and is rounded once.
-/

namespace Sys2Proof.Machine

/-! ### Values and flags -/

/-- A value: a NaN, signalling or not, a signed infinity, or a sign with an exact magnitude (zero has a sign). -/
inductive FVal where
  | nan (sig : Bool)
  | inf (neg : Bool)
  | fin (neg : Bool) (mag : Rat)
deriving DecidableEq, Repr

/-- The flags of `fcsr` (R32). -/
abbrev Flags := BitVec 5
def flagNX : Flags := 1
def flagUF : Flags := 2
def flagOF : Flags := 4
def flagDZ : Flags := 8
def flagNV : Flags := 16
/-- `nv` if a condition holds. -/
def nvIf (b : Bool) : Flags := if b then flagNV else 0

/-- The value of an exact rational; zero is +0. -/
def FVal.ofRat (x : Rat) : FVal := .fin (x < 0) (if x < 0 then -x else x)

/-- The rational of a finite value. -/
def FVal.toRat : FVal → Rat
  | .fin n m => if n then -m else m
  | _ => 0

def FVal.isNan : FVal → Bool
  | .nan _ => true
  | _ => false
def FVal.isSig : FVal → Bool
  | .nan s => s
  | _ => false
def FVal.isInf : FVal → Bool
  | .inf _ => true
  | _ => false
def FVal.isZero : FVal → Bool
  | .fin _ m => m = 0
  | _ => false
def FVal.sign : FVal → Bool
  | .nan _ => false
  | .inf n => n
  | .fin n _ => n
def FVal.negate : FVal → FVal
  | .nan s => .nan s
  | .inf n => .inf (!n)
  | .fin n m => .fin (!n) m

/-- 2 to an integer power. -/
def pow2 (e : Int) : Rat := if e < 0 then 1 / (2 ^ e.natAbs : Nat) else ((2 ^ e.natAbs : Nat) : Rat)

/-! ### Formats (R24, R71) -/

/-- Exponent and fraction widths of an IEEE format. -/
structure Ieee where
  eb : Nat
  fb : Nat
deriving DecidableEq, Repr

def fp64 : Ieee := ⟨11, 52⟩
def fp32 : Ieee := ⟨8, 23⟩
def bf16 : Ieee := ⟨8, 7⟩
def fp16 : Ieee := ⟨5, 10⟩

def Ieee.width (f : Ieee) : Nat := 1 + f.eb + f.fb
def Ieee.bias (f : Ieee) : Nat := 2 ^ (f.eb - 1) - 1
/-- The exponents of the smallest and the largest normal numbers. -/
def Ieee.emin (f : Ieee) : Int := 1 - (f.bias : Int)
def Ieee.emax (f : Ieee) : Int := f.bias
/-- The patterns of the largest finite magnitude, of infinity and of the canonical NaN (R71). -/
def Ieee.infBits (f : Ieee) : Nat := (2 ^ f.eb - 1) * 2 ^ f.fb
def Ieee.maxBits (f : Ieee) : Nat := f.infBits - 1
def Ieee.nanBits (f : Ieee) : Nat := f.infBits + 2 ^ (f.fb - 1)

/-- A format code of `vtype` (R24). -/
inductive Fmt where
  | int (w : Nat) | ieee (f : Ieee) | t8 | t6 | fp4
deriving DecidableEq, Repr

/-- The format of a code at an element width in bits. -/
def fmtOf (code : BitVec 3) (w : Nat) : Fmt :=
  match code.toNat with
  | 1 => .ieee fp64
  | 2 => .ieee fp32
  | 3 => .ieee bf16
  | 4 => .ieee fp16
  | 5 => .t8
  | 6 => .t6
  | 7 => .fp4
  | _ => .int w

/-- The width in bits of a format as a bank holds it (R152). -/
def Fmt.bankWidth : Fmt → Nat
  | .int w => w
  | .ieee f => f.width
  | .t8 => 8
  | .t6 => 6
  | .fp4 => 4

/-! ### Decoding -/

/-- The exact value of an IEEE pattern. -/
def Ieee.decode (f : Ieee) (x : Nat) : FVal :=
  let s := x / 2 ^ (f.eb + f.fb) % 2 = 1
  let e := x / 2 ^ f.fb % 2 ^ f.eb
  let m := x % 2 ^ f.fb
  if e = 2 ^ f.eb - 1 then (if m = 0 then .inf s else .nan (m < 2 ^ (f.fb - 1)))
  else if e = 0 then .fin s (m * pow2 (f.emin - f.fb))
  else .fin s ((2 ^ f.fb + m : Nat) * pow2 (e - f.bias - f.fb))

/-- The pattern is subnormal. -/
def Ieee.subnormal (f : Ieee) (x : Nat) : Bool := x / 2 ^ f.fb % 2 ^ f.eb = 0 && x % 2 ^ f.fb ≠ 0

/-- The length of the run of bits equal to b in m from bit w − 1 downward (R73). -/
def runLength (m : Nat) (b : Bool) : Nat → Nat
  | 0 => 0
  | w + 1 => if m.testBit w = b then 1 + runLength m b w else 0

/-- The magnitude of a tapered code (R73) with w magnitude bits. -/
def taperedMag (w m : Nat) : Rat :=
  let b := m.testBit (w - 1)
  let l := runLength m b w
  let k : Int := if b then (l : Int) - 1 else -l
  let left := w - l - 1
  let e : Int := if 1 ≤ left && m.testBit (left - 1) then 1 else 0
  let fb := left - 1
  pow2 (2 * k + e) * (1 + ((m % 2 ^ fb : Nat) : Rat) / ((2 ^ fb : Nat) : Rat))

/-- `decode_tapered` of R73, for codes of w + 1 bits. -/
def taperedDecode (w c : Nat) : FVal :=
  let m := c % 2 ^ w
  let s := c / 2 ^ w % 2 = 1
  if m = 0 then (if s then .nan false else .fin false 0) else .fin s (taperedMag w m)

/-- The magnitude of an FP4 code (R75). -/
def fp4Mag (m : Nat) : Rat :=
  match m % 8 with
  | 0 => 0
  | 1 => 1 / 2
  | 2 => 1
  | 3 => 3 / 2
  | 4 => 2
  | 5 => 3
  | 6 => 4
  | _ => 6

/-- An element's exact value (R71 to R75, R79); `fz` flushes a subnormal IEEE input to zero (R82). -/
def Fmt.decode (f : Fmt) (fz : Bool) (x : Word) : FVal :=
  match f with
  | .int w => .ofRat (sg x w : Int)
  | .ieee f =>
    let n := ug x f.width
    if fz && f.subnormal n then .fin (f.decode n).sign 0 else f.decode n
  | .t8 => taperedDecode 7 (ug x 8)
  | .t6 => taperedDecode 5 (ug x 6)
  | .fp4 => .fin (bit x 3) (fp4Mag (ug x 3))

/-! ### Rounding (R80 to R82) -/

/-- floor(log2 x) of a positive rational. -/
def log2Floor (x : Rat) : Int :=
  let e : Int := (x.num.natAbs.log2 : Int) - (x.den.log2 : Int)
  if x < pow2 e then e - 1 else e

/-- A nonnegative rational rounded to an integer in a rounding mode, for a value of this sign (R80). -/
def roundNat (frm : BitVec 3) (neg : Bool) (x : Rat) : Nat :=
  let i := x.floor.toNat
  let r := x - i
  if r = 0 then i
  else
    let up : Bool := match frm.toNat with
      | 0 => if r = 1 / 2 then i % 2 = 1 else 1 / 2 < r
      | 1 => false
      | 2 => neg
      | 3 => !neg
      | _ => decide (1 / 2 ≤ r)
    if up then i + 1 else i

/-- A value rounded once into an IEEE format: its pattern and flags (R71, R72, R80, R82). -/
def Ieee.round (f : Ieee) (frm : BitVec 3) (fz : Bool) (v : FVal) : Nat × Flags :=
  let sgn (n : Bool) : Nat := if n then 2 ^ (f.eb + f.fb) else 0
  match v with
  | .nan s => (f.nanBits, nvIf s)
  | .inf n => (sgn n + f.infBits, 0)
  | .fin n m =>
    if m = 0 then (sgn n, 0)
    else
      let e := log2Floor m
      let at_ (q : Int) : Nat := roundNat frm n (m / pow2 q)
      -- the result with an unbounded exponent decides tininess and overflow
      let tiny := e < f.emin && !(e = f.emin - 1 && at_ (e - f.fb) = 2 ^ (f.fb + 1))
      if fz && tiny then (sgn n, flagUF ||| flagNX)
      else
        let q := (if e < f.emin then f.emin else e) - f.fb
        let r := at_ q
        let inexact := (r : Rat) * pow2 q ≠ m
        let bits := ((q - (f.emin - f.fb)).toNat) * 2 ^ f.fb + r
        if f.infBits ≤ bits then
          let toInf : Bool := match frm.toNat with
            | 1 => false
            | 2 => n
            | 3 => !n
            | _ => true
          (sgn n + (if toInf then f.infBits else f.maxBits), flagOF ||| flagNX)
        else
          (sgn n + bits, (if inexact then flagNX else 0) ||| (if tiny && inexact then flagUF else 0))

/-- The code whose magnitude is nearest to x among `mag 0 < … < mag top`, on a tie the even one, and whether it is
exact; x does not exceed `mag top` (R81). -/
def nearestCode (mag : Nat → Rat) (top : Nat) (x : Rat) : Nat × Bool :=
  let lo := ((upto (top + 1)).filter (fun c => mag c ≤ x)).getLast?.getD 0
  if mag lo = x then (lo, true)
  else
    let mid := (mag lo + mag (lo + 1)) / 2
    (if x < mid || (x = mid && lo % 2 = 0) then lo else lo + 1, false)

/-- A value rounded into a narrow format of `w` magnitude bits (R81); `nz` if it has a negative zero (FP4). -/
def narrowRound (mag : Nat → Rat) (w : Nat) (nz : Bool) (v : FVal) : Nat × Flags :=
  let top := 2 ^ w - 1
  let sgn (n : Bool) : Nat := if n then 2 ^ w else 0
  match v with
  | .nan s => if nz then (0, flagNV) else (2 ^ w, nvIf s)
  | .inf n => (sgn n + top, flagNV)
  | .fin n m =>
    if mag top < m then (sgn n + top, flagOF ||| flagNX)
    else
      let (c, exact) := nearestCode mag top m
      let s := if c = 0 && !nz then 0 else sgn n
      (s + c, if exact then 0 else if c = 0 then flagNX ||| flagUF else flagNX)

/-- The magnitude of a tapered code, zero included. -/
def taperedVal (w c : Nat) : Rat := if c = 0 then 0 else taperedMag w c

/-- A value rounded to a signed integer of w bits (R83). -/
def intRound (w : Nat) (frm : BitVec 3) (v : FVal) : Int × Flags :=
  let hi : Int := 2 ^ (w - 1) - 1
  let lo : Int := -2 ^ (w - 1)
  match v with
  | .nan _ => (hi, flagNV)
  | .inf n => (if n then lo else hi, flagNV)
  | .fin n m =>
    let r := roundNat frm n m
    let i : Int := if n then -(r : Int) else r
    if i < lo then (lo, flagNV) else if hi < i then (hi, flagNV)
    else (i, if (r : Rat) = m then 0 else flagNX)

/-- A value rounded once into a format: the element's bits, and the flags. -/
def Fmt.round (f : Fmt) (frm : BitVec 3) (fz : Bool) (v : FVal) : Word × Flags :=
  let word (r : Nat × Flags) : Word × Flags := (BitVec.ofNat 64 r.1, r.2)
  match f with
  | .int w => (wordOfInt (intRound w frm v).1, (intRound w frm v).2)
  | .ieee f => word (f.round frm fz v)
  | .t8 => word (narrowRound (taperedVal 7) 7 false v)
  | .t6 => word (narrowRound (taperedVal 5) 5 false v)
  | .fp4 => word (narrowRound fp4Mag 3 true v)

/-- A conversion of R83: one rounding of the exact source value; between integers, bits alone. -/
def convert (dst src : Fmt) (frm : BitVec 3) (fz : Bool) (x : Word) : Word × Flags :=
  match dst, src with
  | .int _, .int w => (sextFrom x w, 0)
  | _, _ => dst.round frm fz (src.decode fz x)

/-! ### Exact operations -/

/-- The exact product; 0 × ∞ is the invalid NaN, which sets `nv` as a signalling one does (R72). -/
def FVal.mul (a b : FVal) : FVal :=
  match a, b with
  | .nan s, .nan t => .nan (s || t)
  | .nan s, _ => .nan s
  | _, .nan t => .nan t
  | .inf n, .inf k => .inf (n != k)
  | .inf n, .fin k m => if m = 0 then .nan true else .inf (n != k)
  | .fin n m, .inf k => if m = 0 then .nan true else .inf (n != k)
  | .fin n m, .fin k l => .fin (n != k) (m * l)

/-- The exact sum of addends (R72, R86), its zero signed for the rounding mode. -/
def exactSum (frm : BitVec 3) (l : List FVal) : FVal :=
  let pos := l.any (fun v => v = .inf false)
  let neg := l.any (fun v => v = .inf true)
  if l.any FVal.isNan then .nan (l.any FVal.isSig || (pos && neg))
  else if pos && neg then .nan true
  else if pos then .inf false
  else if neg then .inf true
  else
    let x := l.foldl (fun x v => x + v.toRat) (0 : Rat)
    if x ≠ 0 then .ofRat x
    else if l.all FVal.isZero && l.all FVal.sign then .fin true 0
    else if l.all FVal.isZero && l.all (fun v => !v.sign) then .fin false 0
    else .fin (frm = 2) 0

/-- a / b (R118): the exact quotient and the flags it raises before rounding. -/
def FVal.div (a b : FVal) : FVal × Flags :=
  match a, b with
  | .nan s, .nan t => (.nan (s || t), 0)
  | .nan s, _ => (.nan s, 0)
  | _, .nan t => (.nan t, 0)
  | .inf _, .inf _ => (.nan true, 0)
  | .inf n, .fin k _ => (.inf (n != k), 0)
  | .fin n _, .inf k => (.fin (n != k) 0, 0)
  | .fin n m, .fin k l =>
    if l = 0 then (if m = 0 then (.nan true, 0) else (.inf (n != k), flagDZ))
    else (.fin (n != k) (m / l), 0)

/-- a is less than b, both not NaN; −0 equals +0. -/
def FVal.lt (a b : FVal) : Bool :=
  match a, b with
  | .inf n, .inf k => n && !k
  | .inf n, _ => n
  | _, .inf k => !k
  | x, y => x.toRat < y.toRat

/-- a equals b, both not NaN. -/
def FVal.eq (a b : FVal) : Bool :=
  match a, b with
  | .inf n, .inf k => n = k
  | .inf _, _ => false
  | _, .inf _ => false
  | x, y => x.toRat = y.toRat

/-- The order of minimum and maximum (R84): −0 is less than +0. -/
def FVal.below (a b : FVal) : Bool := a.lt b || (a.eq b && a.sign && !b.sign)

/-- minimumNumber and maximumNumber (R84). -/
def FVal.minmax (max : Bool) (a b : FVal) : FVal × Flags :=
  let f := nvIf (a.isSig || b.isSig)
  if a.isNan && b.isNan then (.nan false, f)
  else if a.isNan then (b, f)
  else if b.isNan then (a, f)
  else (if (if max then b.below a else a.below b) then a else b, f)

/-- The four comparisons of R85. -/
inductive FCmp where
  | eq | ne | lt | le
deriving DecidableEq, Repr

def fcompare (c : FCmp) (a b : FVal) : Bool × Flags :=
  let nan := a.isNan || b.isNan
  match c with
  | .eq => (!nan && a.eq b, nvIf (a.isSig || b.isSig))
  | .ne => (nan || !a.eq b, nvIf (a.isSig || b.isSig))
  | .lt => (!nan && a.lt b, nvIf nan)
  | .le => (!nan && (a.lt b || a.eq b), nvIf nan)

/-- `class` of R118, of raw bits. -/
def Ieee.classOf (f : Ieee) (x : Nat) : Nat :=
  match f.decode x with
  | .nan s => if s then 2 ^ 8 else 2 ^ 9
  | .inf n => if n then 2 ^ 0 else 2 ^ 7
  | .fin n m =>
    if m = 0 then (if n then 2 ^ 3 else 2 ^ 4)
    else if f.subnormal x then (if n then 2 ^ 2 else 2 ^ 5)
    else if n then 2 ^ 1 else 2 ^ 6

/-! ### Square roots -/

/-- Newton's descent to floor(√n) from above. -/
def isqrtFrom (n : Nat) : Nat → Nat → Nat
  | 0, x => x
  | k + 1, x =>
    let y := (x + n / x) / 2
    if y < x then isqrtFrom n k y else x

/-- floor(√n). -/
def isqrt (n : Nat) : Nat := if n = 0 then 0 else isqrtFrom n (n.log2 + 2) (2 ^ (n.log2 / 2 + 1))

/-- A rational that rounds as √x does in every format: √x itself where it is a multiple of 2^−700, and otherwise the
middle of the interval between two such multiples that holds it. Every rounding boundary of R80 that a root meets is
such a multiple. -/
def sqrtRat (x : Rat) : Rat :=
  let q := x.num.natAbs * 2 ^ 1400
  let r := isqrt (q / x.den)
  if r * r * x.den = q then (r : Rat) / ((2 ^ 700 : Nat) : Rat)
  else ((2 * r + 1 : Nat) : Rat) / ((2 ^ 701 : Nat) : Rat)

/-- √a (R118). -/
def FVal.sqrt : FVal → FVal
  | .nan s => .nan s
  | .inf n => if n then .nan true else .inf false
  | .fin n m => if m = 0 then .fin n 0 else if n then .nan true else .fin false (sqrtRat m)

/-! ### Grouped sums (R86) -/

/-- A running value and the flags raised so far. -/
abbrev Running := Word × Flags

/-- One group: the present terms added exactly to the running value and rounded once; with none present the value
is unchanged. -/
def groupStep (f : Fmt) (frm : BitVec 3) (fz : Bool) (a : Running) (terms : List FVal) : Running :=
  if terms.isEmpty then a
  else
    let r := f.round frm fz (exactSum frm (f.decode fz a.1 :: terms))
    (r.1, a.2 ||| r.2)

/-- `grouped_sum` over groups already formed. -/
def groupedSum (f : Fmt) (frm : BitVec 3) (fz : Bool) (acc : Word) (groups : List (List FVal)) : Running :=
  groups.foldl (groupStep f frm fz) (acc, 0)

end Sys2Proof.Machine
end

