-- ==== Sys2Proof/Machine/Special.lean ====
section
/-!
DEFINITION. Machine/Special.lean: the special functions of R119 and the roots and powers other rules ask for, as
exact values rounded once. Where the exact value is irrational, a fixed-point enclosure of it at p fraction bits is
narrowed until it lies between two neighbouring multiples of 2^−k, and the middle of that interval stands for it:
every rounding boundary of the formats of R119 near the result is such a multiple, so it rounds, and raises flags, as
the exact value does. That 4,096 bits always suffice is assumption log 13.
-/

namespace Sys2Proof.Machine

/-- The error allowed a fixed-point sum, in units of its last place; every sum below errs by less. -/
def slack : Int := 2 ^ 32

/-- The middle of the interval of length 2^−k that holds a value whose approximation at p fraction bits is `a`, if
the error bound decides which it is. -/
def cell (k p : Nat) (a : Int) : Option Rat :=
  let lo := (a - slack) / (2 ^ (p - k) : Nat)
  let hi := (a + slack) / (2 ^ (p - k) : Nat)
  if lo = hi then some ((2 * lo + 1 : Int) / ((2 ^ (k + 1) : Nat) : Rat)) else none

/-- The first precision that decides. -/
def settle (k : Nat) (f : Nat → Int) : Rat :=
  match [256, 512, 1024, 2048, 4096].findSome? (fun p => cell k p (f p)) with
  | some r => r
  | none => (f 4096 : Rat) / ((2 ^ 4096 : Nat) : Rat)

/-- A rational at p fraction bits. -/
def fixed (p : Nat) (x : Rat) : Int := (x * ((2 ^ p : Nat) : Rat)).floor

/-- arctan(1/n) at p fraction bits, from its series: the i-th of `fuel` terms on, with the power already divided. -/
def atanInv (n : Nat) : Nat → Nat → Int → Int
  | 0, _, _ => 0
  | fuel + 1, i, pw =>
    pw / (2 * i + 1 : Nat) - atanInv n fuel (i + 1) (pw / (n * n : Nat))

/-- π at p fraction bits. -/
def piFixed (p : Nat) : Int :=
  let one : Int := 2 ^ p
  16 * atanInv 5 (p / 4) 0 (one / 5) - 4 * atanInv 239 (p / 4) 0 (one / 239)

/-- The series of atanh(z) for z at p fraction bits, `z2` its square: the terms from the i-th. -/
def atanhSeries (p : Nat) (z2 : Int) : Nat → Nat → Int → Int
  | 0, _, _ => 0
  | fuel + 1, i, pw => pw / (2 * i + 1 : Nat) + atanhSeries p z2 fuel (i + 1) (pw * z2 / (2 ^ p : Nat))

/-- ln x at p fraction bits, for 1 ≤ x < 2: 2 atanh((x − 1)/(x + 1)). -/
def lnFixed (p : Nat) (x : Rat) : Int :=
  let z := fixed p ((x - 1) / (x + 1))
  2 * atanhSeries p (z * z / (2 ^ p : Nat)) (p / 3 + 2) 0 z

/-- ln 2 at p fraction bits: 2 atanh(1/3). -/
def ln2Fixed (p : Nat) : Int :=
  let z := fixed p (1 / 3)
  2 * atanhSeries p (z * z / (2 ^ p : Nat)) (p / 3 + 2) 0 z

/-- The series of e^t for t at p fraction bits: the terms from the i-th, `term` the i-th. -/
def expSeries (p : Nat) (t : Int) : Nat → Nat → Int → Int
  | 0, _, _ => 0
  | fuel + 1, i, term => term + expSeries p t fuel (i + 1) (term * t / ((2 ^ p : Nat) * (i + 1 : Nat) : Int))

/-- 2^f at p fraction bits, for 0 ≤ f < 1. -/
def exp2Fixed (p : Nat) (f : Rat) : Int :=
  expSeries p ((f * (ln2Fixed p : Rat)).floor) (p / 3 + 2) 0 (2 ^ p)

/-- The alternating series of sine (`i` = 1) and cosine (`i` = 0) of x at p fraction bits, `x2` its square. -/
def trigSeries (p : Nat) (x2 : Int) : Nat → Nat → Int → Int
  | 0, _, _ => 0
  | fuel + 1, i, term =>
    term - trigSeries p x2 fuel (i + 2) (term * x2 / ((2 ^ p : Nat) * ((i + 1) * (i + 2) : Nat) : Int))

/-- sin(π·r) at p fraction bits, for 0 ≤ r ≤ 1/2. -/
def sinPiFixed (p : Nat) (r : Rat) : Int :=
  let x := (r * (piFixed p : Rat)).floor
  trigSeries p (x * x / (2 ^ p : Nat)) (p / 4) 1 x

/-! ### The functions -/

/-- 2^a for a finite a: exact for an integer; far beyond every format's range any value of that size rounds alike. -/
def exp2Rat (a : Rat) : Rat :=
  if 1100 ≤ a then pow2 1100
  else if a ≤ -1200 then pow2 (-1200)
  else
    let n := a.floor
    let f := a - n
    if f = 0 then pow2 n else pow2 n * settle 80 (fun p => exp2Fixed p f)

/-- log2 x for x > 0: exact for a power of two. -/
def log2Rat (x : Rat) : Rat :=
  let e := log2Floor x
  let m := x / pow2 e
  if m = 1 then e
  else settle 100 (fun p => (e * (2 ^ p : Nat) : Int) + lnFixed p m * (2 ^ p : Nat) / ln2Fixed p)

/-- sin(π·a) for a rational a whose denominator is a power of two. -/
def sinPiRat (a : Rat) : Rat :=
  let r := a - 2 * (a / 2).floor
  -- r in [0, 2)
  let neg : Bool := 1 < r
  let r := if neg then r - 1 else r
  let r := if 1 / 2 < r then 1 - r else r
  let v := if r = 0 then 0 else if r = 1 / 2 then 1 else settle 200 (fun p => sinPiFixed p r)
  if neg then -v else v

/-- A special function of R119. -/
inductive SfOp where
  | rsqrt | rcp | exp2 | log2 | sin | cos
deriving DecidableEq, Repr

/-- Its exact value and the flags raised before rounding (R119). -/
def SfOp.value (op : SfOp) (a : FVal) : FVal × Flags :=
  match a with
  | .nan s => (.nan s, 0)
  | .inf n =>
    match op with
    | .rsqrt => if n then (.nan true, 0) else (.fin false 0, 0)
    | .rcp => (.fin n 0, 0)
    | .exp2 => if n then (.fin false 0, 0) else (.inf false, 0)
    | .log2 => if n then (.nan true, 0) else (.inf false, 0)
    | .sin | .cos => (.nan true, 0)
  | .fin n m =>
    let x : Rat := if n then -m else m
    match op with
    | .rsqrt =>
      if m = 0 then (.inf n, flagDZ) else if n then (.nan true, 0) else (.fin false (sqrtRat (1 / m)), 0)
    | .rcp => if m = 0 then (.inf n, flagDZ) else (.fin n (1 / m), 0)
    | .exp2 => (.fin false (exp2Rat x), 0)
    | .log2 =>
      if m = 0 then (.inf true, flagDZ) else if n then (.nan true, 0) else (.ofRat (log2Rat m), 0)
    | .sin => if x.den = 1 then (.fin n 0, 0) else (.ofRat (sinPiRat x), 0)
    | .cos =>
      let v := sinPiRat (x + 1 / 2)
      (if v = 0 then .fin false 0 else .ofRat v, 0)

end Sys2Proof.Machine
end

