-- ==== Sys2Proof/Machine/FwRegs.lean ====
section
/-!
DEFINITION. Machine/FwRegs.lean: the registers of an Orrery complex (R303), its slots and its QCB cache (R304,
R306), and the dispatch of a record to an inbox (R310).
-/

namespace Sys2Proof.Machine

/-! ### The QCB cache (R306) -/

/-- Number of QCBs of the Almanac (R304); 0 without one. -/
def Complex.qcbs (x : Complex) : Nat :=
  let lg := (bits x.fwalm 0 5).toNat
  if lg = 0 then 0 else 2 ^ lg

/-- The domain address of QCB i. -/
def State.qcbAddr (s : State) (d i : Nat) : Word :=
  BitVec.ofNat 64 (s.pkg.toNat * 2 ^ 48) + ((s.complex d).fwalm &&& 0xFFFFF8000000) + BitVec.ofNat 64 (128 * i)

/-- Writes the 16 doublewords of a line back to the Almanac, the lowest first; the first that fails gives its
fault. -/
def State.storeLine (s : State) (w : Who) (a : Word) : List Word → Except Trap State
  | [] => .ok s
  | v :: vs =>
    match s.check w .store .vector 8 a with
    | .error t => .error t
    | .ok pa => (s.writePa w pa v.toNat 8).storeLine w (a + 8) vs

/-- Reads doublewords from the Almanac, the lowest first; the first that fails gives its fault. -/
def State.loadLine (s : State) (w : Who) (a : Word) : Nat → Except Trap (List Word)
  | 0 => .ok []
  | n + 1 =>
    match s.check w .load .vector 8 a with
    | .error t => .error t
    | .ok pa =>
      match s.loadLine w (a + 8) n with
      | .error f => .error f
      | .ok l => .ok (BitVec.ofNat 64 (s.readPa w.core pa 8) :: l)

/-- The victim of a set: its least recently used line, when all four ways are taken (R306). -/
def victimOf (cache : List QcbLine) (id : Nat) : Option QcbLine :=
  let set := cache.filter (fun l => l.id % 256 = id % 256)
  if set.length < 4 then none else set.getLast?

/-- The line of QCB id brought to the front of the cache of its complex by Orrery core k (R306); a failing write-back or
fill gives its fault, and the cache is unchanged. -/
def State.qcbLine (s : State) (k id : Nat) : Except Trap (QcbLine × State) :=
  let d := iodOf k
  let w := s.whoHart k
  let x := s.complex d
  match x.cache.find? (fun l => l.id = id) with
  | some l => .ok (l, s.setComplex d { x with cache := l :: x.cache.filter (fun m => m.id ≠ id) })
  | none =>
    let back : Except Trap State :=
      match victimOf x.cache id with
      | some v => if v.dirty then s.storeLine w (s.qcbAddr d v.id) v.data.toList else .ok s
      | none => .ok s
    match back with
    | .error f => .error f
    | .ok s =>
      match s.loadLine w (s.qcbAddr d id) 16 with
      | .error f => .error f
      | .ok l =>
        let line : QcbLine := { id := id, data := Vector.ofFn (fun i : Fin 16 => l.getD i.val 0), dirty := false }
        let rest := match victimOf x.cache id with
          | some v => x.cache.filter (fun m => m.id ≠ v.id)
          | none => x.cache
        .ok (line, s.modComplex d (fun x => { x with cache := line :: rest }))

/-- Writes back every dirty line of complex d (R304); on a failure the lines written back are clean. -/
def State.writeBackAll (s : State) (d : Nat) : List QcbLine → Option Trap × State
  | [] => (none, s)
  | l :: ls =>
    if l.dirty then
      match s.storeLine s.who (s.qcbAddr d l.id) l.data.toList with
      | .error f => (some f, s)
      | .ok s =>
        (s.modComplex d (fun x => { x with cache := x.cache.map (fun m =>
          if m.id = l.id then { m with dirty := false } else m) })).writeBackAll d ls
    else s.writeBackAll d ls

/-- A write of `fwalm` (R304): the fault of a write-back, or the new placement with an empty cache. -/
def State.writeFwalm (s : State) (d : Nat) (v : Word) : Option Trap × State :=
  match s.writeBackAll d (s.complex d).cache with
  | (some f, s) => (some f, s)
  | (none, s) => (none, s.modComplex d (fun x => { x with fwalm := v, cache := [] }))

/-! ### Slots (R303, R306) -/

def Complex.slot (x : Complex) (i : Nat) : FwSlot := x.slots[i]?.getD {}
def Complex.setSlot (x : Complex) (i : Nat) (t : FwSlot) : Complex :=
  { x with slots := x.slots.setIfInBounds i t }

/-- The `kick` word of a queue page (R269). -/
def State.kickWord (s : State) (page : Word) : Word :=
  BitVec.ofNat 64 (Memory.read s.mem (s.pkg.toNat * 2 ^ 48 + page.toNat) 8)

/-- `fwsmap` of a slot. -/
def FwSlot.map (t : FwSlot) : Word := place 64 0 (ofBool 1 t.valid) ||| place 64 1 t.qid

/-- A write of `fwsmap` that sets `valid` binds the slot and reads its `kick` (R306). -/
def State.bindSlot (s : State) (d i : Nat) (v : Word) : State :=
  let x := s.complex d
  let t := x.slot i
  let qid : BitVec 20 := bits v 1 20
  if t.valid || x.slots.toList.any (fun u => u.valid && u.qid = qid) then s
  else
    let k := s.kickWord t.page
    let new := k ≠ t.cons && !bit x.fwkpend i
    let s := s.setComplex d { x.setSlot i { t with valid := true, qid := qid, kick := k } with
      fwkpend := if k ≠ t.cons then setBit x.fwkpend i true else x.fwkpend }
    if new then s.signalFw d 2 else s

/-- A write of `fwsmap` that clears `valid` unbinds the slot, and leaves a bitmap bit for what it has not read
(R306). -/
def State.unbindSlot (s : State) (d i : Nat) : State :=
  let t := (s.complex d).slot i
  if t.valid then
    let s := s.modComplex d (fun x => x.setSlot i { t with valid := false })
    if t.kick ≠ t.cons then s.setBitmap d t.qid.toNat else s
  else s

/-- A write of `fwkpend`: bits written 1 are cleared (R303). -/
def State.clearKpend (s : State) (d : Nat) (v : Word) : State :=
  s.modComplex d (fun x => { x with fwkpend := x.fwkpend &&& ~~~v })

/-- A write of `fwpace` by Orrery core k sends a pacing comet to the agent it names (R303). -/
def State.sendPace (s : State) (k : Nat) (v : Word) : State :=
  let a := (bits v 0 3).toNat
  if a ≤ 5 then { s with comets := s.comets ++ [.pacing (6 * (bits v 3 2).toNat + a) k] } else s

/-- A read of a register of the complex by Orrery core k; `none` for a number the table does not list. -/
def State.fwRead (s : State) (k n : Nat) : Option Word :=
  let x := s.complex (iodOf k)
  let h := s.hart k
  let t := x.slot h.fwsel.toNat
  match n with
  | 0x7D0 => some x.fwalm
  | 0x7D1 => some (h.fwsel.setWidth 64)
  | 0x7D2 => some t.map
  | 0x7D3 => some t.page
  | 0x7D4 => some t.cons
  | 0x7D5 => some t.kick
  | 0x7D6 => some x.fwkpend
  | 0x7D7 => some (h.fwsig.setWidth 64)
  | 0x7D8 => some 0
  | _ => none

/-- A write of `fwspage` or `fwscons`: ignored while the slot is valid (R303). -/
def State.fwSlotWrite (s : State) (k n : Nat) (v : Word) : State :=
  let d := iodOf k
  let i := (s.hart k).fwsel.toNat
  let t := (s.complex d).slot i
  if t.valid then s
  else s.modComplex d (fun x => x.setSlot i
    (if n = 0x7D3 then { t with page := v &&& 0xFFFFFFFFF000 } else { t with cons := v }))

end Sys2Proof.Machine
end

