-- ==== Sys2Proof/Machine/Operands.lean ====
section
/-!
DEFINITION. Machine/Operands.lean: immediates (R44, R93, R96, R97), the 64-bit and 32-bit integer operations of
R93 to R95, branch conditions and targets (R96), and the guards of R57 that say which kinds of hart may issue an
instruction.
-/

namespace Sys2Proof.Machine

/-! ### Immediates -/

/-- `sext(imm12, 64)`. -/
def imm12 (i : BitVec 12) : Word := i.signExtend 64
/-- `sext(imm20 × 2^12, 64)` (R93). -/
def imm20 (i : BitVec 20) : Word := (i ++ (0 : BitVec 12)).signExtend 64
/-- A branch offset; the constructor holds it without its zero bit 0 (R96). -/
def immB (i : BitVec 12) : Word := (i ++ (0 : BitVec 1)).signExtend 64
/-- A `jal` offset, held the same way. -/
def immJ (i : BitVec 20) : Word := (i ++ (0 : BitVec 1)).signExtend 64
/-- A five-bit signed immediate (R44). -/
def imm5 (i : BitVec 5) : Word := i.signExtend 64

/-! ### Integer operations (R93 to R95) -/

/-- `t[31:0]` sign-extended: the result of a W form. -/
def sextW (t : Word) : Word := (t.setWidth 32).signExtend 64

def intAdd (a b : Word) : Word := a + b
def intSub (a b : Word) : Word := a - b
def intAnd (a b : Word) : Word := a &&& b
def intOr (a b : Word) : Word := a ||| b
def intXor (a b : Word) : Word := a ^^^ b
def intSlt (a b : Word) : Word := if sg a 64 < sg b 64 then 1 else 0
def intSltu (a b : Word) : Word := if ug a 64 < ug b 64 then 1 else 0
/-- Shifts take the low six bits of `b`. -/
def intSll (a b : Word) : Word := a <<< ug b 6
def intSrl (a b : Word) : Word := a >>> ug b 6
def intSra (a b : Word) : Word := wordOfInt (sg a 64 / (2 ^ ug b 6 : Nat))

def intAddW (a b : Word) : Word := sextW (a + b)
def intSubW (a b : Word) : Word := sextW (a - b)
/-- W shifts take the low five bits of `b`. -/
def intSllW (a b : Word) : Word := sextW (a <<< ug b 5)
def intSrlW (a b : Word) : Word := sextW (BitVec.ofNat 64 (ug a 32 / 2 ^ ug b 5))
def intSraW (a b : Word) : Word := sextW (wordOfInt (sg a 32 / (2 ^ ug b 5 : Nat)))

/-- The exact product (R94). -/
def intMul (a b : Word) : Word := a * b
def intMulh (a b : Word) : Word := wordOfInt (sg a 64 * sg b 64 / (2 ^ 64 : Nat))
def intMulhsu (a b : Word) : Word := wordOfInt (sg a 64 * (ug b 64 : Int) / (2 ^ 64 : Nat))
def intMulhu (a b : Word) : Word := BitVec.ofNat 64 (ug a 64 * ug b 64 / 2 ^ 64)
def intMulW (a b : Word) : Word := sextW (a * b)

/-- `sdiv` of R95: quotient and remainder at width n. -/
def sdivRem (a b : Word) (n : Nat) : Int × Int :=
  let A := sg a n
  let B := sg b n
  if B = 0 then (-1, A)
  else if A = -(2 ^ (n - 1) : Nat) ∧ B = -1 then (A, 0)
  else (A.tdiv B, A - A.tdiv B * B)

/-- `udiv` of R95. -/
def udivRem (a b : Word) (n : Nat) : Nat × Nat :=
  let A := ug a n
  let B := ug b n
  if B = 0 then (2 ^ n - 1, A) else (A / B, A - A / B * B)

def intDiv (a b : Word) : Word := wordOfInt (sdivRem a b 64).1
def intDivu (a b : Word) : Word := BitVec.ofNat 64 (udivRem a b 64).1
def intRem (a b : Word) : Word := wordOfInt (sdivRem a b 64).2
def intRemu (a b : Word) : Word := BitVec.ofNat 64 (udivRem a b 64).2
def intDivW (a b : Word) : Word := sextW (wordOfInt (sdivRem a b 32).1)
def intDivuW (a b : Word) : Word := sextW (BitVec.ofNat 64 (udivRem a b 32).1)
def intRemW (a b : Word) : Word := sextW (wordOfInt (sdivRem a b 32).2)
def intRemuW (a b : Word) : Word := sextW (BitVec.ofNat 64 (udivRem a b 32).2)

/-- A computational instruction: `x[rd]` becomes `t` and `pc` advances by 4 (R91, R93). -/
def compute (rd : BitVec 5) (t : Word) (s : State) : Res := retireX rd t s

/-! ### Control transfer (R96) -/

/-- Goes to a target after writing `x[rd]`, or raises 0x00 with the target, nothing written (R41, R96). -/
def jumpTo (rd : BitVec 5) (link target : Word) (s : State) : Res :=
  if bit target 1 then raise 0x00 target s
  else retireTo target (s.modMe (fun h => h.setX rd link))

/-- A branch. -/
def branch (taken : Bool) (imm : BitVec 12) (s : State) : Res :=
  if taken then
    let target := s.me.pc + immB imm
    if bit target 1 then raise 0x00 target s else retireTo target s
  else retire s

/-! ### Which harts may issue (R57) -/

/-- Contexts of vector cores: `task.*`, `gbar.*`, `wait`, `pub`, `aq.notify`, `tcopy`, `cm.acq`. -/
def onContext (s : State) (r : Res) : Res := if isCtx s.cur then r else illegal s
/-- Vector harts: contexts that hold lanes. -/
def onVector (s : State) (r : Res) : Res := if s.lanes s.cur = 0 then illegal s else r
/-- Orrery cores: Xlfw. -/
def onOrrery (s : State) (r : Res) : Res := if isOrr s.cur then r else illegal s
/-- The message hart: `msg.done`. -/
def onMessage (s : State) (r : Res) : Res := if isMsg s.cur then r else illegal s
/-- Contexts in S mode: `sret`. -/
def inS (s : State) (r : Res) : Res := if isCtx s.cur && s.me.mode = .s then r else illegal s
/-- An instruction whose field rules (R46, R47, R55, R56, R217 and the rest) `ok` states. -/
def wellFormed (ok : Bool) (s : State) (r : Res) : Res := if ok then r else illegal s

end Sys2Proof.Machine
end

