-- ==== Sys2Proof/Machine/Csr.lean ====
section
/-!
DEFINITION. Machine/Csr.lean: the CSR map (R36), which hart may access which number (R35), what a read returns and
what a write does, and the six CSR instructions (R102, R103).
-/

namespace Sys2Proof.Machine

/-! ### The map (R36) -/

/-- The number is in the map, for a hart of this kind (0 context, 1 message hart, 2 Lodestar, 3 Orrery). -/
def csrListed (kind n : Nat) : Bool :=
  if n = 0x001 || n = 0x002 || n = 0x003 || n = 0xC00 || n = 0xC02 then true
  else if n = 0x008 || n = 0xC20 || n = 0xC21 || n = 0xC22 || (0xCC0 ≤ n && n ≤ 0xCC5) ||
      (0x800 ≤ n && n ≤ 0x803) || (0x810 ≤ n && n ≤ 0x81F) then kind ≤ 1
  else if n = 0x100 || n = 0x104 || n = 0x105 || (0x140 ≤ n && n ≤ 0x144) || n = 0x180 ||
      (0x5C1 ≤ n && n ≤ 0x5C3) then kind = 0
  else if n = 0x5C0 then kind ≠ 1
  else if n = 0xDC0 || (0xDC4 ≤ n && n ≤ 0xDC7) then kind ≠ 1
  else if (0x300 ≤ n && n ≤ 0x305 && n ≠ 0x301) || (0x340 ≤ n && n ≤ 0x344) ||
      (0xF11 ≤ n && n ≤ 0xF14) then 2 ≤ kind
  else if 0x7C0 ≤ n && n ≤ 0x7C3 then kind = 2
  else if 0x7D0 ≤ n && n ≤ 0x7D8 then kind = 3
  else false

/-- The lowest mode of a number, 0 U, 1 S, 3 M: bits [9:8] of each number of the map. -/
def csrMode (n : Nat) : Nat := n / 256 % 4

/-- A mode as a number. -/
def Mode.rank : Mode → Nat
  | .u => 0
  | .s => 1
  | .m => 3

/-- The CSR is read-only: the numbers from 0xC00, `mgrant`, `fwskick` and `fwsig` (R28, R36, R303). -/
def csrReadOnly (n : Nat) : Bool := 0xC00 ≤ n || n = 0x7C2 || n = 0x7D5 || n = 0x7D7

/-- R35: the hart may read the CSR. -/
def State.csrOk (s : State) (n : Nat) : Bool := csrListed (hartKind s.cur) n && csrMode n ≤ s.me.mode.rank

/-! ### Reads -/

/-- The core that `vlp` and `mgrant` address from Lodestar of cluster g (R39): none when `lsel` is 8 and the spare
has replaced a core (R358). -/
def State.selected (s : State) (g : Nat) : Option Nat :=
  let c := s.cluster g
  if c.lsel = 8 && c.spareUsed then none else some (coreAt g c.lsel.toNat)

/-- VLEN of a hart in bits (R22), and its VLMAX at the SEW held (R25). -/
def State.vlen (s : State) (k : Nat) : Nat := 512 * s.lanes k
def Hart.sew (h : Hart) : Nat := 8 * 2 ^ (bits h.vec.vtype 0 2).toNat
def State.vlmax (s : State) (k : Nat) : Nat := s.vlen k / (s.hart k).sew

/-- The value of a CSR of hart k. A message hart, which is none of contexts 0 to 7, reads its core's location with hart
field 0 in `hloc`, and `vlp` and `mgrant` read 0 while `lsel` names nothing (assumption logs 89 and 91). -/
def State.csrRead (s : State) (k n : Nat) : Word :=
  let h := s.hart k
  let c := s.core (coreOf k)
  let g := clusterOf k
  match n with
  | 0x001 => (bits h.fcsr 0 5).setWidth 64
  | 0x002 => (bits h.fcsr 5 3).setWidth 64
  | 0x003 => h.fcsr.setWidth 64
  | 0x008 => h.vec.vstart.setWidth 64
  | 0x100 => h.sc.sstatus
  | 0x104 => h.sc.sie
  | 0x105 => h.sc.stvec
  | 0x140 => h.sc.sscratch
  | 0x141 => h.sc.sepc
  | 0x142 => h.sc.scause
  | 0x143 => h.sc.stval
  | 0x144 => s.pending k
  | 0x180 => h.sc.satp
  | 0x300 => legalMstatus h.mc.mstatus
  | 0x304 => h.mc.mie
  | 0x305 => h.mc.mtvec
  | 0x340 => h.mc.mscratch
  | 0x341 => h.mc.mepc
  | 0x342 => h.mc.mcause
  | 0x343 => h.mc.mtval
  | 0x344 => s.pending k
  | 0x5C0 => h.scyccmp
  | 0x5C1 => c.issuepol.setWidth 64
  | 0x5C2 => c.lmsplit.setWidth 64
  | 0x5C3 => c.lmgroup.setWidth 64
  | 0x7C0 => (s.cluster g).lsel.setWidth 64
  | 0x7C1 => match s.selected g with
    | some i => (s.core i).vlp
    | none => 0
  | 0x7C2 => match s.selected g with
    | some i => (s.core i).mgrant
    | none => 0
  | 0x7C3 => (s.cluster g).cflags.setWidth 64
  | 0x800 => h.quant.qaxis
  | 0x801 => h.vec.vmsp
  | 0x802 => h.strmctl
  | 0x803 => h.rcdesc
  | 0xC00 => if isMach k then h.cycle else c.cycle
  | 0xC02 => h.instret
  | 0xC20 => BitVec.ofNat 64 h.vec.vl
  | 0xC21 => h.vec.vtype
  | 0xC22 => BitVec.ofNat 64 (s.vlen k / 8)
  | 0xCC0 => h.hgen.setWidth 64
  | 0xCC1 => (hlocOf s.pkg (if isCtx k then k else ctxKey (coreOf k) 0)).setWidth 64
  | 0xCC2 => BitVec.ofNat 64 (s.lanes k)
  | 0xCC3 => s.mcfg k
  | 0xCC4 => c.stalecnt
  | 0xCC5 => h.vec.vmdepth
  | 0xDC0 => s.form.setWidth 64
  | 0xDC4 => s.sstop[0]
  | 0xDC5 => s.sstop[1]
  | 0xDC6 => s.sstop[2]
  | 0xDC7 => s.sstop[3]
  | 0xF12 => 0x4B4C
  | 0xF13 => 1
  | 0xF14 => BitVec.ofNat 64 (if isOrr k then 0x100 + (k - 3936) else k - 3888)
  | _ =>
    if 0x810 ≤ n && n ≤ 0x81F then (c.lmfmt[n - 0x810]?.getD 0).setWidth 64
    else (s.fwRead k n).getD 0

/-! ### Writes -/

/-- How a CSR write ends. -/
inductive CsrOut where
  | done (s : State)
  | trap (t : Trap) (s : State)
  | wait (w : Stall) (s : State)

/-- A write of `fcsr` of hart k: the flags of its queued matrix instructions come before it (R90), and those it sets reach
its cluster's union (R33). -/
def State.writeFcsr (s : State) (k : Nat) (v : BitVec 8) : State :=
  let s := s.modHart k (fun h => { h with fcsr := v })
  let s := if isCtx k && s.hasQueued k then s.modCore (coreOf k) (fun c => { c with
    mq := c.mq.map (fun e => if e.slot = slotOf k then { e with cut := true } else e) }) else s
  s.feedFlags k (bits v 0 5)

/-- A write of `strmctl` of hart k (R30, R240): a stream that ends discards its strip. -/
def State.writeStrmctl (s : State) (k : Nat) (v : Word) : State :=
  s.modHart k (fun h =>
    let c := legalStrmctl h.strmctl v
    { h with strmctl := c, strm := h.strm.mapIdx (fun i t => if strmEn c i then t else { t with strip := [] }) })

/-- A write of `sip` (R324): 1 clears the latched notify. -/
def State.writeSip (s : State) (k : Nat) (v : Word) : State :=
  s.modHart k (fun h => { h with sc := { h.sc with notify := h.sc.notify && !bit v 0 } })

/-- A write of `scyccmp`. -/
def State.writeScyccmp (s : State) (k : Nat) (v : Word) : State := s.modHart k (fun h => { h with scyccmp := v })

/-- Where bank b of core c lies (R188). -/
def State.bankBase (s : State) (c b : Nat) : Nat :=
  s.pkg.toNat * 2 ^ 48 + 0xF00000000000 + 0x200000 * c + 0x20000 * b

/-- The bytes of a bank read as zero. -/
def State.clearBank (s : State) (c b : Nat) : State :=
  let a := s.bankBase c b
  { s with mem := s.mem.filter (fun e => e.1 < a || a + 0x20000 ≤ e.1) }

/-- A converting copy of any core keeps the bank in flight (R232). -/
def State.bankBusy (s : State) (c b : Nat) : Bool :=
  s.cores.any (fun e => e.2.copies.any (fun p => !p.ended && p.banks.contains (c, b)))

/-- A write of `lmsplit` of core c waits for the copies of the banks whose role changes; then banks that change
role hold nothing (R34, R192, R232). -/
def State.writeLmsplit (s : State) (c : Nat) (v : Word) : Option State :=
  let old := (s.core c).lmsplit
  let new := bits v 0 16
  let ch := (upto 16).filter (fun b => old.getLsbD b ≠ new.getLsbD b)
  if ch.any (fun b => s.bankBusy c b) then none
  else some ((ch.foldl (fun s b => s.clearBank c b) s).modCore c (fun x => { x with lmsplit := new }))

/-- A write of `lmgroup` (R193); it changes timing and placement only. -/
def State.writeLmgroup (s : State) (c : Nat) (v : Word) : State :=
  s.modCore c (fun x => { x with lmgroup := bits v 0 4 })

/-- A write of `lmfmt`n waits for the bank's copies (R152, R232); a value of 1 is written as 0. -/
def State.writeLmfmt (s : State) (c n : Nat) (v : Word) : Option State :=
  let f : BitVec 3 := if bits v 0 3 = 1 then 0 else bits v 0 3
  if s.bankBusy c n then none
  else some (s.modCore c (fun x => { x with lmfmt := x.lmfmt.setIfInBounds n f }))

/-- A new `vlp` takes effect on core c (R27): the vector state of every hart whose lanes change is cleared; `vmsp`, which
R27 does not name, stays (assumption log 92). -/
def State.applyVlp (s : State) (c : Nat) (v : Word) : State :=
  let old := (s.core c).vlp
  let new := legalVlp v
  let s := s.modCore c (fun x => { x with vlp := new, vlpWait := none })
  (upto 8).foldl (fun s h =>
    if lanesOf old h = lanesOf new h then s
    else s.modHart (ctxKey c h) (fun t => { t with vec := { vmsp := t.vec.vmsp } })) s

/-- The hart is within a vector instruction that it has begun and that has not completed (R27, R110, R208). -/
def Hart.midVector (h : Hart) : Bool :=
  (h.stall = some .element || h.stall = some .window) && h.vec.vstart ≠ 0

/-- Nothing vector or matrix is in flight on core c (R27). -/
def State.vectorIdle (s : State) (c : Nat) : Bool :=
  (s.core c).mq.isEmpty && (upto 8).all (fun h => !(s.hart (ctxKey c h)).midVector)

/-- A write of `vlp` of core c: it waits until every vector and matrix instruction in flight has completed (R27, R139). A
core that has been lost takes no lanes (R359). -/
def State.writeVlp (s : State) (c : Nat) (v : Word) : Option State :=
  if (s.core c).absent then some s else if s.vectorIdle c then some (s.applyVlp c v) else none

/-- A write of `vlp` waits on core c, and Lodestar of its cluster with it (R27). -/
def State.awaitVlp (s : State) (c : Nat) (w : VlpWait) : State :=
  (s.modCore c (fun x => { x with vlpWait := some w })).modHart (lodeKey (clusterOfCore c)) (fun h =>
    { h with stall := some .drain })

/-- Clears bits of `cflags` (R33). -/
def State.clearCflags (s : State) (g : Nat) (v : Word) : State :=
  s.modCluster g (fun c => { c with cflags := c.cflags &&& ~~~(bits v 0 5) })

/-- A write of v to a CSR of the current hart (R35 has been checked). -/
def State.csrWrite (s : State) (n : Nat) (v : Word) : CsrOut :=
  let k := s.cur
  let c := coreOf k
  let g := clusterOf k
  let onHart (f : Hart → Hart) : CsrOut := .done (s.modHart k f)
  let onSc (f : SCsrs → SCsrs) : CsrOut := .done (s.modHart k (fun h => { h with sc := f h.sc }))
  let onMc (f : MCsrs → MCsrs) : CsrOut := .done (s.modHart k (fun h => { h with mc := f h.mc }))
  match n with
  | 0x001 => .done (s.writeFcsr k (setBits s.me.fcsr 0 (bits v 0 5)))
  | 0x002 => onHart (fun h =>
      { h with fcsr := setBits h.fcsr 5 (if 4 < (bits v 0 3).toNat then (0 : BitVec 3) else bits v 0 3) })
  | 0x003 => .done (s.writeFcsr k (legalFcsr v))
  | 0x008 => onHart (fun h => { h with vec := { h.vec with vstart := bits v 0 11 } })
  | 0x100 => onSc (fun x => { x with sstatus := v &&& sstatusMask })
  | 0x104 => onSc (fun x => { x with sie := v &&& 0xD })
  | 0x105 => onSc (fun x => { x with stvec := v &&& ~~~3 })
  | 0x140 => onSc (fun x => { x with sscratch := v })
  | 0x141 => onSc (fun x => { x with sepc := v })
  | 0x142 => onSc (fun x => { x with scause := legalCause v })
  | 0x143 => onSc (fun x => { x with stval := v })
  | 0x144 => .done (s.writeSip k v)
  | 0x180 => onSc (fun x => { x with satp := legalAtp v })
  | 0x300 => onMc (fun x => { x with mstatus := legalMstatus v })
  | 0x304 => onMc (fun x => { x with mie := v &&& (if isOrr k then 0x8 else 0x1A) })
  | 0x305 => onMc (fun x => { x with mtvec := v &&& ~~~3 })
  | 0x340 => onMc (fun x => { x with mscratch := v })
  | 0x341 => onMc (fun x => { x with mepc := v })
  | 0x342 => onMc (fun x => { x with mcause := legalCause v })
  | 0x343 => onMc (fun x => { x with mtval := v })
  | 0x5C0 => .done (s.writeScyccmp k v)
  | 0x5C1 => .done (s.modCore c (fun x => { x with issuepol := bits v 0 1 }))
  | 0x5C2 => match s.writeLmsplit c v with
    | some s => .done s
    | none => .wait .bank s
  | 0x5C3 => .done (s.writeLmgroup c v)
  | 0x7C0 => .done (s.modCluster g (fun x => { x with lsel := legalLsel v }))
  | 0x7C1 => match s.selected g with
    | none => .done s
    | some i => match s.writeVlp i v with
      | some s => .done s
      | none => .wait .drain (s.awaitVlp i { v := v })
  | 0x7C3 => .done (s.clearCflags g v)
  | 0x7D0 => match s.writeFwalm (iodOf k) (legalFwalm v) with
    | (f, t) =>
      if t.overfull then .wait .window s
      else match f with
        | some f => .trap ⟨0x95, f.tval⟩ t
        | none => .done t
  | 0x7D1 => onHart (fun h => { h with fwsel := bits v 0 6 })
  | 0x7D2 =>
    .done (if bit v 0 then s.bindSlot (iodOf k) s.me.fwsel.toNat v else s.unbindSlot (iodOf k) s.me.fwsel.toNat)
  | 0x7D3 | 0x7D4 => .done (s.fwSlotWrite k n v)
  | 0x7D6 => .done (s.clearKpend (iodOf k) v)
  | 0x7D8 => .done (s.sendPace s.cur v)
  | 0x800 => onHart (fun h => { h with quant := { h.quant with qaxis := legalQaxis v } })
  | 0x801 => onHart (fun h => { h with vec := { h.vec with vmsp := v } })
  | 0x802 => .done (s.writeStrmctl k v)
  | 0x803 => onHart (fun h => { h with rcdesc := v &&& ~~~0x3F })
  | _ =>
    if 0x810 ≤ n && n ≤ 0x81F then
      match s.writeLmfmt c (n - 0x810) v with
      | some s => .done s
      | none => .wait .bank s
    else .done s

/-! ### The instructions (R102, R103) -/

/-- The three operations of R102. -/
inductive CsrOp where
  | write | set | clear
deriving DecidableEq, Repr

/-- `cflags` and `fwkpend` clear the bits written 1 (R103). -/
def csrW1c (n : Nat) : Bool := n = 0x7C3 || n = 0x7D6

/-- The value an operation writes. -/
def CsrOp.value (op : CsrOp) (n : Nat) (old src : Word) : Word :=
  if csrW1c n then src else
  match op with
  | .write => src
  | .set => old ||| src
  | .clear => old &&& ~~~src

/-- A CSR instruction whose write of `vlp` waits retires when the write takes effect, with what it read before (R27, R102). -/
def State.keepRead (s : State) (rd : BitVec 5) (old : Word) : State :=
  match s.selected (clusterOf s.cur) with
  | some i => s.modCore i (fun x => { x with vlpWait := x.vlpWait.map (fun w => { w with rd := some (rd, old) }) })
  | none => s

/-- One CSR instruction. `fflags` and `fcsr` are read when every queued matrix instruction of the hart has executed (R90); a
`csrrw` or `csrrwi` with `rd` = `x0` does not read. `field` is the source field, whose zero makes `csrrs` and `csrrc` read
only (R102). -/
def csrInstr (op : CsrOp) (rd field : BitVec 5) (src : Word) (csr : BitVec 12) (s : State) : Res :=
  let n := csr.toNat
  let doread := op ≠ .write || rd ≠ 0
  let dowrite := op = .write || field ≠ 0
  if !s.csrOk n || (dowrite && csrReadOnly n) || (dowrite && op = .clear && csrW1c n) then illegal s
  else if doread && (n = 0x001 || n = 0x003) && s.hasQueued s.cur then stall .flags s
  else
    let old := s.csrRead s.cur n
    if dowrite then
      match s.csrWrite n (op.value n old src) with
      | .done s => retireX rd (if doread then old else 0) s
      | .trap t s => takeTrap t s
      | .wait w s' => stall w (if n = 0x7C1 then s'.keepRead rd (if doread then old else 0) else s')
    else retireX rd old s

/-- `csrrw` (R102). -/
def execCsrrw (rd : BitVec 5) (rs1 : BitVec 5) (csr : BitVec 12) (s : State) : Res :=
  csrInstr .write rd rs1 (s.x rs1) csr s

/-- `csrrs` (R102). -/
def execCsrrs (rd : BitVec 5) (rs1 : BitVec 5) (csr : BitVec 12) (s : State) : Res :=
  csrInstr .set rd rs1 (s.x rs1) csr s

/-- `csrrc` (R102). -/
def execCsrrc (rd : BitVec 5) (rs1 : BitVec 5) (csr : BitVec 12) (s : State) : Res :=
  csrInstr .clear rd rs1 (s.x rs1) csr s

/-- `csrrwi` (R102). -/
def execCsrrwi (rd : BitVec 5) (imm : BitVec 5) (csr : BitVec 12) (s : State) : Res :=
  csrInstr .write rd imm (imm.setWidth 64) csr s

/-- `csrrsi` (R102). -/
def execCsrrsi (rd : BitVec 5) (imm : BitVec 5) (csr : BitVec 12) (s : State) : Res :=
  csrInstr .set rd imm (imm.setWidth 64) csr s

/-- `csrrci` (R102). -/
def execCsrrci (rd : BitVec 5) (imm : BitVec 5) (csr : BitVec 12) (s : State) : Res :=
  csrInstr .clear rd imm (imm.setWidth 64) csr s

end Sys2Proof.Machine
end

