-- ==== Sys2Proof/Machine/MemOps.lean ====
section
/-!
DEFINITION. Machine/MemOps.lean: the scalar accesses every memory instruction of a hart shares: one load, one store
(R97, R98), one atomic update (R211, R212), with the registers of register space behind them.
-/

namespace Sys2Proof.Machine

/-- A scalar load of n bytes by the current hart (R98): the value read and the state after it, or its exception. -/
def State.loadN (s : State) (n : Nat) (va : Word) : Except Trap (Word × State) :=
  match s.check s.who .load (.scalar n) n va with
  | .error t => .error t
  | .ok pa =>
    let s := s.cache s.who .load va
    let r := s.region s.who.core pa
    if r.isBlock then
      match s.regLoad s.cur r with
      | none => .error ⟨0x05, va⟩
      | some e => .ok e
    else .ok (BitVec.ofNat 64 (s.readPa s.who.core pa n), s)

/-- How a store ends: done, stopped by an exception, or waiting for a window's capacity (R208). -/
inductive StoreOut where
  | done (s : State)
  | trap (t : Trap)
  | full

/-- A scalar store of the low n bytes of v by the current hart (R98). -/
def State.storeN (s : State) (n : Nat) (va v : Word) : StoreOut :=
  match s.check s.who .store (.scalar n) n va with
  | .error t => .trap t
  | .ok pa =>
    let r := s.region s.who.core pa
    if r.isBlock then
      match (s.cache s.who .store va).regStore s.cur r v with
      | none => .trap ⟨0x07, va⟩
      | some s => .done s
    else if r = .tier && s.windowFull pa then .full
    else .done ((s.cache s.who .store va).writePa s.who pa v.toNat n)

/-- A load instruction: `x[rd]` becomes `f` of the value read (R97, R215). -/
def loadInstr (n : Nat) (f : Word → Word) (rd : BitVec 5) (va : Word) (s : State) : Res :=
  match s.loadN n va with
  | .error t => takeTrap t s
  | .ok (v, s) => retireX rd (f v) s

/-- A store instruction (R97, R215). -/
def storeInstr (n : Nat) (va v : Word) (s : State) : Res :=
  match s.storeN n va v with
  | .done s => retire s
  | .trap t => takeTrap t s
  | .full => stall .window s

/-- Reads eight or more doublewords one after the other; the first that fails decides (R229, R239, R263, R297). -/
def State.loadWords (s : State) (va : Word) : Nat → Except Trap (List Word × State)
  | 0 => .ok ([], s)
  | n + 1 =>
    match s.loadN 8 va with
    | .error t => .error t
    | .ok (v, s) =>
      match s.loadWords (va + 8) n with
      | .error t => .error t
      | .ok (l, s) => .ok (v :: l, s)

/-- Width in bytes and scope code of an AMO's funct3 (R54). -/
def amoBytes (ws : BitVec 3) : Nat := if bit ws 0 then 8 else 4
def amoScope (ws : BitVec 3) : Nat :=
  match (bits ws 1 2).toNat with
  | 0 => 1
  | 1 => 4
  | 2 => 2
  | _ => 3

/-- An AMO (R211, R212): memory takes `f old b` at n bytes, `x[rd]` the old value sign-extended. -/
def amoInstr (f : Nat → Word → Word → Word) (rd rs1 rs2 : BitVec 5) (ws : BitVec 3) (s : State) : Res :=
  let n := amoBytes ws
  let a := s.x rs1
  match s.check s.who .amo .atomic n a with
  | .error t => takeTrap t s
  | .ok pa =>
    if s.region s.who.core pa = .tier && s.windowFull pa then stall .window s
    else
      let old := BitVec.ofNat 64 (s.readPa s.who.core pa n)
      let b := s.x rs2
      retireX rd (sextFrom old (8 * n)) ((s.cache s.who .amo a).writePa s.who pa (f (8 * n) old b).toNat n)

/-! ### What the AMOs write (R210); comparisons read n-bit values -/

def amoSwapF (_ : Nat) (_ b : Word) : Word := b
def amoAddF (_ : Nat) (a b : Word) : Word := a + b
def amoXorF (_ : Nat) (a b : Word) : Word := a ^^^ b
def amoAndF (_ : Nat) (a b : Word) : Word := a &&& b
def amoOrF (_ : Nat) (a b : Word) : Word := a ||| b
def amoMinF (n : Nat) (a b : Word) : Word := if sg a n ≤ sg b n then a else b
def amoMaxF (n : Nat) (a b : Word) : Word := if sg b n ≤ sg a n then a else b
def amoMinuF (n : Nat) (a b : Word) : Word := if ug a n ≤ ug b n then a else b
def amoMaxuF (n : Nat) (a b : Word) : Word := if ug b n ≤ ug a n then a else b

end Sys2Proof.Machine
end

