-- ==== Sys2Proof/Machine/VecOps.lean ====
section
/-!
DEFINITION. Machine/VecOps.lean: what every vector instruction shares: register and mask access (R21 to R23, R26),
the checks of R22, R24, R58, R110 and R240, stream reads (R239 to R241), the element loop with its stops and traps
(R109, R110), and retirement (R25, R180).
-/

namespace Sys2Proof.Machine

/-! ### Registers -/

/-- A vector register of hart k by its field (R21). -/
def State.vregOf (s : State) (k : Nat) (r : Nat) : VReg :=
  if r < 16 then (s.hart k).vec.v[r]?.getD 0 else (s.core (coreOf k)).sv[r - 16]?.getD 0

/-- A vector register of hart k replaced. -/
def State.setVregOf (s : State) (k r : Nat) (v : VReg) : State :=
  if r < 16 then s.modHart k (fun h => { h with vec := { h.vec with v := h.vec.v.setIfInBounds r v } })
  else s.modCore (coreOf k) (fun c => { c with sv := c.sv.setIfInBounds (r - 16) v })

/-- The same for the current hart. -/
def State.vreg (s : State) (r : Nat) : VReg := s.vregOf s.cur r
def State.setVreg (s : State) (r : Nat) (v : VReg) : State := s.setVregOf s.cur r v

/-- Element i of a register at width w, and a register with that element replaced (R23). -/
def State.velem (s : State) (r w i : Nat) : Word := getElem (s.vreg r) w i
def State.setVelem (s : State) (r w i : Nat) (v : Word) : State := s.setVreg r (putElem (s.vreg r) w i v)

/-- Bit i of a register read as a mask (R26). -/
def State.mbit (s : State) (r i : Nat) : Bool := (s.vreg r).getLsbD i
/-- A register with mask bit i replaced. -/
def State.setMbit (s : State) (r i : Nat) (b : Bool) : State := s.setVreg r (setBit (s.vreg r) i b)

/-- SEW in bits, the format code and `fz` of the current `vtype`, the element format, `frm`, `vl` and VLMAX. -/
def State.sew (s : State) : Nat := s.me.sew
def State.fmtCode (s : State) : BitVec 3 := bits s.me.vec.vtype 4 3
def State.fmt (s : State) : Fmt := fmtOf s.fmtCode s.sew
def State.fz (s : State) : Bool := bit s.me.vec.vtype 7
def State.frm (s : State) : BitVec 3 := bits s.me.fcsr 5 3
def State.vl (s : State) : Nat := s.me.vec.vl
def State.vmaxNow (s : State) : Nat := s.vlmax s.cur
def State.vill (s : State) : Bool := bit s.me.vec.vtype 63

/-- The current format is one the floating-point forms compute on (R111). -/
def State.fpFmt (s : State) : Bool := 1 ≤ s.fmtCode.toNat && s.fmtCode.toNat ≤ 4
/-- The current format is one the special functions serve (R119). -/
def State.sfFmt (s : State) : Bool := 2 ≤ s.fmtCode.toNat && s.fmtCode.toNat ≤ 4

/-! ### Streams -/

/-- The active stream that a register names for hart k, if any (R240). -/
def Hart.streamAt (h : Hart) (r : Nat) : Option Nat :=
  (upto 4).find? (fun k => strmEn h.strmctl k && strmReg h.strmctl k = r)

/-- `swidth` of a pattern in bits. -/
def Stream.width (t : Stream) : Nat := 8 * 2 ^ (bits t.pat 352 2).toNat

/-- Counts of a pattern, and the number of its elements. -/
def Stream.cnt (t : Stream) (d : Nat) : Nat := (bits t.pat (256 + 32 * d) 32).toNat
def Stream.total (t : Stream) : Nat := t.cnt 0 * t.cnt 1 * t.cnt 2

/-- Signed byte distance of a dimension. -/
def Stream.pitch (t : Stream) (d : Nat) : Int := (bits t.pat (64 + 64 * d) 64).toInt

/-- The exact address of stream element m (R239). -/
def Stream.addr (t : Stream) (m : Nat) : Int :=
  let c0 := t.cnt 0
  let c1 := t.cnt 1
  (bits t.pat 0 64).toNat + (m % c0 : Nat) * t.pitch 0 + (m / c0 % c1 : Nat) * t.pitch 1 +
    (m / (c0 * c1) : Nat) * t.pitch 2

/-- Reads stream element m as the copy observer (R241); an element beyond the last reads zero and is not accessed. -/
def State.refill (s : State) (k : Nat) (t : Stream) (m : Nat) : Except Trap Word :=
  if t.total ≤ m then .ok 0
  else
    let n := t.width / 8
    match s.agentRead (whoCopy k t.tr t.gang false) (wordOfInt (t.addr m)) n with
    | .error e => .error e
    | .ok v => .ok (BitVec.ofNat 64 v)

/-- Stream j of hart k holds element m of its strip, fetching it if a refill has not (R240, R241). -/
def State.strmFetch (s : State) (k j m : Nat) : Except Trap State :=
  let t := (s.hart k).strm[j]?.getD {}
  if t.strip.any (fun e => e.1 = m) then .ok s
  else
    match s.refill k t m with
    | .error e => .error e
    | .ok v =>
      .ok (s.modHart k (fun h =>
        { h with strm := h.strm.setIfInBounds j { t with strip := put t.strip m v } }))

/-- A need: a register, the bits of it that are read, and whether they are mask bits. -/
structure Need where
  reg : Nat
  lo  : Nat
  len : Nat
  mask : Bool

/-- Element i of a register at width w. -/
def needElem (w : Nat) (r i : Nat) : Need := ⟨r, i * w, w, false⟩
/-- Mask bit i of a register. -/
def needBit (r i : Nat) : Need := ⟨r, i, 1, true⟩

/-- The element of the consuming instruction for which strip element i is read, at width w. -/
def Need.elem (n : Need) (w i : Nat) : Nat := if n.mask then max n.lo (i * w) else i

/-- Element i of the strip of stream j, fetched and put into the stream's register (R240). -/
def State.fillElem (s : State) (j reg i : Nat) : Except Trap State :=
  let t := s.me.strm[j]?.getD {}
  match s.strmFetch s.cur j (t.pos + i) with
  | .error e => .error e
  | .ok s =>
    let t := s.me.strm[j]?.getD {}
    .ok (s.setVelem reg s.sew i (look t.strip (t.pos + i) 0))

/-- The stream elements that fill a range of bits of a stream register, put into the register (R240); or the element of the
instruction and the fault of the first refill that fails (R241). -/
def State.fillNeed (s : State) (n : Need) : Except (Nat × Trap) State :=
  match s.me.streamAt n.reg with
  | none => .ok s
  | some j =>
    let w := s.sew
    let first := n.lo / w
    let last := (n.lo + n.len - 1) / w
    (upto (last + 1 - first)).foldl (fun r d =>
      match r with
      | .error e => .error e
      | .ok s =>
        match s.fillElem j n.reg (first + d) with
        | .error t => .error (n.elem w (first + d), t)
        | .ok s => .ok s) (.ok s)

/-- All of several needs; the first refill that fails decides. -/
def State.fillNeeds (s : State) : List Need → Except (Nat × Trap) State
  | [] => .ok s
  | n :: ns =>
    match s.fillNeed n with
    | .error e => .error e
    | .ok s => s.fillNeeds ns

/-- Element i of a strip is in the register when the reading instruction completes: one that no field read and that cannot be
read is an open value, since its refill raises nothing (R240, R241). -/
def State.holdElem (s : State) (j reg i : Nat) : State :=
  match s.fillElem j reg i with
  | .ok s => s
  | .error _ => s.bump.setVelem reg s.sew i (Config.unreadStrip s.free)

/-- The registers of the streams an instruction read hold their strips, `vl` elements each (R240). -/
def State.holdStrips (s : State) (reads : List Nat) : State :=
  reads.eraseDups.foldl (fun s r =>
    match s.me.streamAt r with
    | some j => (upto s.vl).foldl (fun s i => s.holdElem j r i) s
    | none => s) s

/-- When the reading instruction completes, each stream it read advances by `vl` (R240). -/
def Hart.advance (h : Hart) (reads : List Nat) : Hart :=
  { h with strm := h.strm.mapIdx (fun j t =>
      if reads.any (fun r => h.streamAt r = some j) then
        { t with pos := t.pos + h.vec.vl, strip := t.strip.filter (fun e => t.pos + h.vec.vl ≤ e.1) }
      else t) }

/-- A stop within an instruction: the strips are fetched again (R19, R240). -/
def Hart.dropStrips (h : Hart) : Hart := { h with strm := h.strm.map (fun t => { t with strip := [] }) }

/-! ### Checks -/

/-- The checks every vector instruction shares: lanes (R22), `vill` (R24), `ok`, a whole instruction's `vstart` (R110),
no stream register written (R240); then the widths of the streams read (R240). -/
def vguard (whole ok : Bool) (writes reads : List Nat) (s : State) (r : Res) : Res :=
  onVector s (
    if s.vill || !ok || (whole && s.me.vec.vstart ≠ 0) || writes.any (fun w => (s.me.streamAt w).isSome) then illegal s
    else
      match (upto 4).find? (fun j =>
        reads.any (fun q => s.me.streamAt q = some j) && (s.me.strm[j]?.getD {}).width ≠ s.sew) with
      | some j => raise 0x16 (BitVec.ofNat 64 j) s
      | none => r)

/-! ### Ending -/

/-- A vector instruction retires: `vstart` is zero (R25), the pin is released (R180), streams advance (R240). -/
def vretire (reads : List Nat) (s : State) : Res :=
  retire ((s.holdStrips reads).modMe (fun h =>
    { h.advance reads with vec := { h.vec with vstart := 0 }, pin := none, arrive := none }))

/-- Within the instruction, before element i: the strips are fetched again when it goes on. -/
def Hart.stopAt (h : Hart) (i : Nat) : Hart :=
  { h.dropStrips with vec := { h.vec with vstart := BitVec.ofNat 11 i }, arrive := none }

/-- It stops before element i without an exception: something reached the hart (R110), or the element waits. -/
def vstop (i : Nat) (w : Stall) (s : State) : Res := .next (s.modMe (fun h => { h.stopAt i with stall := some w }))

/-- It traps at element i; the elements below are complete (R110, R323). -/
def vtrap (i : Nat) (t : Trap) (s : State) : Res := takeTrap t (s.modMe (fun h => h.stopAt i))

/-! ### The element loop (R109, R110) -/

/-- How one element ends. -/
inductive ElemOut where
  | done (s : State)
  | trap (t : Trap)
  | wait (w : Stall)

/-- The element is active (R45, R109). -/
def State.active (s : State) (vm : BitVec 1) (i : Nat) : Bool := vm = 0 || s.mbit 0 i

/-- The elements from i on, `n` of them; `needs` are the register bits element i reads, `fin` ends the instruction. -/
def vloop (vm : BitVec 1) (needs : Nat → List Need) (body : Nat → State → ElemOut) (fin : State → Res) :
    Nat → Nat → State → Res
  | 0, _, s => fin s
  | n + 1, i, s =>
    if s.me.arrive = some i then vstop i .element s
    else
      match s.fillNeeds (needs i) with
      | .error (_, t) =>
        if s.active vm i then vtrap i t s else vloop vm needs body fin n (i + 1) s
      | .ok s =>
        if s.active vm i then
          match body i s with
          | .done s => vloop vm needs body fin n (i + 1) s
          | .trap t => vtrap i t s
          | .wait w => vstop i w s
        else vloop vm needs body fin n (i + 1) s

/-- Runs an element-interruptible instruction from `vstart` to `vl` − 1. -/
def vrun (vm : BitVec 1) (reads : List Nat) (needs : Nat → List Need) (body : Nat → State → ElemOut) (s : State) : Res :=
  let i := s.me.vec.vstart.toNat
  vloop vm needs body (vretire reads) (s.vl - i) i s

/-- Runs a whole instruction: the stream elements it reads, then its effect, which may raise an exception that changes
nothing else; a failing refill is at its element (R241). -/
def vwhole (reads : List Nat) (needs : List Need) (f : State → Except (Nat × Trap) State) (s : State) : Res :=
  match s.fillNeeds needs with
  | .error (i, t) => vtrap i t s
  | .ok s' =>
    match f s' with
    | .error (i, t) => vtrap i t s
    | .ok s' => vretire reads s'

/-- Raises an element's flags (R89). -/
def withFlags (r : Word × Flags) (put : Word → State → State) (s : State) : State := put r.1 (s.raiseFlags s.cur r.2)

/-! ### The second operand (R109) -/

/-- A register, or a scalar whose low SEW bits are every element. -/
inductive Src where
  | reg (r : BitVec 5)
  | scalar (v : Word)

def Src.reads : Src → List Nat
  | .reg r => [r.toNat]
  | .scalar _ => []

def Src.needs (w : Nat) (i : Nat) : Src → List Need
  | .reg r => [needElem w r.toNat i]
  | .scalar _ => []

/-- src1(i) at width w. -/
def Src.value (s : State) (w i : Nat) : Src → Word
  | .reg r => s.velem r.toNat w i
  | .scalar v => BitVec.ofNat 64 (ug v w)

/-! ### Element-wise forms -/

/-- An element-wise operation: `f w a b d` is the new element and its flags. -/
def vElementwise (ok : Bool) (f : Nat → Word → Word → Word → Word × Flags) (src : Src) (vd vs2 : BitVec 5)
    (vm : BitVec 1) (s : State) : Res :=
  let reads := vs2.toNat :: src.reads
  vguard false ok [vd.toNat] reads s (
    let w := s.sew
    vrun vm reads (fun i => needElem w vs2.toNat i :: src.needs w i) (fun i s =>
      let r := f w (s.velem vs2.toNat w i) (src.value s w i) (s.velem vd.toNat w i)
      .done (withFlags r (fun v s => s.setVelem vd.toNat w i v) s)) s)

/-- An integer operation of R116 or R117; it sets no flag. -/
def vInt (f : Nat → Word → Word → Word → Word) (src : Src) (vd vs2 : BitVec 5) (vm : BitVec 1) (s : State) : Res :=
  vElementwise true (fun w a b d => (f w a b d, 0)) src vd vs2 vm s

/-- A floating-point operation of R118 on the patterns of the current format. -/
def vFloat (f : Fmt → BitVec 3 → Bool → Word → Word → Word → Word × Flags) (src : Src) (vd vs2 : BitVec 5)
    (vm : BitVec 1) (s : State) : Res :=
  vElementwise s.fpFmt (fun _ a b d => f s.fmt s.frm s.fz a b d) src vd vs2 vm s

/-- A compare (R121): bit i of `vd` becomes the result. -/
def vCompare (ok : Bool) (f : Nat → Word → Word → Bool × Flags) (src : Src) (vd vs2 : BitVec 5) (vm : BitVec 1)
    (s : State) : Res :=
  let reads := vs2.toNat :: src.reads
  vguard false ok [vd.toNat] reads s (
    let w := s.sew
    vrun vm reads (fun i => needElem w vs2.toNat i :: src.needs w i) (fun i s =>
      let r := f w (s.velem vs2.toNat w i) (src.value s w i)
      .done ((s.raiseFlags s.cur r.2).setMbit vd.toNat i r.1)) s)

end Sys2Proof.Machine
end

