-- ==== Sys2Proof/Machine/VecFp.lean ====
section
/-!
DEFINITION. Machine/VecFp.lean: the floating-point element operations of R118, the compares of R121 and R85, the
special functions of R119 and the conversion `vcvt` of R120.
-/

namespace Sys2Proof.Machine

/-! ### The operations, on patterns a, b and the old d of a format -/

/-- One rounding of an exact value with flags already raised. -/
def roundTo (f : Fmt) (frm : BitVec 3) (fz : Bool) (v : FVal × Flags) : Word × Flags :=
  let r := f.round frm fz v.1
  (r.1, r.2 ||| v.2)

def fopAdd (f : Fmt) (frm : BitVec 3) (fz : Bool) (a b _ : Word) : Word × Flags :=
  roundTo f frm fz (exactSum frm [f.decode fz a, f.decode fz b], 0)
def fopSub (f : Fmt) (frm : BitVec 3) (fz : Bool) (a b _ : Word) : Word × Flags :=
  roundTo f frm fz (exactSum frm [f.decode fz a, (f.decode fz b).negate], 0)
def fopMul (f : Fmt) (frm : BitVec 3) (fz : Bool) (a b _ : Word) : Word × Flags :=
  roundTo f frm fz ((f.decode fz a).mul (f.decode fz b), 0)
def fopDiv (f : Fmt) (frm : BitVec 3) (fz : Bool) (a b _ : Word) : Word × Flags :=
  roundTo f frm fz ((f.decode fz a).div (f.decode fz b))
def fopMacc (f : Fmt) (frm : BitVec 3) (fz : Bool) (a b d : Word) : Word × Flags :=
  roundTo f frm fz (exactSum frm [(f.decode fz b).mul (f.decode fz a), f.decode fz d], 0)
def fopNmacc (f : Fmt) (frm : BitVec 3) (fz : Bool) (a b d : Word) : Word × Flags :=
  roundTo f frm fz (exactSum frm [((f.decode fz b).mul (f.decode fz a)).negate, (f.decode fz d).negate], 0)
def fopMsac (f : Fmt) (frm : BitVec 3) (fz : Bool) (a b d : Word) : Word × Flags :=
  roundTo f frm fz (exactSum frm [(f.decode fz b).mul (f.decode fz a), (f.decode fz d).negate], 0)
def fopMin (f : Fmt) (frm : BitVec 3) (fz : Bool) (a b _ : Word) : Word × Flags :=
  roundTo f frm fz (FVal.minmax false (f.decode fz a) (f.decode fz b))
def fopMax (f : Fmt) (frm : BitVec 3) (fz : Bool) (a b _ : Word) : Word × Flags :=
  roundTo f frm fz (FVal.minmax true (f.decode fz a) (f.decode fz b))
def fopSqrt (f : Fmt) (frm : BitVec 3) (fz : Bool) (a _ _ : Word) : Word × Flags :=
  roundTo f frm fz ((f.decode fz a).sqrt, 0)

/-- The sign bit of a format's pattern, and the pattern with another sign (R118: raw bits). -/
def signAt (f : Fmt) : Nat := f.bankWidth - 1
def fopSgnj (f : Fmt) (_ : BitVec 3) (_ : Bool) (a b _ : Word) : Word × Flags :=
  (setBit a (signAt f) (bit b (signAt f)), 0)
def fopSgnjn (f : Fmt) (_ : BitVec 3) (_ : Bool) (a b _ : Word) : Word × Flags :=
  (setBit a (signAt f) (!bit b (signAt f)), 0)
def fopSgnjx (f : Fmt) (_ : BitVec 3) (_ : Bool) (a b _ : Word) : Word × Flags :=
  (setBit a (signAt f) (bit a (signAt f) != bit b (signAt f)), 0)
def fopClass (f : Fmt) (_ : BitVec 3) (_ : Bool) (a _ _ : Word) : Word × Flags :=
  match f with
  | .ieee g => (BitVec.ofNat 64 (g.classOf (ug a g.width)), 0)
  | _ => (0, 0)

/-- A floating compare (R85), with `fz` applied to the inputs. -/
def vFcmp (c : FCmp) (vd vs2 vs1 : BitVec 5) (vm : BitVec 1) (s : State) : Res :=
  vCompare s.fpFmt (fun _ a b => fcompare c (s.fmt.decode s.fz a) (s.fmt.decode s.fz b)) (.reg vs1) vd vs2 vm s

/-- A form of one source register (R118, R119). -/
def vFloat1 (ok : Bool) (f : Fmt → BitVec 3 → Bool → Word → Word → Word → Word × Flags) (vd vs2 : BitVec 5)
    (vm : BitVec 1) (s : State) : Res :=
  vElementwise ok (fun _ a b d => f s.fmt s.frm s.fz a b d) (.scalar 0) vd vs2 vm s

/-- A special function (R119). -/
def fopSf (op : SfOp) (f : Fmt) (frm : BitVec 3) (fz : Bool) (a _ _ : Word) : Word × Flags :=
  roundTo f frm fz (op.value (f.decode fz a))

/-! ### Conversion (R120) -/

/-- Where element i of a register group at width w lies: its register and its place there. -/
def groupAt (vlen first w i : Nat) : Nat × Nat := (first + i * w / vlen, i % (vlen / w))

/-- `vcvt`. -/
def vConvert (vd vs2 : BitVec 5) (ws : Nat) (src : Fmt) (vm : BitVec 1) (s : State) : Res :=
  let wd := s.sew
  let n := if wd < ws then ws / wd else 1
  let m := if ws < wd then wd / ws else 1
  let ok := groupAligned n vs2 && groupAligned m vd && (ws = wd || !groupsMeet vd m vs2 n)
  let reads := (upto n).map (vs2.toNat + ·)
  vguard false ok ((upto m).map (vd.toNat + ·)) reads s (
    let vlen := s.vlen s.cur
    let at_ (i : Nat) := groupAt vlen vs2.toNat ws i
    vrun vm reads (fun i => [needElem ws (at_ i).1 (at_ i).2]) (fun i s =>
      let r := convert s.fmt src s.frm s.fz (s.velem (at_ i).1 ws (at_ i).2)
      let d := groupAt vlen vd.toNat wd i
      .done (withFlags r (fun v s => s.setVelem d.1 wd d.2 v) s)) s)

/-! ### The instructions -/

/-- `vfadd.vv` (R118). -/
def execVfaddVv (vd : BitVec 5) (vs2 : BitVec 5) (vs1 : BitVec 5) (_c2 : BitVec 1) (_c1 : BitVec 1) (vm : BitVec 1) (s : State) : Res :=
  vFloat fopAdd (.reg vs1) vd vs2 vm s

/-- `vfadd.vf` (R118). -/
def execVfaddVf (vd : BitVec 5) (vs2 : BitVec 5) (rs1 : BitVec 5) (_c2 : BitVec 1) (vm : BitVec 1) (s : State) : Res :=
  vFloat fopAdd (.scalar (s.x rs1)) vd vs2 vm s

/-- `vfsub.vv` (R118). -/
def execVfsubVv (vd : BitVec 5) (vs2 : BitVec 5) (vs1 : BitVec 5) (_c2 : BitVec 1) (_c1 : BitVec 1) (vm : BitVec 1) (s : State) : Res :=
  vFloat fopSub (.reg vs1) vd vs2 vm s

/-- `vfsub.vf` (R118). -/
def execVfsubVf (vd : BitVec 5) (vs2 : BitVec 5) (rs1 : BitVec 5) (_c2 : BitVec 1) (vm : BitVec 1) (s : State) : Res :=
  vFloat fopSub (.scalar (s.x rs1)) vd vs2 vm s

/-- `vfmul.vv` (R118). -/
def execVfmulVv (vd : BitVec 5) (vs2 : BitVec 5) (vs1 : BitVec 5) (_c2 : BitVec 1) (_c1 : BitVec 1) (vm : BitVec 1) (s : State) : Res :=
  vFloat fopMul (.reg vs1) vd vs2 vm s

/-- `vfmul.vf` (R118). -/
def execVfmulVf (vd : BitVec 5) (vs2 : BitVec 5) (rs1 : BitVec 5) (_c2 : BitVec 1) (vm : BitVec 1) (s : State) : Res :=
  vFloat fopMul (.scalar (s.x rs1)) vd vs2 vm s

/-- `vfdiv.vv` (R118). -/
def execVfdivVv (vd : BitVec 5) (vs2 : BitVec 5) (vs1 : BitVec 5) (_c2 : BitVec 1) (_c1 : BitVec 1) (vm : BitVec 1) (s : State) : Res :=
  vFloat fopDiv (.reg vs1) vd vs2 vm s

/-- `vfdiv.vf` (R118). -/
def execVfdivVf (vd : BitVec 5) (vs2 : BitVec 5) (rs1 : BitVec 5) (_c2 : BitVec 1) (vm : BitVec 1) (s : State) : Res :=
  vFloat fopDiv (.scalar (s.x rs1)) vd vs2 vm s

/-- `vfmacc.vv` (R118). -/
def execVfmaccVv (vd : BitVec 5) (vs2 : BitVec 5) (vs1 : BitVec 5) (_c2 : BitVec 1) (_c1 : BitVec 1) (vm : BitVec 1) (s : State) : Res :=
  vFloat fopMacc (.reg vs1) vd vs2 vm s

/-- `vfmacc.vf` (R118). -/
def execVfmaccVf (vd : BitVec 5) (vs2 : BitVec 5) (rs1 : BitVec 5) (_c2 : BitVec 1) (vm : BitVec 1) (s : State) : Res :=
  vFloat fopMacc (.scalar (s.x rs1)) vd vs2 vm s

/-- `vfnmacc.vv` (R118). -/
def execVfnmaccVv (vd : BitVec 5) (vs2 : BitVec 5) (vs1 : BitVec 5) (_c2 : BitVec 1) (_c1 : BitVec 1) (vm : BitVec 1) (s : State) : Res :=
  vFloat fopNmacc (.reg vs1) vd vs2 vm s

/-- `vfnmacc.vf` (R118). -/
def execVfnmaccVf (vd : BitVec 5) (vs2 : BitVec 5) (rs1 : BitVec 5) (_c2 : BitVec 1) (vm : BitVec 1) (s : State) : Res :=
  vFloat fopNmacc (.scalar (s.x rs1)) vd vs2 vm s

/-- `vfmsac.vv` (R118). -/
def execVfmsacVv (vd : BitVec 5) (vs2 : BitVec 5) (vs1 : BitVec 5) (_c2 : BitVec 1) (_c1 : BitVec 1) (vm : BitVec 1) (s : State) : Res :=
  vFloat fopMsac (.reg vs1) vd vs2 vm s

/-- `vfmsac.vf` (R118). -/
def execVfmsacVf (vd : BitVec 5) (vs2 : BitVec 5) (rs1 : BitVec 5) (_c2 : BitVec 1) (vm : BitVec 1) (s : State) : Res :=
  vFloat fopMsac (.scalar (s.x rs1)) vd vs2 vm s

/-- `vfmin.vv` (R118). -/
def execVfminVv (vd : BitVec 5) (vs2 : BitVec 5) (vs1 : BitVec 5) (_c2 : BitVec 1) (_c1 : BitVec 1) (vm : BitVec 1) (s : State) : Res :=
  vFloat fopMin (.reg vs1) vd vs2 vm s

/-- `vfmin.vf` (R118). -/
def execVfminVf (vd : BitVec 5) (vs2 : BitVec 5) (rs1 : BitVec 5) (_c2 : BitVec 1) (vm : BitVec 1) (s : State) : Res :=
  vFloat fopMin (.scalar (s.x rs1)) vd vs2 vm s

/-- `vfmax.vv` (R118). -/
def execVfmaxVv (vd : BitVec 5) (vs2 : BitVec 5) (vs1 : BitVec 5) (_c2 : BitVec 1) (_c1 : BitVec 1) (vm : BitVec 1) (s : State) : Res :=
  vFloat fopMax (.reg vs1) vd vs2 vm s

/-- `vfmax.vf` (R118). -/
def execVfmaxVf (vd : BitVec 5) (vs2 : BitVec 5) (rs1 : BitVec 5) (_c2 : BitVec 1) (vm : BitVec 1) (s : State) : Res :=
  vFloat fopMax (.scalar (s.x rs1)) vd vs2 vm s

/-- `vfsgnj.vv` (R118). -/
def execVfsgnjVv (vd : BitVec 5) (vs2 : BitVec 5) (vs1 : BitVec 5) (_c2 : BitVec 1) (_c1 : BitVec 1) (vm : BitVec 1) (s : State) : Res :=
  vFloat fopSgnj (.reg vs1) vd vs2 vm s

/-- `vfsgnj.vf` (R118). -/
def execVfsgnjVf (vd : BitVec 5) (vs2 : BitVec 5) (rs1 : BitVec 5) (_c2 : BitVec 1) (vm : BitVec 1) (s : State) : Res :=
  vFloat fopSgnj (.scalar (s.x rs1)) vd vs2 vm s

/-- `vfsgnjn.vv` (R118). -/
def execVfsgnjnVv (vd : BitVec 5) (vs2 : BitVec 5) (vs1 : BitVec 5) (_c2 : BitVec 1) (_c1 : BitVec 1) (vm : BitVec 1) (s : State) : Res :=
  vFloat fopSgnjn (.reg vs1) vd vs2 vm s

/-- `vfsgnjn.vf` (R118). -/
def execVfsgnjnVf (vd : BitVec 5) (vs2 : BitVec 5) (rs1 : BitVec 5) (_c2 : BitVec 1) (vm : BitVec 1) (s : State) : Res :=
  vFloat fopSgnjn (.scalar (s.x rs1)) vd vs2 vm s

/-- `vfsgnjx.vv` (R118). -/
def execVfsgnjxVv (vd : BitVec 5) (vs2 : BitVec 5) (vs1 : BitVec 5) (_c2 : BitVec 1) (_c1 : BitVec 1) (vm : BitVec 1) (s : State) : Res :=
  vFloat fopSgnjx (.reg vs1) vd vs2 vm s

/-- `vfsgnjx.vf` (R118). -/
def execVfsgnjxVf (vd : BitVec 5) (vs2 : BitVec 5) (rs1 : BitVec 5) (_c2 : BitVec 1) (vm : BitVec 1) (s : State) : Res :=
  vFloat fopSgnjx (.scalar (s.x rs1)) vd vs2 vm s

/-- `vfsqrt` (R118). -/
def execVfsqrt (vd : BitVec 5) (vs2 : BitVec 5) (_c2 : BitVec 1) (vm : BitVec 1) (s : State) : Res :=
  vFloat1 s.fpFmt fopSqrt vd vs2 vm s

/-- `vfclass` (R118). -/
def execVfclass (vd : BitVec 5) (vs2 : BitVec 5) (_c2 : BitVec 1) (vm : BitVec 1) (s : State) : Res :=
  vFloat1 s.fpFmt fopClass vd vs2 vm s

/-- `vmfeq` (R121, R85). -/
def execVmfeq (vd : BitVec 5) (vs2 : BitVec 5) (vs1 : BitVec 5) (_c2 : BitVec 1) (_c1 : BitVec 1) (vm : BitVec 1) (s : State) : Res :=
  vFcmp .eq vd vs2 vs1 vm s

/-- `vmfne` (R121, R85). -/
def execVmfne (vd : BitVec 5) (vs2 : BitVec 5) (vs1 : BitVec 5) (_c2 : BitVec 1) (_c1 : BitVec 1) (vm : BitVec 1) (s : State) : Res :=
  vFcmp .ne vd vs2 vs1 vm s

/-- `vmflt` (R121, R85). -/
def execVmflt (vd : BitVec 5) (vs2 : BitVec 5) (vs1 : BitVec 5) (_c2 : BitVec 1) (_c1 : BitVec 1) (vm : BitVec 1) (s : State) : Res :=
  vFcmp .lt vd vs2 vs1 vm s

/-- `vmfle` (R121, R85). -/
def execVmfle (vd : BitVec 5) (vs2 : BitVec 5) (vs1 : BitVec 5) (_c2 : BitVec 1) (_c1 : BitVec 1) (vm : BitVec 1) (s : State) : Res :=
  vFcmp .le vd vs2 vs1 vm s

/-- `vfrsqrt` (R119). -/
def execVfrsqrt (vd : BitVec 5) (vs2 : BitVec 5) (_c2 : BitVec 1) (vm : BitVec 1) (s : State) : Res :=
  vFloat1 s.sfFmt (fopSf .rsqrt) vd vs2 vm s

/-- `vfrcp` (R119). -/
def execVfrcp (vd : BitVec 5) (vs2 : BitVec 5) (_c2 : BitVec 1) (vm : BitVec 1) (s : State) : Res :=
  vFloat1 s.sfFmt (fopSf .rcp) vd vs2 vm s

/-- `vfexp2` (R119). -/
def execVfexp2 (vd : BitVec 5) (vs2 : BitVec 5) (_c2 : BitVec 1) (vm : BitVec 1) (s : State) : Res :=
  vFloat1 s.sfFmt (fopSf .exp2) vd vs2 vm s

/-- `vflog2` (R119). -/
def execVflog2 (vd : BitVec 5) (vs2 : BitVec 5) (_c2 : BitVec 1) (vm : BitVec 1) (s : State) : Res :=
  vFloat1 s.sfFmt (fopSf .log2) vd vs2 vm s

/-- `vfsin` (R119). -/
def execVfsin (vd : BitVec 5) (vs2 : BitVec 5) (_c2 : BitVec 1) (vm : BitVec 1) (s : State) : Res :=
  vFloat1 s.sfFmt (fopSf .sin) vd vs2 vm s

/-- `vfcos` (R119). -/
def execVfcos (vd : BitVec 5) (vs2 : BitVec 5) (_c2 : BitVec 1) (vm : BitVec 1) (s : State) : Res :=
  vFloat1 s.sfFmt (fopSf .cos) vd vs2 vm s

/-- `vcvt` (R120). -/
def execVcvt (vd : BitVec 5) (vs2 : BitVec 5) (w : BitVec 2) (f : BitVec 3) (_c2 : BitVec 1) (vm : BitVec 1) (s : State) : Res :=
  wellFormed (legalPair f w) s (
    vConvert vd vs2 (8 * 2 ^ w.toNat) (fmtOf f (8 * 2 ^ w.toNat)) vm s)

end Sys2Proof.Machine
end

