-- ==== Sys2Proof/Machine/VecInt.lean ====
section
/-!
DEFINITION. Machine/VecInt.lean: the integer element operations of R116 and R117 and the integer compares of R121.
The second operand is a register, `x[rs1]`, or the immediate, sign-extended but for the shifts (R48). Chain bits
change timing only (R115).
-/

namespace Sys2Proof.Machine

/-! ### The operations, on w-bit elements a, b and the old d -/

/-- Shift amount: the low log2 w bits of b. -/
def shiftBy (w : Nat) (b : Word) : Nat := ug b 64 % w

def vopAdd (_ : Nat) (a b _ : Word) : Word := a + b
def vopSub (_ : Nat) (a b _ : Word) : Word := a - b
def vopMul (_ : Nat) (a b _ : Word) : Word := a * b
def vopMulh (w : Nat) (a b _ : Word) : Word := wordOfInt (sg a w * sg b w / (2 ^ w : Nat))
def vopMulhu (w : Nat) (a b _ : Word) : Word := BitVec.ofNat 64 (ug a w * ug b w / 2 ^ w)
def vopMacc (_ : Nat) (a b d : Word) : Word := d + a * b
def vopAnd (_ : Nat) (a b _ : Word) : Word := a &&& b
def vopOr (_ : Nat) (a b _ : Word) : Word := a ||| b
def vopXor (_ : Nat) (a b _ : Word) : Word := a ^^^ b
def vopSll (w : Nat) (a b _ : Word) : Word := a <<< shiftBy w b
def vopSrl (w : Nat) (a b _ : Word) : Word := BitVec.ofNat 64 (ug a w / 2 ^ shiftBy w b)
def vopSra (w : Nat) (a b _ : Word) : Word := wordOfInt (sg a w / (2 ^ shiftBy w b : Nat))
def vopMin (w : Nat) (a b _ : Word) : Word := if sg b w < sg a w then b else a
def vopMax (w : Nat) (a b _ : Word) : Word := if sg a w < sg b w then b else a
def vopMinu (w : Nat) (a b _ : Word) : Word := if ug b w < ug a w then b else a
def vopMaxu (w : Nat) (a b _ : Word) : Word := if ug a w < ug b w then b else a

/-- An exact integer clamped to [lo, hi] (R117). -/
def clamp (lo hi x : Int) : Word := wordOfInt (if x < lo then lo else if hi < x then hi else x)
def smin (w : Nat) : Int := -2 ^ (w - 1)
def smax (w : Nat) : Int := 2 ^ (w - 1) - 1
def umax (w : Nat) : Int := 2 ^ w - 1

def vopSadd (w : Nat) (a b _ : Word) : Word := clamp (smin w) (smax w) (sg a w + sg b w)
def vopSaddu (w : Nat) (a b _ : Word) : Word := clamp 0 (umax w) ((ug a w : Int) + ug b w)
def vopSsub (w : Nat) (a b _ : Word) : Word := clamp (smin w) (smax w) (sg a w - sg b w)
def vopSsubu (w : Nat) (a b _ : Word) : Word := clamp 0 (umax w) ((ug a w : Int) - ug b w)
def vopDiv (w : Nat) (a b _ : Word) : Word := wordOfInt (sdivRem a b w).1
def vopDivu (w : Nat) (a b _ : Word) : Word := BitVec.ofNat 64 (udivRem a b w).1
def vopRem (w : Nat) (a b _ : Word) : Word := wordOfInt (sdivRem a b w).2
def vopRemu (w : Nat) (a b _ : Word) : Word := BitVec.ofNat 64 (udivRem a b w).2

/-! ### Compares (R121) -/

def cmpEq (w : Nat) (a b : Word) : Bool × Flags := (ug a w = ug b w, 0)
def cmpNe (w : Nat) (a b : Word) : Bool × Flags := (ug a w ≠ ug b w, 0)
def cmpLt (w : Nat) (a b : Word) : Bool × Flags := (sg a w < sg b w, 0)
def cmpLtu (w : Nat) (a b : Word) : Bool × Flags := (ug a w < ug b w, 0)
def cmpLe (w : Nat) (a b : Word) : Bool × Flags := (sg a w ≤ sg b w, 0)
def cmpLeu (w : Nat) (a b : Word) : Bool × Flags := (ug a w ≤ ug b w, 0)

/-! ### Merges and moves (R117) -/

/-- `vmerge`: every element from `vstart` on; `v0` selects. -/
def vMerge (src : Src) (vd vs2 : BitVec 5) (s : State) : Res :=
  let reads := vs2.toNat :: src.reads
  vguard false true [vd.toNat] reads s (
    let w := s.sew
    vrun 0 reads (fun i => needElem w vs2.toNat i :: src.needs w i) (fun i s =>
      .done (s.setVelem vd.toNat w i (if s.mbit 0 i then src.value s w i else s.velem vs2.toNat w i))) s)

/-- `vmv`. -/
def vMove (src : Src) (vd : BitVec 5) (s : State) : Res :=
  vguard false true [vd.toNat] src.reads s (
    let w := s.sew
    vrun 0 src.reads (fun i => src.needs w i) (fun i s =>
      .done (s.setVelem vd.toNat w i (src.value s w i))) s)

/-! ### The instructions -/

/-- `vadd.vv` (R116). -/
def execVaddVv (vd : BitVec 5) (vs2 : BitVec 5) (vs1 : BitVec 5) (_c2 : BitVec 1) (_c1 : BitVec 1) (vm : BitVec 1) (s : State) : Res :=
  vInt vopAdd (.reg vs1) vd vs2 vm s

/-- `vadd.vx` (R116). -/
def execVaddVx (vd : BitVec 5) (vs2 : BitVec 5) (rs1 : BitVec 5) (_c2 : BitVec 1) (vm : BitVec 1) (s : State) : Res :=
  vInt vopAdd (.scalar (s.x rs1)) vd vs2 vm s

/-- `vadd.vi` (R116). -/
def execVaddVi (vd : BitVec 5) (vs2 : BitVec 5) (imm : BitVec 5) (_c2 : BitVec 1) (vm : BitVec 1) (s : State) : Res :=
  vInt vopAdd (.scalar (imm5 imm)) vd vs2 vm s

/-- `vsub.vv` (R116). -/
def execVsubVv (vd : BitVec 5) (vs2 : BitVec 5) (vs1 : BitVec 5) (_c2 : BitVec 1) (_c1 : BitVec 1) (vm : BitVec 1) (s : State) : Res :=
  vInt vopSub (.reg vs1) vd vs2 vm s

/-- `vsub.vx` (R116). -/
def execVsubVx (vd : BitVec 5) (vs2 : BitVec 5) (rs1 : BitVec 5) (_c2 : BitVec 1) (vm : BitVec 1) (s : State) : Res :=
  vInt vopSub (.scalar (s.x rs1)) vd vs2 vm s

/-- `vmul.vv` (R116). -/
def execVmulVv (vd : BitVec 5) (vs2 : BitVec 5) (vs1 : BitVec 5) (_c2 : BitVec 1) (_c1 : BitVec 1) (vm : BitVec 1) (s : State) : Res :=
  vInt vopMul (.reg vs1) vd vs2 vm s

/-- `vmul.vx` (R116). -/
def execVmulVx (vd : BitVec 5) (vs2 : BitVec 5) (rs1 : BitVec 5) (_c2 : BitVec 1) (vm : BitVec 1) (s : State) : Res :=
  vInt vopMul (.scalar (s.x rs1)) vd vs2 vm s

/-- `vmulh.vv` (R116). -/
def execVmulhVv (vd : BitVec 5) (vs2 : BitVec 5) (vs1 : BitVec 5) (_c2 : BitVec 1) (_c1 : BitVec 1) (vm : BitVec 1) (s : State) : Res :=
  vInt vopMulh (.reg vs1) vd vs2 vm s

/-- `vmulh.vx` (R116). -/
def execVmulhVx (vd : BitVec 5) (vs2 : BitVec 5) (rs1 : BitVec 5) (_c2 : BitVec 1) (vm : BitVec 1) (s : State) : Res :=
  vInt vopMulh (.scalar (s.x rs1)) vd vs2 vm s

/-- `vmulhu.vv` (R116). -/
def execVmulhuVv (vd : BitVec 5) (vs2 : BitVec 5) (vs1 : BitVec 5) (_c2 : BitVec 1) (_c1 : BitVec 1) (vm : BitVec 1) (s : State) : Res :=
  vInt vopMulhu (.reg vs1) vd vs2 vm s

/-- `vmulhu.vx` (R116). -/
def execVmulhuVx (vd : BitVec 5) (vs2 : BitVec 5) (rs1 : BitVec 5) (_c2 : BitVec 1) (vm : BitVec 1) (s : State) : Res :=
  vInt vopMulhu (.scalar (s.x rs1)) vd vs2 vm s

/-- `vmacc.vv` (R116). -/
def execVmaccVv (vd : BitVec 5) (vs2 : BitVec 5) (vs1 : BitVec 5) (_c2 : BitVec 1) (_c1 : BitVec 1) (vm : BitVec 1) (s : State) : Res :=
  vInt vopMacc (.reg vs1) vd vs2 vm s

/-- `vmacc.vx` (R116). -/
def execVmaccVx (vd : BitVec 5) (vs2 : BitVec 5) (rs1 : BitVec 5) (_c2 : BitVec 1) (vm : BitVec 1) (s : State) : Res :=
  vInt vopMacc (.scalar (s.x rs1)) vd vs2 vm s

/-- `vand.vv` (R116). -/
def execVandVv (vd : BitVec 5) (vs2 : BitVec 5) (vs1 : BitVec 5) (_c2 : BitVec 1) (_c1 : BitVec 1) (vm : BitVec 1) (s : State) : Res :=
  vInt vopAnd (.reg vs1) vd vs2 vm s

/-- `vand.vx` (R116). -/
def execVandVx (vd : BitVec 5) (vs2 : BitVec 5) (rs1 : BitVec 5) (_c2 : BitVec 1) (vm : BitVec 1) (s : State) : Res :=
  vInt vopAnd (.scalar (s.x rs1)) vd vs2 vm s

/-- `vand.vi` (R116). -/
def execVandVi (vd : BitVec 5) (vs2 : BitVec 5) (imm : BitVec 5) (_c2 : BitVec 1) (vm : BitVec 1) (s : State) : Res :=
  vInt vopAnd (.scalar (imm5 imm)) vd vs2 vm s

/-- `vor.vv` (R116). -/
def execVorVv (vd : BitVec 5) (vs2 : BitVec 5) (vs1 : BitVec 5) (_c2 : BitVec 1) (_c1 : BitVec 1) (vm : BitVec 1) (s : State) : Res :=
  vInt vopOr (.reg vs1) vd vs2 vm s

/-- `vor.vx` (R116). -/
def execVorVx (vd : BitVec 5) (vs2 : BitVec 5) (rs1 : BitVec 5) (_c2 : BitVec 1) (vm : BitVec 1) (s : State) : Res :=
  vInt vopOr (.scalar (s.x rs1)) vd vs2 vm s

/-- `vor.vi` (R116). -/
def execVorVi (vd : BitVec 5) (vs2 : BitVec 5) (imm : BitVec 5) (_c2 : BitVec 1) (vm : BitVec 1) (s : State) : Res :=
  vInt vopOr (.scalar (imm5 imm)) vd vs2 vm s

/-- `vxor.vv` (R116). -/
def execVxorVv (vd : BitVec 5) (vs2 : BitVec 5) (vs1 : BitVec 5) (_c2 : BitVec 1) (_c1 : BitVec 1) (vm : BitVec 1) (s : State) : Res :=
  vInt vopXor (.reg vs1) vd vs2 vm s

/-- `vxor.vx` (R116). -/
def execVxorVx (vd : BitVec 5) (vs2 : BitVec 5) (rs1 : BitVec 5) (_c2 : BitVec 1) (vm : BitVec 1) (s : State) : Res :=
  vInt vopXor (.scalar (s.x rs1)) vd vs2 vm s

/-- `vxor.vi` (R116). -/
def execVxorVi (vd : BitVec 5) (vs2 : BitVec 5) (imm : BitVec 5) (_c2 : BitVec 1) (vm : BitVec 1) (s : State) : Res :=
  vInt vopXor (.scalar (imm5 imm)) vd vs2 vm s

/-- `vsll.vv` (R116). -/
def execVsllVv (vd : BitVec 5) (vs2 : BitVec 5) (vs1 : BitVec 5) (_c2 : BitVec 1) (_c1 : BitVec 1) (vm : BitVec 1) (s : State) : Res :=
  vInt vopSll (.reg vs1) vd vs2 vm s

/-- `vsll.vx` (R116). -/
def execVsllVx (vd : BitVec 5) (vs2 : BitVec 5) (rs1 : BitVec 5) (_c2 : BitVec 1) (vm : BitVec 1) (s : State) : Res :=
  vInt vopSll (.scalar (s.x rs1)) vd vs2 vm s

/-- `vsll.vi` (R116). -/
def execVsllVi (vd : BitVec 5) (vs2 : BitVec 5) (imm : BitVec 5) (_c2 : BitVec 1) (vm : BitVec 1) (s : State) : Res :=
  vInt vopSll (.scalar (imm.setWidth 64)) vd vs2 vm s

/-- `vsrl.vv` (R116). -/
def execVsrlVv (vd : BitVec 5) (vs2 : BitVec 5) (vs1 : BitVec 5) (_c2 : BitVec 1) (_c1 : BitVec 1) (vm : BitVec 1) (s : State) : Res :=
  vInt vopSrl (.reg vs1) vd vs2 vm s

/-- `vsrl.vx` (R116). -/
def execVsrlVx (vd : BitVec 5) (vs2 : BitVec 5) (rs1 : BitVec 5) (_c2 : BitVec 1) (vm : BitVec 1) (s : State) : Res :=
  vInt vopSrl (.scalar (s.x rs1)) vd vs2 vm s

/-- `vsrl.vi` (R116). -/
def execVsrlVi (vd : BitVec 5) (vs2 : BitVec 5) (imm : BitVec 5) (_c2 : BitVec 1) (vm : BitVec 1) (s : State) : Res :=
  vInt vopSrl (.scalar (imm.setWidth 64)) vd vs2 vm s

/-- `vsra.vv` (R116). -/
def execVsraVv (vd : BitVec 5) (vs2 : BitVec 5) (vs1 : BitVec 5) (_c2 : BitVec 1) (_c1 : BitVec 1) (vm : BitVec 1) (s : State) : Res :=
  vInt vopSra (.reg vs1) vd vs2 vm s

/-- `vsra.vx` (R116). -/
def execVsraVx (vd : BitVec 5) (vs2 : BitVec 5) (rs1 : BitVec 5) (_c2 : BitVec 1) (vm : BitVec 1) (s : State) : Res :=
  vInt vopSra (.scalar (s.x rs1)) vd vs2 vm s

/-- `vsra.vi` (R116). -/
def execVsraVi (vd : BitVec 5) (vs2 : BitVec 5) (imm : BitVec 5) (_c2 : BitVec 1) (vm : BitVec 1) (s : State) : Res :=
  vInt vopSra (.scalar (imm.setWidth 64)) vd vs2 vm s

/-- `vmin.vv` (R116). -/
def execVminVv (vd : BitVec 5) (vs2 : BitVec 5) (vs1 : BitVec 5) (_c2 : BitVec 1) (_c1 : BitVec 1) (vm : BitVec 1) (s : State) : Res :=
  vInt vopMin (.reg vs1) vd vs2 vm s

/-- `vmin.vx` (R116). -/
def execVminVx (vd : BitVec 5) (vs2 : BitVec 5) (rs1 : BitVec 5) (_c2 : BitVec 1) (vm : BitVec 1) (s : State) : Res :=
  vInt vopMin (.scalar (s.x rs1)) vd vs2 vm s

/-- `vmax.vv` (R116). -/
def execVmaxVv (vd : BitVec 5) (vs2 : BitVec 5) (vs1 : BitVec 5) (_c2 : BitVec 1) (_c1 : BitVec 1) (vm : BitVec 1) (s : State) : Res :=
  vInt vopMax (.reg vs1) vd vs2 vm s

/-- `vmax.vx` (R116). -/
def execVmaxVx (vd : BitVec 5) (vs2 : BitVec 5) (rs1 : BitVec 5) (_c2 : BitVec 1) (vm : BitVec 1) (s : State) : Res :=
  vInt vopMax (.scalar (s.x rs1)) vd vs2 vm s

/-- `vminu.vv` (R116). -/
def execVminuVv (vd : BitVec 5) (vs2 : BitVec 5) (vs1 : BitVec 5) (_c2 : BitVec 1) (_c1 : BitVec 1) (vm : BitVec 1) (s : State) : Res :=
  vInt vopMinu (.reg vs1) vd vs2 vm s

/-- `vminu.vx` (R116). -/
def execVminuVx (vd : BitVec 5) (vs2 : BitVec 5) (rs1 : BitVec 5) (_c2 : BitVec 1) (vm : BitVec 1) (s : State) : Res :=
  vInt vopMinu (.scalar (s.x rs1)) vd vs2 vm s

/-- `vmaxu.vv` (R116). -/
def execVmaxuVv (vd : BitVec 5) (vs2 : BitVec 5) (vs1 : BitVec 5) (_c2 : BitVec 1) (_c1 : BitVec 1) (vm : BitVec 1) (s : State) : Res :=
  vInt vopMaxu (.reg vs1) vd vs2 vm s

/-- `vmaxu.vx` (R116). -/
def execVmaxuVx (vd : BitVec 5) (vs2 : BitVec 5) (rs1 : BitVec 5) (_c2 : BitVec 1) (vm : BitVec 1) (s : State) : Res :=
  vInt vopMaxu (.scalar (s.x rs1)) vd vs2 vm s

/-- `vsadd.vv` (R117). -/
def execVsaddVv (vd : BitVec 5) (vs2 : BitVec 5) (vs1 : BitVec 5) (_c2 : BitVec 1) (_c1 : BitVec 1) (vm : BitVec 1) (s : State) : Res :=
  vInt vopSadd (.reg vs1) vd vs2 vm s

/-- `vsadd.vx` (R117). -/
def execVsaddVx (vd : BitVec 5) (vs2 : BitVec 5) (rs1 : BitVec 5) (_c2 : BitVec 1) (vm : BitVec 1) (s : State) : Res :=
  vInt vopSadd (.scalar (s.x rs1)) vd vs2 vm s

/-- `vsadd.vi` (R117). -/
def execVsaddVi (vd : BitVec 5) (vs2 : BitVec 5) (imm : BitVec 5) (_c2 : BitVec 1) (vm : BitVec 1) (s : State) : Res :=
  vInt vopSadd (.scalar (imm5 imm)) vd vs2 vm s

/-- `vsaddu.vv` (R117). -/
def execVsadduVv (vd : BitVec 5) (vs2 : BitVec 5) (vs1 : BitVec 5) (_c2 : BitVec 1) (_c1 : BitVec 1) (vm : BitVec 1) (s : State) : Res :=
  vInt vopSaddu (.reg vs1) vd vs2 vm s

/-- `vsaddu.vx` (R117). -/
def execVsadduVx (vd : BitVec 5) (vs2 : BitVec 5) (rs1 : BitVec 5) (_c2 : BitVec 1) (vm : BitVec 1) (s : State) : Res :=
  vInt vopSaddu (.scalar (s.x rs1)) vd vs2 vm s

/-- `vsaddu.vi` (R117). -/
def execVsadduVi (vd : BitVec 5) (vs2 : BitVec 5) (imm : BitVec 5) (_c2 : BitVec 1) (vm : BitVec 1) (s : State) : Res :=
  vInt vopSaddu (.scalar (imm5 imm)) vd vs2 vm s

/-- `vssub.vv` (R117). -/
def execVssubVv (vd : BitVec 5) (vs2 : BitVec 5) (vs1 : BitVec 5) (_c2 : BitVec 1) (_c1 : BitVec 1) (vm : BitVec 1) (s : State) : Res :=
  vInt vopSsub (.reg vs1) vd vs2 vm s

/-- `vssub.vx` (R117). -/
def execVssubVx (vd : BitVec 5) (vs2 : BitVec 5) (rs1 : BitVec 5) (_c2 : BitVec 1) (vm : BitVec 1) (s : State) : Res :=
  vInt vopSsub (.scalar (s.x rs1)) vd vs2 vm s

/-- `vssubu.vv` (R117). -/
def execVssubuVv (vd : BitVec 5) (vs2 : BitVec 5) (vs1 : BitVec 5) (_c2 : BitVec 1) (_c1 : BitVec 1) (vm : BitVec 1) (s : State) : Res :=
  vInt vopSsubu (.reg vs1) vd vs2 vm s

/-- `vssubu.vx` (R117). -/
def execVssubuVx (vd : BitVec 5) (vs2 : BitVec 5) (rs1 : BitVec 5) (_c2 : BitVec 1) (vm : BitVec 1) (s : State) : Res :=
  vInt vopSsubu (.scalar (s.x rs1)) vd vs2 vm s

/-- `vdiv.vv` (R117). -/
def execVdivVv (vd : BitVec 5) (vs2 : BitVec 5) (vs1 : BitVec 5) (_c2 : BitVec 1) (_c1 : BitVec 1) (vm : BitVec 1) (s : State) : Res :=
  vInt vopDiv (.reg vs1) vd vs2 vm s

/-- `vdiv.vx` (R117). -/
def execVdivVx (vd : BitVec 5) (vs2 : BitVec 5) (rs1 : BitVec 5) (_c2 : BitVec 1) (vm : BitVec 1) (s : State) : Res :=
  vInt vopDiv (.scalar (s.x rs1)) vd vs2 vm s

/-- `vdivu.vv` (R117). -/
def execVdivuVv (vd : BitVec 5) (vs2 : BitVec 5) (vs1 : BitVec 5) (_c2 : BitVec 1) (_c1 : BitVec 1) (vm : BitVec 1) (s : State) : Res :=
  vInt vopDivu (.reg vs1) vd vs2 vm s

/-- `vdivu.vx` (R117). -/
def execVdivuVx (vd : BitVec 5) (vs2 : BitVec 5) (rs1 : BitVec 5) (_c2 : BitVec 1) (vm : BitVec 1) (s : State) : Res :=
  vInt vopDivu (.scalar (s.x rs1)) vd vs2 vm s

/-- `vrem.vv` (R117). -/
def execVremVv (vd : BitVec 5) (vs2 : BitVec 5) (vs1 : BitVec 5) (_c2 : BitVec 1) (_c1 : BitVec 1) (vm : BitVec 1) (s : State) : Res :=
  vInt vopRem (.reg vs1) vd vs2 vm s

/-- `vrem.vx` (R117). -/
def execVremVx (vd : BitVec 5) (vs2 : BitVec 5) (rs1 : BitVec 5) (_c2 : BitVec 1) (vm : BitVec 1) (s : State) : Res :=
  vInt vopRem (.scalar (s.x rs1)) vd vs2 vm s

/-- `vremu.vv` (R117). -/
def execVremuVv (vd : BitVec 5) (vs2 : BitVec 5) (vs1 : BitVec 5) (_c2 : BitVec 1) (_c1 : BitVec 1) (vm : BitVec 1) (s : State) : Res :=
  vInt vopRemu (.reg vs1) vd vs2 vm s

/-- `vremu.vx` (R117). -/
def execVremuVx (vd : BitVec 5) (vs2 : BitVec 5) (rs1 : BitVec 5) (_c2 : BitVec 1) (vm : BitVec 1) (s : State) : Res :=
  vInt vopRemu (.scalar (s.x rs1)) vd vs2 vm s

/-- `vmseq.vv` (R121). -/
def execVmseqVv (vd : BitVec 5) (vs2 : BitVec 5) (vs1 : BitVec 5) (_c2 : BitVec 1) (_c1 : BitVec 1) (vm : BitVec 1) (s : State) : Res :=
  vCompare true cmpEq (.reg vs1) vd vs2 vm s

/-- `vmseq.vx` (R121). -/
def execVmseqVx (vd : BitVec 5) (vs2 : BitVec 5) (rs1 : BitVec 5) (_c2 : BitVec 1) (vm : BitVec 1) (s : State) : Res :=
  vCompare true cmpEq (.scalar (s.x rs1)) vd vs2 vm s

/-- `vmseq.vi` (R121). -/
def execVmseqVi (vd : BitVec 5) (vs2 : BitVec 5) (imm : BitVec 5) (_c2 : BitVec 1) (vm : BitVec 1) (s : State) : Res :=
  vCompare true cmpEq (.scalar (imm5 imm)) vd vs2 vm s

/-- `vmsne.vv` (R121). -/
def execVmsneVv (vd : BitVec 5) (vs2 : BitVec 5) (vs1 : BitVec 5) (_c2 : BitVec 1) (_c1 : BitVec 1) (vm : BitVec 1) (s : State) : Res :=
  vCompare true cmpNe (.reg vs1) vd vs2 vm s

/-- `vmsne.vx` (R121). -/
def execVmsneVx (vd : BitVec 5) (vs2 : BitVec 5) (rs1 : BitVec 5) (_c2 : BitVec 1) (vm : BitVec 1) (s : State) : Res :=
  vCompare true cmpNe (.scalar (s.x rs1)) vd vs2 vm s

/-- `vmsne.vi` (R121). -/
def execVmsneVi (vd : BitVec 5) (vs2 : BitVec 5) (imm : BitVec 5) (_c2 : BitVec 1) (vm : BitVec 1) (s : State) : Res :=
  vCompare true cmpNe (.scalar (imm5 imm)) vd vs2 vm s

/-- `vmslt.vv` (R121). -/
def execVmsltVv (vd : BitVec 5) (vs2 : BitVec 5) (vs1 : BitVec 5) (_c2 : BitVec 1) (_c1 : BitVec 1) (vm : BitVec 1) (s : State) : Res :=
  vCompare true cmpLt (.reg vs1) vd vs2 vm s

/-- `vmslt.vx` (R121). -/
def execVmsltVx (vd : BitVec 5) (vs2 : BitVec 5) (rs1 : BitVec 5) (_c2 : BitVec 1) (vm : BitVec 1) (s : State) : Res :=
  vCompare true cmpLt (.scalar (s.x rs1)) vd vs2 vm s

/-- `vmsltu.vv` (R121). -/
def execVmsltuVv (vd : BitVec 5) (vs2 : BitVec 5) (vs1 : BitVec 5) (_c2 : BitVec 1) (_c1 : BitVec 1) (vm : BitVec 1) (s : State) : Res :=
  vCompare true cmpLtu (.reg vs1) vd vs2 vm s

/-- `vmsltu.vx` (R121). -/
def execVmsltuVx (vd : BitVec 5) (vs2 : BitVec 5) (rs1 : BitVec 5) (_c2 : BitVec 1) (vm : BitVec 1) (s : State) : Res :=
  vCompare true cmpLtu (.scalar (s.x rs1)) vd vs2 vm s

/-- `vmsle.vv` (R121). -/
def execVmsleVv (vd : BitVec 5) (vs2 : BitVec 5) (vs1 : BitVec 5) (_c2 : BitVec 1) (_c1 : BitVec 1) (vm : BitVec 1) (s : State) : Res :=
  vCompare true cmpLe (.reg vs1) vd vs2 vm s

/-- `vmsle.vx` (R121). -/
def execVmsleVx (vd : BitVec 5) (vs2 : BitVec 5) (rs1 : BitVec 5) (_c2 : BitVec 1) (vm : BitVec 1) (s : State) : Res :=
  vCompare true cmpLe (.scalar (s.x rs1)) vd vs2 vm s

/-- `vmsle.vi` (R121). -/
def execVmsleVi (vd : BitVec 5) (vs2 : BitVec 5) (imm : BitVec 5) (_c2 : BitVec 1) (vm : BitVec 1) (s : State) : Res :=
  vCompare true cmpLe (.scalar (imm5 imm)) vd vs2 vm s

/-- `vmsleu.vv` (R121). -/
def execVmsleuVv (vd : BitVec 5) (vs2 : BitVec 5) (vs1 : BitVec 5) (_c2 : BitVec 1) (_c1 : BitVec 1) (vm : BitVec 1) (s : State) : Res :=
  vCompare true cmpLeu (.reg vs1) vd vs2 vm s

/-- `vmsleu.vx` (R121). -/
def execVmsleuVx (vd : BitVec 5) (vs2 : BitVec 5) (rs1 : BitVec 5) (_c2 : BitVec 1) (vm : BitVec 1) (s : State) : Res :=
  vCompare true cmpLeu (.scalar (s.x rs1)) vd vs2 vm s

/-- `vmsleu.vi` (R121). -/
def execVmsleuVi (vd : BitVec 5) (vs2 : BitVec 5) (imm : BitVec 5) (_c2 : BitVec 1) (vm : BitVec 1) (s : State) : Res :=
  vCompare true cmpLeu (.scalar (imm5 imm)) vd vs2 vm s

/-- `vmerge.vv` (R117). -/
def execVmergeVv (vd : BitVec 5) (vs2 : BitVec 5) (vs1 : BitVec 5) (_c2 : BitVec 1) (_c1 : BitVec 1) (s : State) : Res :=
  vMerge (.reg vs1) vd vs2 s

/-- `vmv.vv` (R117). -/
def execVmvVv (vd : BitVec 5) (vs1 : BitVec 5) (_c1 : BitVec 1) (s : State) : Res :=
  vMove (.reg vs1) vd s

/-- `vmerge.vx` (R117). -/
def execVmergeVx (vd : BitVec 5) (vs2 : BitVec 5) (rs1 : BitVec 5) (_c2 : BitVec 1) (s : State) : Res :=
  vMerge (.scalar (s.x rs1)) vd vs2 s

/-- `vmv.vx` (R117). -/
def execVmvVx (vd : BitVec 5) (rs1 : BitVec 5) (s : State) : Res :=
  vMove (.scalar (s.x rs1)) vd s

/-- `vmerge.vi` (R117). -/
def execVmergeVi (vd : BitVec 5) (vs2 : BitVec 5) (imm : BitVec 5) (_c2 : BitVec 1) (s : State) : Res :=
  vMerge (.scalar (imm5 imm)) vd vs2 s

/-- `vmv.vi` (R117). -/
def execVmvVi (vd : BitVec 5) (imm : BitVec 5) (s : State) : Res :=
  vMove (.scalar (imm5 imm)) vd s

end Sys2Proof.Machine
end

