-- ==== Sys2Proof/Machine/VecMask.lean ====
section
/-!
DEFINITION. Machine/VecMask.lean: configuration (R108), the mask operations (R122), reductions (R123), permutations
and scalar moves (R124), the mask stack (R125, R126), the fault mask (R127, R128) and `vappend` (R129).
-/

namespace Sys2Proof.Machine

/-! ### Configuration (R108) -/

/-- `vset` and `vsetv` with a requested type t. -/
def setConfig (rd rs1 : BitVec 5) (t : Word) (s : State) : Res :=
  onVector s (
    let avl := (s.x rs1).toNat
    let ok := bits t 8 56 = 0 && !bit t 3 && (bits t 0 3).toNat ≤ 3 && legalPair (bits t 4 3) (bits t 0 2)
    let vmax := s.vlen s.cur / (8 * 2 ^ (bits t 0 2).toNat)
    let vl :=
      if !ok then 0
      else if rs1 ≠ 0 then min avl vmax
      else if rd ≠ 0 then vmax
      else min s.vl vmax
    let s := s.modMe (fun h =>
      { h with
        vec := { h.vec with vtype := if ok then bits t 0 64 else 1 <<< 63, vl := vl, vstart := 0 }
        pin := none })
    retireX rd (BitVec.ofNat 64 vl) s)

/-- `vset` (R108, R49). -/
def execVset (rd : BitVec 5) (rs1 : BitVec 5) (z : BitVec 7) (s : State) : Res :=
  setConfig rd rs1 ((bits z 3 4 ++ (0 : BitVec 1) ++ bits z 0 3 : BitVec 8).setWidth 64) s

/-- `vsetv` (R108). -/
def execVsetv (rd : BitVec 5) (rs1 : BitVec 5) (rs2 : BitVec 5) (s : State) : Res := setConfig rd rs1 (s.x rs2) s

/-! ### Mask operations (R122) -/

/-- The needs of mask bits 0 to n − 1 of a register: one stretch of bits. -/
def needMask (r n : Nat) : List Need := if n = 0 then [] else [⟨r, 0, n, true⟩]

/-- Ones in bits 0 to vl − 1. -/
def lowOnes (n : Nat) : VReg := BitVec.ofNat 16384 (2 ^ n - 1)

/-- A mask logical: bits 0 to vl − 1 of `vd`. -/
def vMaskOp (f : VReg → VReg → VReg) (vd vs2 vs1 : BitVec 5) (s : State) : Res :=
  let reads := [vs2.toNat, vs1.toNat]
  vguard true true [vd.toNat] reads s (
    vwhole reads (needMask vs2.toNat s.vl ++ needMask vs1.toNat s.vl) (fun s =>
      let m := lowOnes s.vl
      .ok (s.setVreg vd.toNat
        ((s.vreg vd.toNat &&& ~~~m) ||| (f (s.vreg vs2.toNat) (s.vreg vs1.toNat) &&& m)))) s)

/-- `vmand`. -/
def execVmand (vd : BitVec 5) (vs2 : BitVec 5) (vs1 : BitVec 5) (_c2 : BitVec 1) (_c1 : BitVec 1) (s : State) : Res :=
  vMaskOp (fun a b => a &&& b) vd vs2 vs1 s
/-- `vmor`. -/
def execVmor (vd : BitVec 5) (vs2 : BitVec 5) (vs1 : BitVec 5) (_c2 : BitVec 1) (_c1 : BitVec 1) (s : State) : Res :=
  vMaskOp (fun a b => a ||| b) vd vs2 vs1 s
/-- `vmxor`. -/
def execVmxor (vd : BitVec 5) (vs2 : BitVec 5) (vs1 : BitVec 5) (_c2 : BitVec 1) (_c1 : BitVec 1) (s : State) : Res :=
  vMaskOp (fun a b => a ^^^ b) vd vs2 vs1 s
/-- `vmandn`. -/
def execVmandn (vd : BitVec 5) (vs2 : BitVec 5) (vs1 : BitVec 5) (_c2 : BitVec 1) (_c1 : BitVec 1) (s : State) : Res :=
  vMaskOp (fun a b => a &&& ~~~b) vd vs2 vs1 s

/-- The indices below vl whose mask bit in a register is set. -/
def State.setBits (s : State) (r : Nat) : List Nat := (upto s.vl).filter (fun i => s.mbit r i)

/-- A whole instruction that only writes `x[rd]`. -/
def vToX (rd : BitVec 5) (reads : List Nat) (needs : List Need) (f : State → Word) (s : State) : Res :=
  vguard true true [] reads s (vwhole reads needs (fun s => .ok (s.modMe (fun h => h.setX rd (f s)))) s)

/-- `vcpop`. -/
def execVcpop (rd : BitVec 5) (vs2 : BitVec 5) (_c2 : BitVec 1) (s : State) : Res :=
  vToX rd [vs2.toNat] (needMask vs2.toNat s.vl) (fun s => BitVec.ofNat 64 (s.setBits vs2.toNat).length) s

/-- `vfirst`. -/
def execVfirst (rd : BitVec 5) (vs2 : BitVec 5) (_c2 : BitVec 1) (s : State) : Res :=
  vToX rd [vs2.toNat] (needMask vs2.toNat s.vl) (fun s =>
    match s.setBits vs2.toNat with
    | i :: _ => BitVec.ofNat 64 i
    | [] => BitVec.allOnes 64) s

/-- `viota`: the count takes in every lower index, active or not. -/
def execViota (vd : BitVec 5) (vs2 : BitVec 5) (_c2 : BitVec 1) (vm : BitVec 1) (s : State) : Res :=
  let reads := [vs2.toNat]
  vguard false (vd ≠ vs2) [vd.toNat] reads s (
    let w := s.sew
    vrun vm reads (fun i => needMask vs2.toNat i) (fun i s =>
      .done (s.setVelem vd.toNat w i
        (BitVec.ofNat 64 ((upto i).countP (fun j => s.mbit vs2.toNat j))))) s)

/-- `vid`. -/
def execVid (vd : BitVec 5) (vm : BitVec 1) (s : State) : Res :=
  vguard false true [vd.toNat] [] s (
    let w := s.sew
    vrun vm [] (fun _ => []) (fun i s => .done (s.setVelem vd.toNat w i (BitVec.ofNat 64 i))) s)

/-! ### Reductions (R123) -/

/-- The active indices below vl. -/
def State.actives (s : State) (vm : BitVec 1) : List Nat := (upto s.vl).filter (fun i => s.active vm i)

/-- A reduction: `f` takes the starting value and the active elements with their indices. -/
def vReduce (ok : Bool) (f : State → Word → List (Nat × Word) → Word × Flags) (vd vs2 vs1 : BitVec 5) (vm : BitVec 1)
    (s : State) : Res :=
  let reads := [vs2.toNat, vs1.toNat]
  vguard true ok [vd.toNat] reads s (
    let w := s.sew
    let needs := if s.vl = 0 then [] else
      needElem w vs1.toNat 0 :: (s.actives vm).map (fun i => needElem w vs2.toNat i)
    vwhole reads needs (fun s =>
      if s.vl = 0 then .ok s
      else
        let r := f s (s.velem vs1.toNat w 0) ((s.actives vm).map (fun i => (i, s.velem vs2.toNat w i)))
        .ok (withFlags r (fun v s => s.setVelem vd.toNat w 0 v) s)) s)

/-- An integer reduction. -/
def vRedInt (f : Nat → Word → Word → Word → Word) (vd vs2 vs1 : BitVec 5) (vm : BitVec 1) (s : State) : Res :=
  vReduce true (fun s a l => (l.foldl (fun a e => f s.sew a e.2 0) a, 0)) vd vs2 vs1 vm s

/-- The groups of 32 indices of R87, each with its active elements. -/
def redGroups (vl : Nat) (l : List (Nat × FVal)) : List (List FVal) :=
  (upto (ceilDiv vl 32)).map (fun g => (l.filter (fun e => e.1 / 32 = g)).map (·.2))

/-- `vfredsum` (R87). -/
def redSumF (s : State) (a : Word) (l : List (Nat × Word)) : Word × Flags :=
  groupedSum s.fmt s.frm s.fz a (redGroups s.vl (l.map (fun e => (e.1, s.fmt.decode s.fz e.2))))

/-- `vfredmax`, `vfredmin` (R84). -/
def redMinMax (f : Fmt → BitVec 3 → Bool → Word → Word → Word → Word × Flags) (s : State) (a : Word)
    (l : List (Nat × Word)) : Word × Flags :=
  l.foldl (fun (a : Word × Flags) e =>
    let r := f s.fmt s.frm s.fz a.1 e.2 0
    (r.1, a.2 ||| r.2)) (a, 0)

/-- `vredsum`. -/
def execVredsum (vd : BitVec 5) (vs2 : BitVec 5) (vs1 : BitVec 5) (_c2 : BitVec 1) (_c1 : BitVec 1) (vm : BitVec 1) (s : State) : Res :=
  vRedInt vopAdd vd vs2 vs1 vm s
/-- `vredmax`. -/
def execVredmax (vd : BitVec 5) (vs2 : BitVec 5) (vs1 : BitVec 5) (_c2 : BitVec 1) (_c1 : BitVec 1) (vm : BitVec 1) (s : State) : Res :=
  vRedInt vopMax vd vs2 vs1 vm s
/-- `vredmin`. -/
def execVredmin (vd : BitVec 5) (vs2 : BitVec 5) (vs1 : BitVec 5) (_c2 : BitVec 1) (_c1 : BitVec 1) (vm : BitVec 1) (s : State) : Res :=
  vRedInt vopMin vd vs2 vs1 vm s
/-- `vredmaxu`. -/
def execVredmaxu (vd : BitVec 5) (vs2 : BitVec 5) (vs1 : BitVec 5) (_c2 : BitVec 1) (_c1 : BitVec 1) (vm : BitVec 1) (s : State) : Res :=
  vRedInt vopMaxu vd vs2 vs1 vm s
/-- `vredminu`. -/
def execVredminu (vd : BitVec 5) (vs2 : BitVec 5) (vs1 : BitVec 5) (_c2 : BitVec 1) (_c1 : BitVec 1) (vm : BitVec 1) (s : State) : Res :=
  vRedInt vopMinu vd vs2 vs1 vm s
/-- `vredand`. -/
def execVredand (vd : BitVec 5) (vs2 : BitVec 5) (vs1 : BitVec 5) (_c2 : BitVec 1) (_c1 : BitVec 1) (vm : BitVec 1) (s : State) : Res :=
  vRedInt vopAnd vd vs2 vs1 vm s
/-- `vredor`. -/
def execVredor (vd : BitVec 5) (vs2 : BitVec 5) (vs1 : BitVec 5) (_c2 : BitVec 1) (_c1 : BitVec 1) (vm : BitVec 1) (s : State) : Res :=
  vRedInt vopOr vd vs2 vs1 vm s
/-- `vredxor`. -/
def execVredxor (vd : BitVec 5) (vs2 : BitVec 5) (vs1 : BitVec 5) (_c2 : BitVec 1) (_c1 : BitVec 1) (vm : BitVec 1) (s : State) : Res :=
  vRedInt vopXor vd vs2 vs1 vm s
/-- `vfredsum`. -/
def execVfredsum (vd : BitVec 5) (vs2 : BitVec 5) (vs1 : BitVec 5) (_c2 : BitVec 1) (_c1 : BitVec 1) (vm : BitVec 1) (s : State) : Res :=
  vReduce s.fpFmt redSumF vd vs2 vs1 vm s
/-- `vfredmax`. -/
def execVfredmax (vd : BitVec 5) (vs2 : BitVec 5) (vs1 : BitVec 5) (_c2 : BitVec 1) (_c1 : BitVec 1) (vm : BitVec 1) (s : State) : Res :=
  vReduce s.fpFmt (redMinMax fopMax) vd vs2 vs1 vm s
/-- `vfredmin`. -/
def execVfredmin (vd : BitVec 5) (vs2 : BitVec 5) (vs1 : BitVec 5) (_c2 : BitVec 1) (_c1 : BitVec 1) (vm : BitVec 1) (s : State) : Res :=
  vReduce s.fpFmt (redMinMax fopMin) vd vs2 vs1 vm s

/-! ### Permutations (R124) -/

/-- A permutation: element i of the result from the state, and the source elements it reads; `none` keeps the old
element. -/
def vPermute (ok : Bool) (reads : List Nat) (needs : Nat → List Need) (f : State → Nat → Option Word) (vd : BitVec 5)
    (vm : BitVec 1) (s : State) : Res :=
  vguard false ok [vd.toNat] reads s (
    let w := s.sew
    vrun vm reads needs (fun i s =>
      match f s i with
      | some v => .done (s.setVelem vd.toNat w i v)
      | none => .done s) s)

/-- `vslideup`. -/
def execVslideup (vd : BitVec 5) (vs2 : BitVec 5) (rs1 : BitVec 5) (_c2 : BitVec 1) (vm : BitVec 1) (s : State) : Res :=
  let off := (s.x rs1).toNat
  let w := s.sew
  vPermute (vd ≠ vs2) [vs2.toNat] (fun i => if off ≤ i then [needElem w vs2.toNat (i - off)] else [])
    (fun s i => if off ≤ i then some (s.velem vs2.toNat w (i - off)) else none) vd vm s

/-- `vslidedown`. -/
def execVslidedown (vd : BitVec 5) (vs2 : BitVec 5) (rs1 : BitVec 5) (_c2 : BitVec 1) (vm : BitVec 1) (s : State) : Res :=
  let off := (s.x rs1).toNat
  let w := s.sew
  let n := s.vmaxNow
  vPermute true [vs2.toNat] (fun i => if i + off < n then [needElem w vs2.toNat (i + off)] else [])
    (fun s i => some (if i + off < n then s.velem vs2.toNat w (i + off) else 0)) vd vm s

/-- `vslide1up`. -/
def execVslide1up (vd : BitVec 5) (vs2 : BitVec 5) (rs1 : BitVec 5) (_c2 : BitVec 1) (vm : BitVec 1) (s : State) : Res :=
  let x := s.x rs1
  let w := s.sew
  vPermute (vd ≠ vs2) [vs2.toNat] (fun i => if i = 0 then [] else [needElem w vs2.toNat (i - 1)])
    (fun s i => some (if i = 0 then x else s.velem vs2.toNat w (i - 1))) vd vm s

/-- `vslide1down`. -/
def execVslide1down (vd : BitVec 5) (vs2 : BitVec 5) (rs1 : BitVec 5) (_c2 : BitVec 1) (vm : BitVec 1) (s : State) : Res :=
  let x := s.x rs1
  let w := s.sew
  let n := s.vl
  vPermute true [vs2.toNat] (fun i => if i + 1 < n then [needElem w vs2.toNat (i + 1)] else [])
    (fun s i => some (if i + 1 < n then s.velem vs2.toNat w (i + 1) else x)) vd vm s

/-- `vrgather`: the index register is read first, then the element it names. -/
def execVrgather (vd : BitVec 5) (vs2 : BitVec 5) (vs1 : BitVec 5) (_c2 : BitVec 1) (_c1 : BitVec 1) (vm : BitVec 1)
    (s : State) : Res :=
  let reads := [vs2.toNat, vs1.toNat]
  vguard false (vd ≠ vs2 && vd ≠ vs1) [vd.toNat] reads s (
    let w := s.sew
    let n := s.vmaxNow
    vrun vm reads (fun i => [needElem w vs1.toNat i]) (fun i s =>
      let j := (s.velem vs1.toNat w i).toNat
      if j < n then
        match s.fillNeed (needElem w vs2.toNat j) with
        | .error (_, t) => .trap t
        | .ok s => .done (s.setVelem vd.toNat w i (s.velem vs2.toNat w j))
      else .done (s.setVelem vd.toNat w i 0)) s)

/-- `vcompress`. -/
def execVcompress (vd : BitVec 5) (vs2 : BitVec 5) (vs1 : BitVec 5) (_c2 : BitVec 1) (_c1 : BitVec 1) (s : State) : Res :=
  let reads := [vs2.toNat, vs1.toNat]
  vguard true (vd ≠ vs2 && vd ≠ vs1) [vd.toNat] reads s (
    let w := s.sew
    vwhole reads (needMask vs1.toNat s.vl) (fun s =>
      let l := s.setBits vs1.toNat
      match s.fillNeeds (l.map (fun i => needElem w vs2.toNat i)) with
      | .error t => .error t
      | .ok s =>
        .ok (((upto l.length).zip l).foldl (fun s e =>
          s.setVelem vd.toNat w e.1 (s.velem vs2.toNat w e.2)) s)) s)

/-- `vmvxs`: element 0, whatever vl is. -/
def execVmvxs (rd : BitVec 5) (vs2 : BitVec 5) (_c2 : BitVec 1) (s : State) : Res :=
  vToX rd [vs2.toNat] [needElem s.sew vs2.toNat 0] (fun s => sextFrom (s.velem vs2.toNat s.sew 0) s.sew) s

/-- `vmvsx`. -/
def execVmvsx (vd : BitVec 5) (rs1 : BitVec 5) (s : State) : Res :=
  vguard true true [vd.toNat] [] s (
    vwhole [] [] (fun s => .ok (if s.vl = 0 then s else s.setVelem vd.toNat s.sew 0 (s.x rs1))) s)

/-! ### The mask stack (R125, R126) -/

/-- The checks of a block of n bytes, aligned to n: those of its address, then each line's (R126, R151). -/
def State.checkSpan (s : State) (acc : Acc) (n : Nat) (va : Word) : Except Trap Nat :=
  match s.check s.who acc .vector n va with
  | .error t => .error t
  | .ok pa =>
    match (upto (n / 64)).findSome? (fun i =>
      match s.checkLine s.who acc va (pa + 64 * i) with
      | .error t => some t
      | .ok _ => none) with
    | some t => .error t
    | none => .ok pa

/-- Mask bits 0 to 2,047 of `v0`; above VLMAX they read as zero (R26, R125). -/
def State.mask0 (s : State) : Mask := (s.vreg 0 &&& lowOnes s.vmaxNow).setWidth 2048
/-- `v0` with its bits 0 to 2,047 replaced. -/
def State.setMask0 (s : State) (m : Mask) : State :=
  s.setVreg 0 ((s.vreg 0 &&& ~~~lowOnes 2048) ||| m.setWidth 16384)

/-- The mask stack after a push; a spill, if `sp`, takes the oldest entry away (R126). -/
def VecState.push (v : VecState) (m : Mask) (sp : Bool) : VecState :=
  if sp then
    { v with mstack := (m :: v.mstack).take 16, spilled := v.spilled + 1, vmsp := v.vmsp + 256 }
  else { v with mstack := m :: v.mstack }

/-- The push itself and the narrowing of `v0` (R125). -/
def pushNarrow (vs1 : BitVec 5) (sp : Bool) (s : State) : State :=
  let m := s.mask0
  let keep := ~~~(lowOnes s.vl) ||| s.vreg vs1.toNat
  (s.modMe (fun h => { h with vec := h.vec.push m sp })).setMask0 ((s.vreg 0 &&& keep).setWidth 2048)

/-- `vmpush`. -/
def execVmpush (vs1 : BitVec 5) (_c1 : BitVec 1) (s : State) : Res :=
  let reads := [vs1.toNat]
  vguard true true [0] reads s (
    let v := s.me.vec
    if v.mstack.length < 16 then vwhole reads (needMask vs1.toNat s.vl) (fun s => .ok (pushNarrow vs1 false s)) s
    else if 65535 ≤ v.spilled then raise 0x10 0 s
    else
      match s.checkSpan .store 256 v.vmsp with
      | .error t => takeTrap t s
      | .ok pa =>
        let oldest := v.mstack.getLast?.getD 0
        untilRoom s (vwhole reads (needMask vs1.toNat s.vl) (fun s =>
          .ok (pushNarrow vs1 true ((s.cache s.who .store v.vmsp).writePa s.who pa oldest.toNat 256))) s))

/-- The most recent entry: on chip, or at `vmsp` − 256 (R125). -/
def State.topMask (s : State) : Except Trap Mask :=
  let v := s.me.vec
  match v.mstack with
  | m :: _ => .ok m
  | [] =>
    if v.spilled = 0 then .error ⟨0x10, 0⟩
    else
      match s.checkSpan .load 256 (v.vmsp - 256) with
      | .error t => .error t
      | .ok pa => .ok (BitVec.ofNat 2048 (s.readPa s.who.core pa 256))

/-- `vmelse`. -/
def execVmelse (s : State) : Res :=
  vguard true true [0] [] s (
    vwhole [] [] (fun s =>
      match s.topMask with
      | .error t => .error (0, t)
      | .ok m =>
        let on := (lowOnes s.vl).setWidth 2048
        let old := (s.vreg 0).setWidth 2048
        .ok (s.setMask0 ((old &&& ~~~on) ||| (m &&& ~~~old &&& on)))) s)

/-- The stack after a pop or a refill. -/
def VecState.pop (v : VecState) : VecState :=
  match v.mstack with
  | _ :: l => { v with mstack := l }
  | [] => { v with spilled := v.spilled - 1, vmsp := v.vmsp - 256 }

/-- `vmpop`. -/
def execVmpop (s : State) : Res :=
  vguard true true [0] [] s (
    vwhole [] [] (fun s =>
      match s.topMask with
      | .error t => .error (0, t)
      | .ok m => .ok ((s.modMe (fun h => { h with vec := h.vec.pop })).setMask0 m)) s)

/-! ### The fault mask (R127, R128) -/

/-- `vfchk`. -/
def execVfchk (vs1 : BitVec 5) (_c1 : BitVec 1) (s : State) : Res :=
  let reads := [vs1.toNat]
  vguard true true [] reads s (
    vwhole reads (needMask vs1.toNat s.vl) (fun s =>
      match (upto s.vl).find? (fun i => s.me.vec.vfm.getLsbD i && s.mbit vs1.toNat i) with
      | some i => .error (0, ⟨0x11, BitVec.ofNat 64 i⟩)
      | none => .ok s) s)

/-- `vfmclr`. -/
def execVfmclr (s : State) : Res :=
  vguard true true [] [] s (
    vwhole [] [] (fun s => .ok (s.modMe (fun h => { h with vec := { h.vec with vfm := 0 } }))) s)

/-! ### Appending (R129) -/

/-- What the element phase has done: the state, elements lost, the first address that faulted. -/
structure Append where
  s     : State
  lost  : Nat
  first : Option Word

/-- Element i goes to a slot of the work vector. -/
def Append.element (a : Append) (vs2 w : Nat) (cap : Nat) (base : Word) (slot i : Nat) : Append :=
  if cap ≤ slot then { a with lost := a.lost + 1 }
  else
    let va := base + BitVec.ofNat 64 (slot * (w / 8))
    match a.s.check a.s.who .store .vector (w / 8) va with
    | .error _ => { a with lost := a.lost + 1, first := a.first.or (some va) }
    | .ok pa => { a with s := (a.s.cache a.s.who .store va).writePa a.s.who pa (a.s.velem vs2 w i).toNat (w / 8) }

/-- The append of the active elements, the header lying at pa (R129). -/
def appendAt (vs2 : BitVec 5) (vm : BitVec 1) (pa : Nat) (s : State) : Res :=
  let w := s.sew
  let c := s.who.core
  let act := s.actives vm
  let old := s.readPa c pa 8
  let cap := s.readPa c (pa + 8) 8
  let base := BitVec.ofNat 64 (s.readPa c (pa + 16) 8)
  let slots := (upto act.length).map (fun j => old + j)
  let s1 := s.writePa s.who pa (old + act.length) 8
  let a := (slots.zip act).foldl (fun (a : Append) e => a.element vs2.toNat w cap base e.1 e.2) ⟨s1, 0, none⟩
  let s2 := if a.lost = 0 then a.s else
    a.s.writePa a.s.who (pa + 24) (a.s.readPa c (pa + 24) 8 + a.lost) 8
  untilRoom s (match vretire [vs2.toNat] s2 with
    | .next t =>
      match a.first with
      | some va => .next (t.deferOrWait s.cur s.me.hgen ⟨0x12, va⟩ .append)
      | none => .next t
    | r => r)

/-- `vappend`. The header is checked as an atomic update is. -/
def execVappend (vs2 : BitVec 5) (rs1 : BitVec 5) (_c2 : BitVec 1) (vm : BitVec 1) (s : State) : Res :=
  let reads := [vs2.toNat]
  vguard true true [] reads s (
    let act := s.actives vm
    let a := s.x rs1
    if act.isEmpty then vretire reads s
    else if a.toNat % 32 ≠ 0 then raise 0x04 a s
    else
      match s.check s.who .amo .atomic 32 a with
      | .error t => takeTrap t s
      | .ok pa =>
        match s.fillNeeds (act.map (fun i => needElem s.sew vs2.toNat i)) with
        | .error (i, t) => vtrap i t s
        | .ok s => appendAt vs2 vm pa (s.cache s.who .amo a))

end Sys2Proof.Machine
end

