-- ==== Sys2Proof/Machine/VecMem.lean ====
section
/-!
DEFINITION. Machine/VecMem.lean: the vector loads and stores (R217 to R220), with bank formats (R152, R153), the packed
layouts (R77) and speculation (R127).
-/

namespace Sys2Proof.Machine

/-! ### Elements in memory (R218) -/

/-- A memory width code: bits of an element (R46). -/
def memWidth (w : BitVec 3) : Nat :=
  match w.toNat with
  | 0 => 8
  | 1 => 16
  | 2 => 32
  | 3 => 64
  | 4 => 4
  | _ => 6

/-- Where an element lies: the address `stval` reports, the bytes that hold it, and its first bit in them. -/
structure ElemAt where
  addr  : Word
  bytes : Nat
  shift : Nat
  width : Nat

/-- Element i of a packed or plain run from a base (R218, R77). -/
def unitAt (base : Word) (w i : Nat) : ElemAt :=
  if w = 4 then ⟨base + BitVec.ofNat 64 (i / 2), 1, 4 * (i % 2), 4⟩
  else if w = 6 then
    let j := i % 4
    let b := j * 6 / 8
    ⟨base + BitVec.ofNat 64 (3 * (i / 4) + b), if j = 1 || j = 2 then 2 else 1, 6 * j - 8 * b, 6⟩
  else ⟨base + BitVec.ofNat 64 (i * (w / 8)), w / 8, 0, w⟩

/-- The address an element's alignment asks of it: its size for the plain widths, none for the packed. -/
def ElemAt.align (e : ElemAt) : Nat := if e.width < 8 then 1 else e.bytes

/-- The format of the bank a domain address lies in: 0 outside a scratchpad bank (R152). -/
def State.bankFmt (s : State) (w : Who) (pa : Nat) : BitVec 3 :=
  match s.region w.core pa with
  | .scratch g b _ => (s.core g).lmfmt[b]?.getD 0
  | _ => 0

/-- The format a bank holds, for a format code that is not 0. -/
def bankFormat (f : BitVec 3) : Fmt := fmtOf f 8

/-- R153 and R218: the width and the banks of an element agree with the access. -/
def State.bankOk (s : State) (w : Who) (e : ElemAt) (pas : List Nat) : Bool :=
  let fs := pas.map (fun pa => s.bankFmt w pa)
  let f := fs.headD 0
  fs.all (· = f) &&
    (if f = 0 then e.width = s.sew || (e.width < 8 && s.sew = 8) else e.width = (bankFormat f).bankWidth)

/-- The bytes of an element whose addresses are translated: the first alone where the element is aligned to its size, each
where it may lie on two pages. -/
def ElemAt.probes (e : ElemAt) : List Nat :=
  if e.width = 6 || e.addr.toNat % e.bytes ≠ 0 then upto e.bytes else [0]

/-- A check of several bytes of an element, the lowest first; the fault names the element's address. -/
def ElemAt.eachByte (e : ElemAt) (f : Nat → Except Trap Nat) : List Nat → Except Trap (List Nat)
  | [] => .ok []
  | i :: l =>
    match f i with
    | .error t => .error ⟨t.cause, e.addr⟩
    | .ok p =>
      match e.eachByte f l with
      | .error t => .error t
      | .ok ps => .ok (p :: ps)

/-- The domain address of every byte of an element after the checks of R219, in its order over all the bytes, `align` being
the alignment asked for and `bank` the check of the width and the banks; the fault names the element's address. -/
def State.checkElemBy (s : State) (w : Who) (acc : Acc) (align : Nat) (bank : List Nat → Bool) (e : ElemAt) :
    Except Trap (List Nat) :=
  let va (i : Nat) : Word := e.addr + BitVec.ofNat 64 i
  if e.addr.toNat % align ≠ 0 then .error ⟨alignCause acc, e.addr⟩
  else
    match e.eachByte (fun i => s.translated w acc (va i)) e.probes with
    | .error t => .error t
    | .ok ps =>
      match e.eachByte (fun i => s.allowed w acc .vector (va i) (ps[i]?.getD 0)) e.probes with
      | .error t => .error t
      | .ok _ =>
        let pas := if e.probes.length = e.bytes then ps else (upto e.bytes).map (ps.headD 0 + ·)
        if !bank pas then .error ⟨0x15, e.addr⟩
        else
          match e.eachByte (fun i => s.checkLine w acc e.addr (pas[i]?.getD 0)) (upto e.bytes) with
          | .error t => .error t
          | .ok _ => .ok pas

/-- The same for the current hart: a plain element is aligned to its size, a packed one to a byte. -/
def State.checkElem (s : State) (acc : Acc) (bank : List Nat → Bool) (e : ElemAt) : Except Trap (List Nat) :=
  s.checkElemBy s.who acc e.align bank e

/-- A store to the bytes of an element waits for a window's capacity (R208). -/
def State.elemFull (s : State) (w : Who) (pas : List Nat) : Bool :=
  !s.linesFit ((pas.filter (fun pa => s.region w.core pa = .tier)).map (· / 64))

/-- The bits of an element read from its bytes by a party of core c. -/
def State.readElemBy (s : State) (c : Option Nat) (e : ElemAt) (pas : List Nat) : Word :=
  let v := ofBytes (pas.map (fun pa => BitVec.ofNat 8 (s.readPa c pa 1)))
  BitVec.ofNat 64 (v >>> e.shift % 2 ^ e.width)

/-- The same for the current hart. -/
def State.readElem (s : State) (e : ElemAt) (pas : List Nat) : Word := s.readElemBy s.who.core e pas

/-- Writes an element's bits into its bytes: a packed element leaves the others as they were (R219). -/
def State.writeElem (s : State) (w : Who) (e : ElemAt) (pas : List Nat) (v : Word) : State :=
  if 8 ≤ e.width && e.addr.toNat % e.bytes = 0 then s.writePa w (pas.headD 0) v.toNat e.bytes
  else
    let old := ofBytes (pas.map (fun pa => BitVec.ofNat 8 (s.readPa w.core pa 1)))
    let mask := (2 ^ e.width - 1) * 2 ^ e.shift
    let new := old - (old &&& mask) + (v.toNat % 2 ^ e.width) * 2 ^ e.shift
    ((upto pas.length).zip pas).foldl (fun s p => s.writePa w p.2 (byteOf new p.1).toNat 1) s

/-- What a load puts into the register element: the bank value converted, or the bits (R153). -/
def State.fromBank (s : State) (f : BitVec 3) (v : Word) : Word × Flags :=
  if f = 0 || f = s.fmtCode then (v, 0) else convert s.fmt (bankFormat f) s.frm s.fz v

/-- What a store puts into the bank. -/
def State.toBank (s : State) (f : BitVec 3) (v : Word) : Word × Flags :=
  if f = 0 || f = s.fmtCode then (v, 0) else convert (bankFormat f) s.fmt s.frm s.fz v

/-! ### The loops (R219) -/

/-- One element of a load; `spec` makes a fault set `vfm`[i] instead (R127). -/
def loadElem (spec : Bool) (vd : Nat) (e : ElemAt) (i : Nat) (s : State) : ElemOut :=
  match s.checkElem .load (s.bankOk s.who e) e with
  | .error t =>
    if spec then
      .done (s.modMe (fun h => { h with vec := { h.vec with vfm := setBit h.vec.vfm i true } }))
    else .trap t
  | .ok pas =>
    let r := s.fromBank (s.bankFmt s.who (pas.headD 0)) (s.readElem e pas)
    .done (withFlags r (fun v s => (s.cache s.who .load e.addr).setVelem vd s.sew i v) s)

/-- One element of a store. -/
def storeElem (vs3 : Nat) (e : ElemAt) (i : Nat) (s : State) : ElemOut :=
  match s.checkElem .store (s.bankOk s.who e) e with
  | .error t => .trap t
  | .ok pas =>
    if s.elemFull s.who pas then .wait .element
    else
      let r := s.toBank (s.bankFmt s.who (pas.headD 0)) (s.velem vs3 s.sew i)
      .done (withFlags r (fun v s => (s.cache s.who .store e.addr).writeElem s.who e pas v) s)

/-- Where the elements of an access lie (R218): unit stride, strided, or indexed by a register. -/
inductive VAddr where
  | unit (base : Word)
  | strided (base step : Word)
  | indexed (base : Word) (vs2 : BitVec 5)

def VAddr.reads : VAddr → List Nat
  | .indexed _ r => [r.toNat]
  | _ => []

def VAddr.at_ (a : VAddr) (s : State) (w i : Nat) : ElemAt :=
  match a with
  | .unit b => unitAt b w i
  | .strided b d => ⟨b + BitVec.ofNat 64 i * d, w / 8, 0, w⟩
  | .indexed b r => ⟨b + s.velem r.toNat s.sew i, w / 8, 0, w⟩

/-- A vector load. -/
def vLoad (spec : Bool) (a : VAddr) (w : BitVec 3) (vd : BitVec 5) (vm : BitVec 1) (s : State) : Res :=
  vguard false true [vd.toNat] a.reads s (
    let n := s.sew
    vrun vm a.reads (fun i => a.reads.map (fun r => needElem n r i))
      (fun i s => loadElem spec vd.toNat (a.at_ s (memWidth w) i) i s) s)

/-- A vector store. -/
def vStore (a : VAddr) (w : BitVec 3) (vs3 : BitVec 5) (vm : BitVec 1) (s : State) : Res :=
  let reads := vs3.toNat :: a.reads
  vguard false true [] reads s (
    let n := s.sew
    vrun vm reads (fun i => reads.map (fun r => needElem n r i))
      (fun i s => storeElem vs3.toNat (a.at_ s (memWidth w) i) i s) s)

/-! ### The instructions (R217) -/

/-- `vle`, unit stride. -/
def execVle (vd : BitVec 5) (rs1 : BitVec 5) (w : BitVec 3) (vm : BitVec 1) (s : State) : Res :=
  wellFormed (w.toNat ≤ 5) s (vLoad false (.unit (s.x rs1)) w vd vm s)

/-- `vle.s`, speculative. -/
def execVleS (vd : BitVec 5) (rs1 : BitVec 5) (w : BitVec 3) (s : State) : Res :=
  wellFormed (w.toNat ≤ 5) s (vLoad true (.unit (s.x rs1)) w vd 0 s)

/-- `vlse`, strided. -/
def execVlse (vd : BitVec 5) (rs1 : BitVec 5) (rs2 : BitVec 5) (w : BitVec 3) (vm : BitVec 1) (s : State) : Res :=
  wellFormed (w.toNat ≤ 3) s (vLoad false (.strided (s.x rs1) (s.x rs2)) w vd vm s)

/-- `vlse.s`. -/
def execVlseS (vd : BitVec 5) (rs1 : BitVec 5) (rs2 : BitVec 5) (w : BitVec 3) (s : State) : Res :=
  wellFormed (w.toNat ≤ 3) s (vLoad true (.strided (s.x rs1) (s.x rs2)) w vd 0 s)

/-- `vlxe`, indexed. -/
def execVlxe (vd : BitVec 5) (vs2 : BitVec 5) (rs1 : BitVec 5) (w : BitVec 3) (vm : BitVec 1) (s : State) : Res :=
  wellFormed (w.toNat ≤ 3 && vd ≠ vs2) s (vLoad false (.indexed (s.x rs1) vs2) w vd vm s)

/-- `vlxe.s`. -/
def execVlxeS (vd : BitVec 5) (vs2 : BitVec 5) (rs1 : BitVec 5) (w : BitVec 3) (s : State) : Res :=
  wellFormed (w.toNat ≤ 3 && vd ≠ vs2) s (vLoad true (.indexed (s.x rs1) vs2) w vd 0 s)

/-- `vse`. -/
def execVse (vs3 : BitVec 5) (rs1 : BitVec 5) (w : BitVec 3) (vm : BitVec 1) (s : State) : Res :=
  wellFormed (w.toNat ≤ 5) s (vStore (.unit (s.x rs1)) w vs3 vm s)

/-- `vsse`. -/
def execVsse (vs3 : BitVec 5) (rs1 : BitVec 5) (rs2 : BitVec 5) (w : BitVec 3) (vm : BitVec 1) (s : State) : Res :=
  wellFormed (w.toNat ≤ 3) s (vStore (.strided (s.x rs1) (s.x rs2)) w vs3 vm s)

/-- `vsxe`. -/
def execVsxe (vs3 : BitVec 5) (vs2 : BitVec 5) (rs1 : BitVec 5) (w : BitVec 3) (vm : BitVec 1) (s : State) : Res :=
  wellFormed (w.toNat ≤ 3) s (vStore (.indexed (s.x rs1) vs2) w vs3 vm s)

end Sys2Proof.Machine
end

