-- ==== Sys2Proof/Machine/Matrix.lean ====
section
/-!
DEFINITION. Machine/Matrix.lean: grants (R130, R131), the rank-8 updates and the matrix queue (R133 to R139), the
accumulator moves (R137) and the packed dot products (R142). A posted instruction captures its operands at issue, which
R138 allows, so a later write of a source register need not wait for it.
-/

namespace Sys2Proof.Machine

/-! ### Arrays -/

/-- The holder and the contents of array g of a core. -/
def Core.hold (c : Core) (g : Nat) : Option Nat := if g = 0 then c.hold0 else c.hold1
def Core.acc (c : Core) (g : Nat) : Vector W32 4096 := if g = 0 then c.acc0 else c.acc1
def Core.setAcc (c : Core) (g : Nat) (a : Vector W32 4096) : Core :=
  if g = 0 then { c with acc0 := a } else { c with acc1 := a }
def Core.setHold (c : Core) (g : Nat) (h : Option Nat) : Core :=
  if g = 0 then { c with hold0 := h } else { c with hold1 := h }

/-- Rows of an MVL code (R28). -/
def mvlRows (m : BitVec 2) : Nat := if m = 0 then 0 else 8 * 2 ^ m.toNat

/-- Array g of the current hart's core is held by that hart. -/
def State.holds (s : State) (g : Nat) : Bool := s.myCore.hold g = some (slotOf s.cur)

/-! ### Checks (R133) -/

/-- R58 and `vstart`, with no `vill` check (`mset`, `mrel`, `mzero`: R24). -/
def mguard (s : State) (r : Res) : Res := onVector s (if s.me.vec.vstart ≠ 0 then illegal s else r)

/-- The checks of an instruction that needs a legal `vtype` and names vector registers: R58, `vstart`, no stream (R240),
the format. -/
def mguardFmt (fmt : Bool) (regs : List Nat) (s : State) (r : Res) : Res :=
  onVector s (
    if s.vill || s.me.vec.vstart ≠ 0 || regs.any (fun q => (s.me.streamAt q).isSome) || !fmt then illegal s else r)

/-- The grant check (R133, step 3). -/
def granted (g : Nat) (s : State) (r : Res) : Res :=
  if !s.holds g || s.me.mvl = 0 then raise 0x13 0 s else r

/-- A matrix instruction of the hart is queued: the later instruction waits (R139). -/
def afterQueue (s : State) (r : Res) : Res := if s.hasQueued s.cur then stall .interlock s else r

/-! ### Grants (R130, R131) -/

/-- The status of a request. -/
def msetStatus (s : State) (q : Word) : Nat :=
  let other (g : Nat) : Bool := (s.myCore.hold g).isSome && !s.holds g
  if bits q 4 60 ≠ 0 || (bits q 0 2 = 0 && bits q 2 2 ≠ 0) then 2
  else if (bit q 2 && other 0) || (bit q 3 && other 1) then 1
  else 0

/-- One array of a granted request: kept, granted with zeros, or released. -/
def Core.grant (c : Core) (g slot : Nat) (want : Bool) : Core :=
  let held := c.hold g = some slot
  if want && !held then (c.setHold g (some slot)).setAcc g (Vector.replicate 4096 0)
  else if !want && held then c.setHold g none
  else c

/-- `mset` (R130). -/
def execMset (rd : BitVec 5) (rs1 : BitVec 5) (s : State) : Res :=
  mguard s (afterQueue s (
    let q := s.x rs1
    let st := msetStatus s q
    let slot := slotOf s.cur
    let s := if st = 0 then
        (s.modCore (coreOf s.cur) (fun c => (c.grant 0 slot (bit q 2)).grant 1 slot (bit q 3))).modMe
          (fun h => { h with mvl := bits q 0 2 })
      else s
    vretire [] (s.modMe (fun h => h.setX rd (BitVec.ofNat 64 st)))))

/-- `mrel` (R131). -/
def execMrel (rs1 : BitVec 5) (s : State) : Res :=
  mguard s (afterQueue s (
    let q := s.x rs1
    let slot := slotOf s.cur
    vretire [] (s.modCore (coreOf s.cur) (fun c =>
      let c := if bit q 2 then c.grant 0 slot false else c
      if bit q 3 then c.grant 1 slot false else c))))

/-! ### Posting (R138) -/

/-- Posts an entry, or waits while the queue holds 32. -/
def post (e : MqEntry) (s : State) : Res :=
  if 32 ≤ s.myCore.mq.length then stall .matrixQueue s
  else vretire [] (s.modCore (coreOf s.cur) (fun c => { c with mq := c.mq ++ [e] }))

/-- `mzero` (R136). -/
def execMzero (g : BitVec 1) (s : State) : Res :=
  mguard s (granted g.toNat s (post { slot := slotOf s.cur, array := g.toNat, op := .zero } s))

/-- An update (R134): the eight registers of operand B start at a multiple of 8. -/
def postUpdate (op : MqOp) (fmt : Bool) (g : BitVec 1) (vs2 : BitVec 2) (vs1 : BitVec 5) (s : State) : Res :=
  let b := 8 * vs2.toNat
  mguardFmt fmt (vs1.toNat :: (upto 8).map (b + ·)) s (granted g.toNat s (
    let n := mvlRows s.me.mvl
    if s.vmaxNow < 8 * n then raise 0x14 (BitVec.ofNat 64 (8 * n)) s
    else
      post { slot := slotOf s.cur, array := g.toNat, op := op, mvl := n, vtype := s.me.vec.vtype, frm := s.frm,
             a := s.vreg vs1.toNat, b := (upto 8).map (fun k => s.vreg (b + k)), scale := s.me.quant.vscale } s))

/-- The formats of `mopa`, `mops` and `mdot`: BF16, FP16, T8, T6, FP4. -/
def State.narrowFmt (s : State) : Bool := 3 ≤ s.fmtCode.toNat
/-- INT at e8. -/
def State.int8Fmt (s : State) : Bool := s.fmtCode = 0 && s.sew = 8

/-- `mopa` (R134). -/
def execMopa (g : BitVec 1) (vs2 : BitVec 2) (vs1 : BitVec 5) (s : State) : Res :=
  postUpdate .opa s.narrowFmt g vs2 vs1 s
/-- `mops` (R134). -/
def execMops (g : BitVec 1) (vs2 : BitVec 2) (vs1 : BitVec 5) (s : State) : Res :=
  postUpdate .ops s.narrowFmt g vs2 vs1 s
/-- `mopai` (R134). -/
def execMopai (g : BitVec 1) (vs2 : BitVec 2) (vs1 : BitVec 5) (s : State) : Res :=
  postUpdate .opai s.int8Fmt g vs2 vs1 s

/-! ### Executing an entry (R134 to R136) -/

/-- The element width, the format and `fz` captured with an entry. -/
def MqEntry.sew (e : MqEntry) : Nat := 8 * 2 ^ (bits e.vtype 0 2).toNat
def MqEntry.fmt (e : MqEntry) : Fmt := fmtOf (bits e.vtype 4 3) e.sew
def MqEntry.fz (e : MqEntry) : Bool := bit e.vtype 7

/-- A value times an E8 block scale (R76): 255 is NaN. -/
def FVal.scaled (v : FVal) (e8 : Byte) : FVal :=
  if e8 = 255 then .nan (v.isSig)
  else
    match v with
    | .fin n m => .fin n (m * pow2 ((e8.toNat : Int) - 127))
    | v => v

/-- The operand values of a step (R134, R135). -/
def MqEntry.opA (e : MqEntry) (k i : Nat) : FVal := e.fmt.decode e.fz (getElem e.a e.sew (k * e.mvl + i))
def MqEntry.opB (e : MqEntry) (k j : Nat) : FVal :=
  let v := e.fmt.decode e.fz (getElem (e.b.getD k 0) e.sew j)
  if e.fmt = .fp4 then v.scaled (e.scale[j]?.getD 0) else v

/-- The new value of cell (i, j) and its flags. -/
def MqEntry.cell (e : MqEntry) (i j : Nat) (old : W32) : W32 × Flags :=
  match e.op with
  | .zero => (0, 0)
  | .opai =>
    let sum := (upto 8).foldl (fun (x : Int) k =>
      x + sg (getElem e.a 8 (k * e.mvl + i)) 8 * sg (getElem (e.b.getD k 0) 8 j) 8) 0
    (BitVec.ofInt 32 (old.toInt + sum), 0)
  | op =>
    let t := (upto 8).map (fun k =>
      let p := (e.opA k i).mul (e.opB k j)
      if op = .ops then p.negate else p)
    let r := groupStep (.ieee fp32) e.frm e.fz (old.setWidth 64, 0) t
    (r.1.setWidth 32, r.2)

/-- The entry touches cell (i, j): every cell for `mzero`, those within MVL for an update. -/
def MqEntry.touches (e : MqEntry) (i j : Nat) : Bool := e.op = .zero || (i < e.mvl && j < e.mvl)

/-- The array after an entry. -/
def MqEntry.run (e : MqEntry) (a : Vector W32 4096) : Vector W32 4096 :=
  a.mapIdx (fun n x => if e.touches (n / 64) (n % 64) then (e.cell (n / 64) (n % 64) x).1 else x)

/-- The flags an entry raises (R90). -/
def MqEntry.flags (e : MqEntry) (a : Vector W32 4096) : Flags :=
  (upto e.mvl).foldl (fun f i =>
    (upto e.mvl).foldl (fun f j => f ||| (e.cell i j (a[64 * i + j]?.getD 0)).2) f) 0

/-- The flags of an executed entry (R90, R33): its hart's `fflags`, unless the hart has written them since, and the union of
the cluster. -/
def State.entryFlags (s : State) (core : Nat) (e : MqEntry) (f : Flags) : State :=
  let k := ctxKey core e.slot
  if e.cut then s.feedFlags k f else s.raiseFlags k f

/-- MATRIX_QUEUE_EXECUTE (R138, R90): the oldest entry of the core's queue executes. -/
def execMatrixQueueExecute (core : Nat) (s : State) : Res :=
  let c := s.core core
  match c.mq with
  | [] => .next s
  | e :: rest =>
    let a := c.acc e.array
    .next ((s.setCore core ({ c with mq := rest }.setAcc e.array (e.run a))).entryFlags core e (e.flags a))

/-! ### Moves (R137) -/

/-- FP32 or INT at e32. -/
def State.fmt32 (s : State) : Bool := s.sew = 32 && (s.fmtCode = 0 || s.fmtCode = 2)

/-- The checks of a move, and its row or column index. -/
def moveGuard (g : BitVec 1) (reg : BitVec 5) (r : Word) (s : State) (f : Res) : Res :=
  mguardFmt s.fmt32 [reg.toNat] s (granted g.toNat s (
    if mvlRows s.me.mvl ≤ r.toNat then raise 0x14 r s else afterQueue s f))

/-- A read: element n of `vd` is the cell `at_ n`. -/
def moveRead (vd : BitVec 5) (g : BitVec 1) (r : Word) (at_ : Nat → Nat → Nat) (s : State) : Res :=
  moveGuard g vd r s (
    let a := s.myCore.acc g.toNat
    vretire [] ((upto (mvlRows s.me.mvl)).foldl (fun s n =>
      s.setVelem vd.toNat 32 n ((a[at_ r.toNat n]?.getD 0).setWidth 64)) s))

/-- A write: the cell `at_ n` becomes element n of `vs2`. -/
def moveWrite (g : BitVec 1) (vs2 : BitVec 5) (r : Word) (at_ : Nat → Nat → Nat) (s : State) : Res :=
  moveGuard g vs2 r s (
    vretire [] (s.modCore (coreOf s.cur) (fun c =>
      c.setAcc g.toNat ((upto (mvlRows s.me.mvl)).foldl (fun a n =>
        a.setIfInBounds (at_ r.toNat n) ((s.velem vs2.toNat 32 n).setWidth 32)) (c.acc g.toNat)))))

/-- Cell (r, n) and cell (n, r). -/
def rowCell (r n : Nat) : Nat := 64 * r + n
def colCell (r n : Nat) : Nat := 64 * n + r

/-- `mrd` (R137). -/
def execMrd (vd : BitVec 5) (g : BitVec 1) (rs1 : BitVec 5) (s : State) : Res := moveRead vd g (s.x rs1) rowCell s
/-- `mwr` (R137). -/
def execMwr (g : BitVec 1) (vs2 : BitVec 5) (rs1 : BitVec 5) (s : State) : Res := moveWrite g vs2 (s.x rs1) rowCell s
/-- `mrdc` (R137). -/
def execMrdc (vd : BitVec 5) (g : BitVec 1) (rs1 : BitVec 5) (s : State) : Res := moveRead vd g (s.x rs1) colCell s
/-- `mwrc` (R137). -/
def execMwrc (g : BitVec 1) (vs2 : BitVec 5) (rs1 : BitVec 5) (s : State) : Res := moveWrite g vs2 (s.x rs1) colCell s

/-! ### Packed dot products (R142) -/

/-- One output of a dot product over the indices given: the new 32-bit element and its flags. -/
def dotCell (f : Fmt) (frm : BitVec 3) (fz : Bool) (w : Nat) (a b : VReg) (old : Word) (l : List Nat) : Word × Flags :=
  match f with
  | .int _ =>
    (wordOfInt (l.foldl (fun x i => x + sg (getElem a w i) w * sg (getElem b w i) w) (sg old 32)), 0)
  | f =>
    groupStep (.ieee fp32) frm fz (old, 0)
      (l.map (fun i => (f.decode fz (getElem a w i)).mul (f.decode fz (getElem b w i))))

/-- `mdot` (R142). -/
def execMdot (vd : BitVec 5) (grp : BitVec 2) (vs2 : BitVec 5) (vs1 : BitVec 5) (s : State) : Res :=
  mguardFmt (s.narrowFmt || s.int8Fmt) [vd.toNat, vs2.toNat, vs1.toNat] s (
    let g := 4 * 2 ^ grp.toNat
    let a := s.vreg vs2.toNat
    let b := s.vreg vs1.toNat
    let w := s.sew
    vretire [] ((upto (ceilDiv s.vl g)).foldl (fun s o =>
      let l := (upto g).map (o * g + ·) |>.filter (· < s.vl)
      withFlags (dotCell s.fmt s.frm s.fz w a b (s.velem vd.toNat 32 o) l)
        (fun v s => s.setVelem vd.toNat 32 o v) s) s))

end Sys2Proof.Machine
end

