-- ==== Sys2Proof/Machine/Quant.lean ====
section
/-!
DEFINITION. Machine/Quant.lean: block scales and the noise-shaping quantiser (R143 to R151).
-/

namespace Sys2Proof.Machine

/-! ### The axis (R143) -/

/-- Rows of an axis word, an element's row, position and scale entry. -/
def axisRows (q : Word) : Nat := (bits q 0 6).toNat + 1
def axisRow (q : Word) (i : Nat) : Nat := i % axisRows q
def axisPos (q : Word) (i : Nat) : Nat := i / axisRows q
def axisEnt (q : Word) (i : Nat) : Nat := axisPos q i / 32 * axisRows q + axisRow q i
def axisSeg (q : Word) : Nat := (bits q 8 8).toNat
/-- The destination format, as a format code: T8, T6 or FP4. -/
def axisFmt (q : Word) : BitVec 3 :=
  match (bits q 18 2).toNat with
  | 1 => 6
  | 2 => 7
  | _ => 5

/-- FP32 at e32, BF16 or FP16 at e16 (R144). -/
def State.quantFmt (s : State) : Bool := 2 ≤ s.fmtCode.toNat && s.fmtCode.toNat ≤ 4

/-- Some element below vl has an entry above 63 (R144, step 4). -/
def entOver (q : Word) (vl : Nat) : Bool := (upto vl).any (fun i => 63 < axisEnt q i)

/-! ### Choosing scales (R145) -/

/-- The scale of a block's active values. -/
def blockScale (act : List FVal) : Byte :=
  if act.any (fun v => v.isNan || v.isInf) then 255
  else
    let m := act.foldl (fun (m : Rat) v => match v with
      | .fin _ x => if m < x then x else m
      | _ => m) 0
    if m = 0 then 0
    else
      let e := log2Floor m - 2 + 127
      BitVec.ofNat 8 (if e < 0 then 0 else if 254 < e then 254 else e.toNat)

/-- The scales after `vmaxexp` with the active values and their indices. -/
def newScales (q : Word) (l : List (Nat × FVal)) (v : Vector Byte 64) : Vector Byte 64 :=
  v.mapIdx (fun n old =>
    let act := (l.filter (fun e => axisEnt q e.1 = n)).map (·.2)
    if act.isEmpty then old
    else
      let e := blockScale act
      if bit q 17 && e.toNat < old.toNat then old else e)

/-- `vmaxexp` (R145): it waits for the hart's queued updates (R139). -/
def execVmaxexp (vs2 : BitVec 5) (vm : BitVec 1) (s : State) : Res :=
  mguardFmt s.quantFmt [vs2.toNat] s (
    let q := s.me.quant.qaxis
    if entOver q s.vl then raise 0x14 (BitVec.ofNat 64 s.vl) s
    else afterQueue s (
      let l := (s.actives vm).map (fun i => (i, s.fmt.decode s.fz (s.velem vs2.toNat s.sew i)))
      let s := s.raiseFlags s.cur (nvIf (l.any (fun e => e.2.isSig)))
      vretire [] (s.modMe (fun h =>
        { h with quant := { h.quant with vscale := newScales q l h.quant.vscale } }))))

/-! ### The quantising step (R146, R147) -/

/-- quantum(q) of a code's magnitude bits. -/
def codeQuantum (mag : Nat → Rat) (top m : Nat) : Rat := if m = top then mag top - mag (top - 1) else mag (m + 1) - mag m

/-- The quantum of a code of a narrow format. -/
def Fmt.quantum (f : Fmt) (q : Word) : Rat :=
  match f with
  | .t8 => codeQuantum (taperedVal 7) 127 (ug q 7)
  | .t6 => codeQuantum (taperedVal 5) 31 (ug q 5)
  | _ => codeQuantum fp4Mag 7 (ug q 3)

/-- One conversion: the carry's order, the value, the two residues and the scale give the code, its flags and the new
residues. -/
def quantStep (f : Fmt) (frm : BitVec 3) (second : Bool) (x : FVal) (p1 p2 : W32) (scale : Byte) :
    Word × Flags × W32 × W32 :=
  let val (p : W32) : FVal := (Fmt.ieee fp32).decode false (p.setWidth 64)
  let c := if second then exactSum frm [(val p1).mul (.fin false 2), (val p2).negate] else val p1
  let e := exactSum frm [x, c]
  let nanScale := f = .fp4 && scale = 255
  let scl : Rat := if f = .fp4 then pow2 ((scale.toNat : Int) - 127) else 1
  let es : FVal := if nanScale then .nan e.isSig else match e with
    | .fin n m => .fin n (m / scl)
    | v => v
  let (q, fl) := f.round frm false es
  if es.isNan then (q, fl, 0, 0)
  else
    let lim := f.quantum q * scl
    let d : FVal := match e with
      | .inf n => .fin n lim
      | _ =>
        let v := match f.decode false q with
          | .fin n m => FVal.fin (!n) (m * scl)
          | v => v
        let d := exactSum frm [e, v]
        if lim < d.toRat then .fin false lim else if d.toRat < -lim then .fin true lim else d
    (q, fl, ((Fmt.ieee fp32).round frm false d).1.setWidth 32, p1)

/-- A segment boundary at an element resets its row (R146). -/
def QuantState.boundary (t : QuantState) (i : Nat) : QuantState :=
  let k := axisPos t.qaxis i
  let r := axisRow t.qaxis i
  if axisSeg t.qaxis ≠ 0 && 0 < k && k % axisSeg t.qaxis = 0
  then { t with prev1 := t.prev1.setIfInBounds r 0, prev2 := t.prev2.setIfInBounds r 0 } else t

/-- The start of an instruction at element 0 with `cont` = 0 (R146). -/
def QuantState.start (t : QuantState) : QuantState :=
  if bit t.qaxis 16 then t
  else
    let z (v : Vector W32 64) : Vector W32 64 := v.mapIdx (fun r x => if r < axisRows t.qaxis then 0 else x)
    { t with prev1 := z t.prev1, prev2 := z t.prev2 }

/-- R148: the first byte's bank is unformatted or holds the destination format. -/
def State.quantBank (s : State) (code : BitVec 3) (pas : List Nat) : Bool :=
  let f := s.bankFmt s.who (pas.headD 0)
  f = 0 || f = code

/-- The step of one element (R146, R148, R149). -/
def quantElem (second : Bool) (vs3 : Nat) (base : Word) (vm : BitVec 1) (i : Nat) (s : State) : ElemOut :=
  let t := s.me.quant.boundary i
  if !s.active vm i then .done (s.modMe (fun h => { h with quant := t }))
  else
    let code := axisFmt t.qaxis
    let f := fmtOf code 8
    let e := unitAt base f.bankWidth i
    match s.checkElem .store (s.quantBank code) e with
    | .error x => .trap x
    | .ok pas =>
      if s.elemFull s.who pas then .wait .element
      else
        let r := axisRow t.qaxis i
        let (q, fl, n1, n2) := quantStep f s.frm second (s.fmt.decode s.fz (s.velem vs3 s.sew i))
          (t.prev1[r]?.getD 0) (t.prev2[r]?.getD 0) (t.vscale[axisEnt t.qaxis i]?.getD 0)
        let t := { t with prev1 := t.prev1.setIfInBounds r n1, prev2 := t.prev2.setIfInBounds r n2 }
        .done ((((s.raiseFlags s.cur fl).modMe (fun h => { h with quant := t })).cache s.who .store e.addr).writeElem
          s.who e pas q)

/-- The quantising stores (R146). -/
def quantStore (second : Bool) (vs3 rs1 : BitVec 5) (vm : BitVec 1) (s : State) : Res :=
  onVector s (
    if s.vill || !s.quantFmt || (s.me.streamAt vs3.toNat).isSome then illegal s
    else if axisFmt s.me.quant.qaxis = 7 && entOver s.me.quant.qaxis s.vl then raise 0x14 (BitVec.ofNat 64 s.vl) s
    else
      let base := s.x rs1
      let s := if s.me.vec.vstart = 0 then s.modMe (fun h => { h with quant := h.quant.start }) else s
      vrun 0 [] (fun _ => []) (quantElem second vs3.toNat base vm) s)

/-- `vqst` (R146). -/
def execVqst (vs3 : BitVec 5) (rs1 : BitVec 5) (vm : BitVec 1) (s : State) : Res := quantStore false vs3 rs1 vm s
/-- `vqst2` (R146). -/
def execVqst2 (vs3 : BitVec 5) (rs1 : BitVec 5) (vm : BitVec 1) (s : State) : Res := quantStore true vs3 rs1 vm s

/-! ### Moves (R151) -/

/-- The checks of a block of n bytes at va: alignment, translation, region, bank format, then each line's. -/
def State.checkBlock (s : State) (acc : Acc) (n : Nat) (va : Word) : Except Trap Nat :=
  match s.checkRegion s.who acc .vector n va with
  | .error t => .error t
  | .ok pa =>
    if s.bankFmt s.who pa ≠ 0 then .error ⟨0x15, va⟩
    else
      match (upto (n / 64)).findSome? (fun i =>
        match s.checkLine s.who acc va (pa + 64 * i) with
        | .error t => some t
        | .ok _ => none) with
      | some t => .error t
      | none => .ok pa

/-- A store of a block. -/
def blockSave (n : Nat) (v : State → Nat) (rs1 : BitVec 5) (s : State) : Res :=
  mguard s (
    let va := s.x rs1
    match s.checkBlock .store n va with
    | .error t => takeTrap t s
    | .ok pa =>
      untilRoom s (vretire [] ((s.cache s.who .store va).writePa s.who pa (v s) n)))

/-- A load of a block. -/
def blockLoad (n : Nat) (f : Nat → QuantState → QuantState) (rs1 : BitVec 5) (s : State) : Res :=
  mguard s (
    let va := s.x rs1
    match s.checkBlock .load n va with
    | .error t => takeTrap t s
    | .ok pa =>
      let v := s.readPa s.who.core pa n
      vretire [] ((s.cache s.who .load va).modMe (fun h => { h with quant := f v h.quant })))

/-- The residues as 64 doublewords, `prev1` in the low half (R151). -/
def QuantState.residues (t : QuantState) : Nat :=
  ofBytes ((upto 64).flatMap (fun r =>
    toBytes (t.prev1[r]?.getD 0).toNat 4 ++ toBytes (t.prev2[r]?.getD 0).toNat 4))

/-- `vqsave`. -/
def execVqsave (rs1 : BitVec 5) (s : State) : Res := blockSave 512 (fun s => s.me.quant.residues) rs1 s

/-- `vqload`. -/
def execVqload (rs1 : BitVec 5) (s : State) : Res :=
  blockLoad 512 (fun v t =>
    { t with
      prev1 := Vector.ofFn (fun r : Fin 64 => BitVec.ofNat 32 (v >>> (64 * r.val)))
      prev2 := Vector.ofFn (fun r : Fin 64 => BitVec.ofNat 32 (v >>> (64 * r.val + 32))) }) rs1 s

/-- `vscsave`. -/
def execVscsave (rs1 : BitVec 5) (s : State) : Res :=
  blockSave 64 (fun s => ofBytes s.me.quant.vscale.toList) rs1 s

/-- `vscload`: it waits for the hart's queued updates (R139). -/
def execVscload (rs1 : BitVec 5) (s : State) : Res :=
  mguard s (afterQueue s (blockLoad 64 (fun v t =>
    { t with vscale := Vector.ofFn (fun r : Fin 64 => BitVec.ofNat 8 (v >>> (8 * r.val))) }) rs1 s))

/-- `vqclr`. -/
def execVqclr (s : State) : Res :=
  mguard s (vretire [] (s.modMe (fun h =>
    { h with quant := { h.quant with prev1 := Vector.replicate 64 0, prev2 := Vector.replicate 64 0 } })))

end Sys2Proof.Machine
end

