-- ==== Sys2Proof/Machine/Copy.lean ====
section
/-!
DEFINITION. Machine/Copy.lean: the copy engine (R229 to R237) and the loading of streams (R239 to R241).
-/

namespace Sys2Proof.Machine

/-! ### The descriptor (R229) -/

/-- A descriptor of 128 bytes. -/
abbrev Desc := BitVec 1024

/-- The unsigned and the signed value of n bytes at a byte offset. -/
def Desc.u (d : Desc) (off n : Nat) : Nat := (bits d (8 * off) (8 * n)).toNat
def Desc.i (d : Desc) (off n : Nat) : Int := (bits d (8 * off) (8 * n)).toInt

def Desc.tbase (d : Desc) : Nat := d.u 0 8
def Desc.lbase (d : Desc) : Nat := d.u 8 8
/-- Pitches of dimension 1 or 2 on the tensor and on the tile. -/
def Desc.tpitch (d : Desc) (k : Nat) : Int := d.i (8 + 8 * k) 8
def Desc.lpitch (d : Desc) (k : Nat) : Int := d.i (28 + 4 * k) 4
/-- Extents and starting coordinates of dimensions 0 to 2. -/
def Desc.ext (d : Desc) (k : Nat) : Nat := d.u (40 + 4 * k) 4
def Desc.org (d : Desc) (k : Nat) : Int := d.i (52 + 4 * k) 4
def Desc.n0 (d : Desc) : Nat := d.u 64 4
def Desc.n1 (d : Desc) : Nat := d.u 68 2
def Desc.n2 (d : Desc) : Nat := d.u 70 2
def Desc.ctl (d : Desc) : Word := bits d 576 64
/-- E, the bytes of an element. -/
def Desc.esize (d : Desc) : Nat := 2 ^ (bits d.ctl 0 2).toNat
/-- The copy is a store: tile to tensor. -/
def Desc.isStore (d : Desc) : Bool := bit d.ctl 2
def Desc.isJoin (d : Desc) : Bool := bit d.ctl 3
def Desc.shape (d : Desc) : Bool := bit d.ctl 4
def Desc.second (d : Desc) : Bool := bit d.ctl 5
def Desc.cmen (d : Desc) : Bool := bit d.ctl 6
def Desc.cmreg (d : Desc) : Nat := (bits d.ctl 7 3).toNat
def Desc.cmfirst (d : Desc) : Nat := (bits d.ctl 10 6).toNat
def Desc.crows (d : Desc) : Nat := (bits d.ctl 16 16).toNat
def Desc.fill (d : Desc) : Nat := d.u 80 8
def Desc.axis (d : Desc) : Word := (bits d 704 32).setWidth 64
def Desc.post (d : Desc) : Word := bits d 768 64
def Desc.pval (d : Desc) : Nat := d.u 104 8
def Desc.fidx (d : Desc) : Nat := d.u 112 8
/-- Rows, and elements, of the box. -/
def Desc.rows (d : Desc) : Nat := d.n1 * d.n2
def Desc.total (d : Desc) : Nat := d.n0 * d.rows

/-! ### Elements (R230) -/

/-- A range of indices of one dimension, and a box of three. -/
abbrev Rng := Int × Int
abbrev Box := Rng × Rng × Rng

/-- The indices of the element with a linear index. -/
def Desc.at_ (d : Desc) (e : Nat) : Int × Int × Int :=
  ((e % d.n0 : Nat), (e / d.n0 % d.n1 : Nat), (e / (d.n0 * d.n1) : Nat))

/-- The element's tensor coordinates are in range. -/
def Desc.inRange (d : Desc) (j : Int × Int × Int) : Bool :=
  let ok (k : Nat) (x : Int) : Bool := 0 ≤ d.org k + x && d.org k + x < d.ext k
  ok 0 j.1 && ok 1 j.2.1 && ok 2 j.2.2

/-- Tensor and tile address of an element. -/
def Desc.tensorAt (d : Desc) (j : Int × Int × Int) : Int :=
  d.tbase + (d.org 0 + j.1) * d.esize + (d.org 1 + j.2.1) * d.tpitch 1 + (d.org 2 + j.2.2) * d.tpitch 2
def Desc.tileAt (d : Desc) (j : Int × Int × Int) : Int :=
  d.lbase + j.1 * d.esize + j.2.1 * d.lpitch 1 + j.2.2 * d.lpitch 2

/-- The elements from `fidx` on as at most three boxes. -/
def Desc.boxes (d : Desc) : List Box :=
  let j := d.at_ d.fidx
  let n0 : Int := d.n0
  let n1 : Int := d.n1
  let n2 : Int := d.n2
  [((j.1, n0), (j.2.1, j.2.1 + 1), (j.2.2, j.2.2 + 1)), ((0, n0), (j.2.1 + 1, n1), (j.2.2, j.2.2 + 1)),
   ((0, n0), (0, n1), (j.2.2 + 1, n2))].filter (fun b => b.1.1 < b.1.2 && b.2.1.1 < b.2.1.2 && b.2.2.1 < b.2.2.2)

/-- The in-range part of a box. -/
def Desc.clip (d : Desc) (b : Box) : Box :=
  let c (k : Nat) (r : Rng) : Rng := (max r.1 (-d.org k), min r.2 (d.ext k - d.org k))
  (c 0 b.1, c 1 b.2.1, c 2 b.2.2)

/-- The in-range boxes from `fidx` on. -/
def Desc.tensorBoxes (d : Desc) : List Box :=
  (d.boxes.map d.clip).filter (fun b => b.1.1 < b.1.2 && b.2.1.1 < b.2.1.2 && b.2.2.1 < b.2.2.2)

/-- Elements of a box. -/
def boxCount (b : Box) : Nat := ((b.1.2 - b.1.1) * (b.2.1.2 - b.2.1.1) * (b.2.2.2 - b.2.2.1)).toNat

/-- The lowest and the highest address of an affine form over a box. -/
def boxSpan (base c0 c1 c2 : Int) (b : Box) : Int × Int :=
  let lo (c : Int) (r : Rng) : Int := if 0 ≤ c then c * r.1 else c * (r.2 - 1)
  let hi (c : Int) (r : Rng) : Int := if 0 ≤ c then c * (r.2 - 1) else c * r.1
  (base + lo c0 b.1 + lo c1 b.2.1 + lo c2 b.2.2, base + hi c0 b.1 + hi c1 b.2.1 + hi c2 b.2.2)

/-- The lowest and the highest address of the elements of each box, on the tile and on the tensor. -/
def Desc.tileSpans (d : Desc) : List (Int × Int) :=
  d.boxes.map (boxSpan d.lbase d.esize (d.lpitch 1) (d.lpitch 2))
def Desc.tensorSpans (d : Desc) : List (Int × Int) :=
  d.tensorBoxes.map (boxSpan (d.tensorAt (0, 0, 0)) d.esize (d.tpitch 1) (d.tpitch 2))

/-- Every address between the bounds that the elements take is one translation accepts (R231 step 3): their steps are
shorter than the gap of addresses that are not, so the bounds decide. -/
def spanCanonical (p : Int × Int) : Bool :=
  0 ≤ p.1 && p.2 < (2 ^ 64 : Nat) && (p.2 < (2 ^ 47 : Nat) || (2 ^ 64 - 2 ^ 47 : Nat) ≤ p.1)

/-- The lowest and the highest byte of several spans of elements of n bytes. -/
def hull (n : Nat) (l : List (Int × Int)) : Option (Int × Int) :=
  l.foldl (fun a p =>
    let q : Int × Int := (p.1, p.2 + n - 1)
    match a with
    | none => some q
    | some r => some (min r.1 q.1, max r.2 q.2)) none

/-- Two hulls meet. -/
def hullsMeet (a b : Option (Int × Int)) : Bool :=
  match a, b with
  | some p, some q => p.1 ≤ q.2 && q.1 ≤ p.2
  | _, _ => false

/-! ### Converting copies (R232) -/

/-- The bank a page of a side lies in and its format, where that bank is a scratchpad bank. -/
def State.bankAt (s : State) (w : Who) (acc : Acc) (va : Word) : Option ((Nat × Nat) × BitVec 3) :=
  match s.translate w acc va with
  | .error _ => none
  | .ok pa =>
    match s.region w.core pa with
    | .scratch g b _ =>
      if (s.core g).lmsplit.getLsbD b then some ((g, b), (s.core g).lmfmt[b]?.getD 0) else none
    | _ => none

/-- A converting copy: the bases of its two rows, the source first, their formats and their banks. -/
structure Conv where
  src  : Word
  dst  : Word
  fsrc : BitVec 3
  fdst : BitVec 3
  bsrc : Nat × Nat
  bdst : Nat × Nat

/-- The copy converts if its first source and its first destination element lie in banks of formats that are nonzero
and differ. -/
def State.converts (s : State) (w : Who) (d : Desc) : Option Conv :=
  if !d.inRange (0, 0, 0) then none
  else
    let ten := wordOfInt (d.tensorAt (0, 0, 0))
    let til := wordOfInt (d.tileAt (0, 0, 0))
    let src := if d.isStore then til else ten
    let dst := if d.isStore then ten else til
    match s.bankAt w .load src, s.bankAt w .store dst with
    | some (b, f), some (c, g) => if f ≠ 0 && g ≠ 0 && f ≠ g then some ⟨src, dst, f, g, b, c⟩ else none
    | _, _ => none

/-- Element i of a row in the packed layout of a bank format (R77). -/
def packedAt (base : Word) (f : BitVec 3) (i : Nat) : ElemAt := unitAt base (bankFormat f).bankWidth i

/-- The lowest and the highest address of elements i to n − 1 of a row, and the bytes of the last. -/
def packedSpan (base : Word) (f : BitVec 3) (i n : Nat) : (Int × Int) × Nat :=
  let off (e : ElemAt) : Int := base.toNat + (e.addr - base).toNat
  let e := packedAt base f (n - 1)
  ((off (packedAt base f i), off e), e.bytes)

/-- Every page that elements 0 to n − 1 of a row touch, where it can be translated, lies in the row's bank. -/
def State.oneBank (s : State) (w : Who) (acc : Acc) (base : Word) (f : BitVec 3) (b : Nat × Nat) (n : Nat) : Bool :=
  let e := packedAt base f (n - 1)
  let last := base.toNat % 4096 + (e.addr - base).toNat + e.bytes - 1
  (upto (last / 4096 + 1)).all (fun i =>
    let va := (base &&& ~~~0xFFF) + BitVec.ofNat 64 (4096 * i)
    match s.translate w acc va with
    | .error _ => true
    | .ok _ =>
      match s.bankAt w acc va with
      | some (c, _) => c = b
      | none => false)

/-- The conditions of R232 on a converting copy. -/
def State.convOk (s : State) (w : Who) (d : Desc) (v : Conv) : Bool :=
  d.n1 = 1 && d.n2 = 1 && d.org 0 = 0 && d.n0 ≤ d.ext 0 &&
    s.oneBank w .load v.src v.fsrc v.bsrc d.n0 && s.oneBank w .store v.dst v.fdst v.bdst d.n0

/-- The conditions of R231 and R232 on noise shaping. -/
def Desc.shapeOk (d : Desc) (v : Conv) : Bool :=
  d.fidx = 0 && [2, 3, 4].contains v.fsrc.toNat && (bits d.axis 18 2).toNat ≠ 3 && axisFmt d.axis = v.fdst

/-! ### Issuing (R231) -/

/-- The limits of R229 and the checks of R231 step 2 that no bank decides. -/
def Desc.limitsOk (d : Desc) : Bool :=
  (upto 3).all (fun k => d.ext k < 2 ^ 31) && 1 ≤ d.n0 && d.n0 ≤ 2 ^ 24 && 1 ≤ d.n1 && 1 ≤ d.n2 &&
    bits d.ctl 32 32 = 0 && bits d.axis 20 12 = 0 && d.u 92 4 = 0 && (!d.cmen || 1 ≤ d.crows) &&
    d.fidx < d.total && (!d.cmen || d.cmfirst + ceilDiv d.rows d.crows ≤ 64) && d.post.toNat % 8 = 0

/-- The spans of the two sides: of every element of a plain copy, of the rows of a converting one. -/
def Desc.spans (d : Desc) (v : Option Conv) : List (Int × Int) × List (Int × Int) :=
  match v with
  | none => (d.tensorSpans, d.tileSpans)
  | some v => ([(packedSpan v.src v.fsrc d.fidx d.n0).1], [(packedSpan v.dst v.fdst d.fidx d.n0).1])

/-- The bytes of the last element of each side. -/
def Desc.lastBytes (d : Desc) (v : Option Conv) : Nat × Nat :=
  match v with
  | none => (d.esize, d.esize)
  | some v => ((packedSpan v.src v.fsrc d.fidx d.n0).2, (packedSpan v.dst v.fdst d.fidx d.n0).2)

/-- R231 steps 2 and 3: the cause of the first check that fails. -/
def State.copyCause (s : State) (w : Who) (d : Desc) : Option (BitVec 8) :=
  if !d.limitsOk then some 0x33
  else
    let v := s.converts w d
    let banks := match v with
      | none => !d.shape
      | some v => s.convOk w d v && (!d.shape || d.shapeOk v)
    let sp := d.spans v
    let lb := d.lastBytes v
    if !banks || hullsMeet (hull lb.1 sp.1) (hull lb.2 sp.2) then some 0x33
    else if !(sp.1 ++ sp.2).all spanCanonical || !canonical d.post then some 0x32
    else none

/-- A hart's copies that are outstanding (R231 step 4). -/
def State.copiesOf (s : State) (k : Nat) : Nat :=
  (s.core (coreOf k)).copies.countP (fun c => c.slot = slotOf k && c.hgen = (s.hart k).hgen)

/-- What `tcopy` writes to `x[rd]`: the number of elements the copy writes. -/
def Desc.written (d : Desc) : Nat :=
  if d.isStore then (d.tensorBoxes.map boxCount).sum else d.total - d.fidx

/-- The copy as the engine holds it. -/
def State.newCopy (s : State) (d : Desc) (at_ : Word) (scope : Nat) : Copy :=
  let v := s.converts s.who d
  { id := (s.myCore.copies.map (·.id)).foldl max 0 + 1
    slot := slotOf s.cur, hgen := s.me.hgen, desc := d, descAt := at_, tr := s.trOf s.cur
    gang := s.gangOf s.cur, scope := scope
    frm := bits s.me.fcsr 5 3
    conv := v.map (fun v => (v.fsrc, v.fdst))
    banks := match v with
      | some v => [v.bsrc, v.bdst]
      | none => []
    q := { qaxis := d.axis } }

/-- `tcopy` (R231). -/
def execTcopy (rd : BitVec 5) (rs1 : BitVec 5) (scope : BitVec 3) (s : State) : Res :=
  onContext s (wellFormed (scopeOk scope) s (
    let a := s.x rs1
    if a.toNat % 128 ≠ 0 then raise 0x04 a s
    else
      match s.loadWords a 16 with
      | .error t => takeTrap t s
      | .ok (l, s') =>
        let d : Desc := BitVec.ofNat 1024 (ofBytes (l.flatMap (fun v => toBytes v.toNat 8)))
        match s'.copyCause s'.who d with
        | some c => raise c a s
        | none =>
          if 16 ≤ s.copiesOf s.cur then stall .copies s
          else
            let c := s'.newCopy d a scope.toNat
            retireX rd (BitVec.ofNat 64 d.written) (s'.modCore (coreOf s.cur) (fun x => { x with copies := x.copies ++ [c] }))))

/-! ### Moving (R233) -/

/-- The copy's key, and the party it moves as (R203, R339). -/
def Copy.hart (c : Copy) (core : Nat) : Nat := ctxKey core c.slot
def State.copyWho (s : State) (core : Nat) (c : Copy) : Who :=
  let k := c.hart core
  whoCopy k c.tr c.gang ((s.hart k).hgen ≠ c.hgen)

/-- A copy of a core, by its number. -/
def State.copy? (s : State) (core n : Nat) : Option Copy := (s.core core).copies.find? (fun c => c.id = n)
def State.setCopy (s : State) (core : Nat) (c : Copy) : State :=
  s.modCore core (fun x => { x with copies := x.copies.map (fun d => if d.id = c.id then c else d) })
def State.dropCopy (s : State) (core n : Nat) : State :=
  s.modCore core (fun x => { x with copies := x.copies.filter (fun d => d.id ≠ n) })

/-- The index with n undone indices below it, from `i` on, given the done ones from there in rising order. -/
def undone : List Nat → Nat → Nat
  | [], p => p
  | d :: ds, p => if d ≤ p then undone ds (p + 1) else p

/-- The elements still to move, the n-th of them, and the least. -/
def Copy.left (c : Copy) : Nat := Desc.total c.desc - Desc.fidx c.desc - c.done.length
def Copy.nth (c : Copy) (n : Nat) : Nat := undone c.done (Desc.fidx c.desc + n)
def Copy.least (c : Copy) : Nat := c.nth 0

/-- The domain address of every byte of an n-byte element: one access where it is aligned, else one for each byte, all
checked before any moves. -/
def State.checkBytes (s : State) (w : Who) (acc : Acc) (va : Word) (n : Nat) : Except Trap (List Nat) :=
  if va.toNat % n = 0 then
    match s.check w acc .vector n va with
    | .error t => .error t
    | .ok pa => .ok ((upto n).map (pa + ·))
  else
    (upto n).foldl (fun r i =>
      match r with
      | .error t => .error t
      | .ok l =>
        match s.check w acc .vector 1 (va + BitVec.ofNat 64 i) with
        | .error t => .error ⟨t.cause, va⟩
        | .ok pa => .ok (l ++ [pa])) (.ok [])

/-- Writes an n-byte element at the addresses of its bytes. -/
def State.writeBytes (s : State) (w : Who) (va : Word) (pas : List Nat) (v : Nat) : State :=
  if va.toNat % pas.length = 0 then s.writePa w (pas.headD 0) v pas.length
  else ((upto pas.length).zip pas).foldl (fun s p => s.writePa w p.2 (byteOf v p.1).toNat 1) s

/-- How an element's move ends: moved, failed by a cause at an address, or waiting for a window's capacity. -/
inductive MoveOut where
  | moved (s : State)
  | failed (cause : BitVec 8) (a : Word)
  | wait

/-- Puts an element's value at its destination. -/
def State.putElement (s : State) (w : Who) (va : Word) (n v : Nat) : MoveOut :=
  match s.checkBytes w .store va n with
  | .error t => .failed t.cause va
  | .ok pas => if s.elemFull w pas then .wait else .moved ((s.cache w .store va).writeBytes w va pas v)

/-- Moves element e of a plain copy (R230). -/
def State.movePlain (s : State) (core : Nat) (c : Copy) (e : Nat) : MoveOut :=
  let d : Desc := c.desc
  let w := s.copyWho core c
  let n := d.esize
  let j := d.at_ e
  let ten := wordOfInt (d.tensorAt j)
  let til := wordOfInt (d.tileAt j)
  let move (src dst : Word) : MoveOut :=
    match s.checkBytes w .load src n with
    | .error t => .failed t.cause src
    | .ok pas =>
      let v := ofBytes (pas.map (fun pa => BitVec.ofNat 8 (s.readPa w.core pa 1)))
      (s.cache w .load src).putElement w dst n v
  if d.inRange j then (if d.isStore then move til ten else move ten til)
  else if d.isStore then .moved s
  else s.putElement w til n (d.fill % 2 ^ (8 * n))

/-- The value of an element of a converting copy, its flags and the copy's residues after it (R154). -/
def Copy.convert (c : Copy) (f g : BitVec 3) (e : Nat) (x : Word) : Word × Flags × QuantState :=
  let d : Desc := c.desc
  if d.shape then
    let t := c.q.boundary e
    let r := axisRow t.qaxis e
    let (q, fl, n1, n2) := quantStep (bankFormat g) c.frm d.second ((bankFormat f).decode false x)
      (t.prev1[r]?.getD 0) (t.prev2[r]?.getD 0) 127
    (q, fl, { t with prev1 := t.prev1.setIfInBounds r n1, prev2 := t.prev2.setIfInBounds r n2 })
  else
    let r := Sys2Proof.Machine.convert (bankFormat g) (bankFormat f) c.frm false x
    (r.1, r.2, c.q)

/-- Moves element e of a converting copy from format f to format g. -/
def State.moveConv (s : State) (core : Nat) (c : Copy) (f g : BitVec 3) (e : Nat) : MoveOut :=
  let d : Desc := c.desc
  let w := s.copyWho core c
  let ten := wordOfInt (d.tensorAt (0, 0, 0))
  let til := wordOfInt (d.tileAt (0, 0, 0))
  let src := packedAt (if d.isStore then til else ten) f e
  let dst := packedAt (if d.isStore then ten else til) g e
  match s.checkElemBy w .load 1 (fun _ => true) src with
  | .error t => .failed t.cause src.addr
  | .ok ps =>
    match s.checkElemBy w .store 1 (fun _ => true) dst with
    | .error t => .failed t.cause dst.addr
    | .ok pd =>
      if s.elemFull w pd then .wait
      else
        let r := c.convert f g e (s.readElemBy w.core src ps)
        let s := ((s.cache w .load src.addr).cache w .store dst.addr).writeElem w dst pd r.1
        .moved (s.setCopy core { c with flags := c.flags ||| r.2.1, q := r.2.2 })

/-- COPY_ELEMENT_MOVE (R233): one of the copy's remaining elements, the least of a shaped copy, moves; a failing access
stops the copy (R234). -/
def execCopyElementMove (core : Nat) (n : Nat) (s : State) : Res :=
  match s.copy? core n with
  | none => .next s
  | some c =>
    if c.left = 0 || c.stop.isSome || c.ended then .next s
    else
      let e := if Desc.shape c.desc then c.least else c.nth (Config.copyPick s.free % c.left)
      let s' := s.bump
      let out := match c.conv with
        | some (f, g) => s'.moveConv core c f g e
        | none => s'.movePlain core c e
      untilRoomStep s (match out with
      | .wait => .next s
      | .failed t a =>
        .next ((s'.setCopy core { c with stop := some ⟨a, c.least⟩ }).lineError c.tr.part (clusterOfCore core) t a)
      | .moved t =>
        match t.copy? core n with
        | some c => .next (t.setCopy core { c with done := insertNat c.done e })
        | none => .next t)

/-! ### Chunks (R236) -/

/-- The linear indices of a chunk: from the first up to the end. -/
def Desc.chunkFrom (d : Desc) (k : Nat) : Nat := k * d.crows * d.n0
def Desc.chunkTo (d : Desc) (k : Nat) : Nat := min ((k + 1) * d.crows) d.rows * d.n0

/-- The chunks with an element at or above `fidx` that are written and whose bit this copy has still to set. -/
def Copy.chunksDue (c : Copy) : List Nat :=
  let d : Desc := c.desc
  if !d.cmen then []
  else (upto (ceilDiv d.rows d.crows)).filter (fun k =>
    let lo := max (d.chunkFrom k) d.fidx
    let hi := d.chunkTo k
    lo < hi && !c.chunks.contains k && c.done.countP (fun e => lo ≤ e && e < hi) = hi - lo)

/-- Sets a chunk's bit. -/
def State.setChunk (s : State) (core : Nat) (c : Copy) (k : Nat) : State :=
  let d : Desc := c.desc
  let s := s.modCore core (fun x =>
    { x with cmask := x.cmask.setIfInBounds d.cmreg (setBit (x.cmask[d.cmreg]?.getD 0) (d.cmfirst + k) true) })
  match s.copy? core c.id with
  | some c => s.setCopy core { c with chunks := insertNat c.chunks k }
  | none => s

/-- CHUNK_COMPLETE (R236): a written chunk's bit is set. -/
def execChunkComplete (core : Nat) (n : Nat) (s : State) : Res :=
  match s.copy? core n with
  | none => .next s
  | some c =>
    if c.ended then .next s
    else
      match c.chunksDue with
      | k :: _ => .next (s.setChunk core c k)
      | [] => .next s

/-! ### Completion (R235) -/

/-- Flags of a converting copy reach the issuing hart: its `fflags`, its save area if it is saved, nowhere if its
context has been retired or reassigned. -/
def State.copyFlags (s : State) (k : Nat) (gen : W32) (f : Flags) : State :=
  let h := s.hart k
  if f = 0 || h.hgen ≠ gen || (s.core (coreOf k)).fenced then s
  else
    match h.areaNow with
    | some a =>
      s.writePa device (a.toNat + 0x108) (Memory.read s.mem (a.toNat + 0x108) 8 ||| f.toNat) 8
    | none => s.raiseFlags k f

/-- The join decrement a copy's post makes: the counter's faults that stop no copy go to Lodestar with the address of
the block (R298, R299). -/
def State.postJoin (s : State) (core : Nat) (c : Copy) (va : Word) : State :=
  let w := s.copyWho core c
  let k := c.hart core
  match s.joinTake w va with
  | .error t => s.forward k t.cause va
  | .ok (old, s') =>
    if old = 1 then
      match s'.continuation w core va with
      | .error t => s'.forward k t.cause va
      | .ok s' => s'
    else s'

/-- A copy whose post access fails with a cause stops (R234); the flags have been raised before (R235). -/
def State.stopPost (s : State) (core : Nat) (c : Copy) (cause : BitVec 8) : State :=
  let d : Desc := c.desc
  (s.setCopy core { c with flags := 0, stop := some ⟨d.post, d.total⟩ }).lineError c.tr.part (clusterOfCore core) cause d.post

/-- The post of a copy whose flags have been raised (R235 step 2). -/
def State.postCopy (s : State) (core : Nat) (c : Copy) : State :=
  let d : Desc := c.desc
  let w := s.copyWho core c
  let ended := s.dropCopy core c.id
  if d.post = 0 then ended
  else if d.isJoin && d.post.toNat % 128 ≠ 0 then s.stopPost core c 0x06
  else
    match s.check w .amo .atomic 8 d.post with
    | .error t => s.stopPost core c t.cause
    | .ok pa =>
      if d.isJoin then ended.postJoin core c d.post
      else (ended.cache w .amo d.post).writePa w pa ((s.readPa w.core pa 8 + d.pval) % 2 ^ 64) 8

/-- COPY_COMPLETE (R235): every element is written and every chunk's bit set: the flags, then the post; a failing post
access stops the copy (R234). -/
def execCopyComplete (core : Nat) (n : Nat) (s : State) : Res :=
  match s.copy? core n with
  | none => .next s
  | some c =>
    if c.left ≠ 0 || c.stop.isSome || c.ended || !c.chunksDue.isEmpty then .next s
    else untilRoomStep s (.next ((s.copyFlags (c.hart core) c.hgen c.flags).postCopy core c))

/-! ### Stopping (R234) -/

/-- Writes `fidx` and `faddr` into the descriptor, if both can be. -/
def State.writeStop (s : State) (core : Nat) (c : Copy) (p : CopyStop) : State :=
  let w := s.copyWho core c
  match s.check w .store .vector 8 (c.descAt + 112), s.check w .store .vector 8 (c.descAt + 120) with
  | .ok a, .ok b => (s.writePa w a p.fidx 8).writePa w b p.faddr.toNat 8
  | _, _ => s

/-- COPY_FAULT (R234): the descriptor, the chunk bits, then 0x34 to the issuing hart, or to Lodestar. -/
def execCopyFault (core : Nat) (n : Nat) (s : State) : Res :=
  match s.copy? core n with
  | none => .next s
  | some c =>
    match c.stop with
    | none => .next s
    | some p =>
      let k := c.hart core
      if c.ended then .next s
      else
        let t := c.chunksDue.foldl (fun s k => s.setChunk core c k) (s.writeStop core c p)
        let t := match t.copy? core n with
          | some c => t.setCopy core { c with ended := true }
          | none => t
        .next (s.untilWindowRoom (t.deferOrWait k c.hgen ⟨0x34, c.descAt⟩ (.copy n)))

/-! ### Streams (R239 to R241) -/

/-- The pattern's fields are within their limits. -/
def Stream.limitsOk (t : Stream) : Bool :=
  (upto 3).all (fun d => 1 ≤ t.cnt d && t.cnt d ≤ 2 ^ 24) && bits t.pat 354 6 = 0 && bits t.pat 360 152 = 0

/-- Every element address of the pattern is one translation accepts. -/
def Stream.addrsOk (t : Stream) : Bool :=
  spanCanonical (boxSpan (bits t.pat 0 64).toNat (t.pitch 0) (t.pitch 1) (t.pitch 2)
    ((0, t.cnt 0), (0, t.cnt 1), (0, t.cnt 2)))

/-- `strm.set` (R239). -/
def execStrmSet (rs1 : BitVec 5) (k : BitVec 2) (s : State) : Res :=
  onVector s (
    let a := s.x rs1
    if a.toNat % 64 ≠ 0 then raise 0x04 a s
    else
      match s.loadWords a 8 with
      | .error t => takeTrap t s
      | .ok (l, s') =>
        let t : Stream :=
          { pat := BitVec.ofNat 512 (ofBytes (l.flatMap (fun v => toBytes v.toNat 8))), pos := 0, tr := s.trOf s.cur
            gang := s.gangOf s.cur, strip := [] }
        if !t.limitsOk then raise 0x33 a s
        else if !t.addrsOk then raise 0x32 a s
        else
          retire (s'.modMe (fun h =>
            { h with
              strm := h.strm.setIfInBounds k.toNat t
              strmctl := strmctlSet h.strmctl k.toNat })))

/-- STREAM_REFILL (R240, R241): element `pos` + i of an active stream is fetched ahead of its use; a read that fails
raises nothing unless an instruction consumes the element. -/
def execStreamRefill (hart : Nat) (k : Nat) (i : Nat) (s : State) : Res :=
  let h := s.hart hart
  if isCtx hart && strmEn h.strmctl k then
    match s.strmFetch hart k ((h.strm[k]?.getD {}).pos + i) with
    | .ok s => .next s
    | .error _ => .next s
  else .next s

end Sys2Proof.Machine
end

