-- ==== Sys2Proof/Machine/Gfx.lean ====
section
/-!
DEFINITION. Machine/Gfx.lean: texture sampling (R158, R159), ray queries (R160 to R164), sample generation (R165 to
R167), the visibility-buffer minimum (R168) and blending (R169, R170). Their arithmetic reads neither `frm` nor
`fz` and raises no flag (R155).
-/

namespace Sys2Proof.Machine

/-! ### Shared -/

/-- One rounding to nearest even into FP32, as a pattern and as a value. -/
def rneBits (v : FVal) : Nat := (fp32.round 0 false v).1
def rne (v : FVal) : FVal := fp32.decode (rneBits v)
/-- Exact differences and sums of values, a zero signed as R72 says for RNE. -/
def fsub (a b : FVal) : FVal := exactSum 0 [a, b.negate]
/-- The value is finite. -/
def FVal.finite (v : FVal) : Bool := !v.isNan && !v.isInf

/-- The value of an FP32 element. -/
def State.f32 (s : State) (r i : Nat) : FVal := fp32.decode (ug (s.velem r 32 i) 32)

/-- n 4-byte words of the issuing hart from an aligned address, each a load of its own (R156); the first that fails
decides. -/
def State.words32 (s : State) (a : Word) : Nat → Except Trap (List Nat)
  | 0 => .ok []
  | n + 1 =>
    match s.agentRead s.who a 4 with
    | .error t => .error t
    | .ok v =>
      match s.words32 (a + 4) n with
      | .error t => .error t
      | .ok l => .ok (v :: l)

/-- The translation caches after loads of the current hart at several addresses. -/
def State.cacheAll (s : State) (l : List Word) : State := l.foldl (fun s a => s.cache s.who .load a) s

/-- Element i of the registers of a destination group, all written in one step (R155). -/
def State.setGroup (s : State) (vd w i : Nat) (l : List Nat) : State :=
  ((upto l.length).zip l).foldl (fun s p => s.setVelem (vd + p.1) w i (BitVec.ofNat 64 p.2)) s

/-- The registers of a group. -/
def group (r n : Nat) : List Nat := (upto n).map (r + ·)

/-- What an Xlgfx instruction shares (R155): its checks, the check of its `vtype`, a check at issue, and its elements.
`reads` are the registers its elements read, `writes` its destination group. -/
def gfxRun (ok vt : Bool) (writes reads : List Nat) (vm : BitVec 1) (issue : State → Except Trap Unit)
    (body : Nat → State → ElemOut) (s : State) : Res :=
  vguard false ok writes reads s (
    if !vt then illegal s
    else
      match issue s with
      | .error t => takeTrap t s
      | .ok _ =>
        let w := s.sew
        vrun vm reads (fun i => reads.map (fun r => needElem w r i)) body s)

/-- The `vtype` is FP32 at e32. -/
def State.isF32 (s : State) : Bool := s.fmtCode = 2 && s.sew = 32
/-- The `vtype` is INT at a width. -/
def State.isInt (s : State) (w : Nat) : Bool := s.fmtCode = 0 && s.sew = w

/-! ### Texture sampling (R158, R159) -/

/-- A texture descriptor. -/
structure TexDesc where
  base   : Word
  w      : Nat
  h      : Nat
  half   : Bool
  levels : Nat
  mu     : Nat
  mv     : Nat
  linear : Bool

/-- The fields of the 32 bytes, or none where one is outside its limits (R158). -/
def TexDesc.ofWords (l : List Word) : Option TexDesc :=
  let a := l[0]?.getD 0
  let b := l[1]?.getD 0
  let w := (bits b 0 16).toNat
  let h := (bits b 16 16).toNat
  let fmt := (bits b 32 8).toNat
  let lv := (bits b 40 8).toNat
  let mu := (bits b 48 2).toNat
  let mv := (bits b 50 2).toNat
  if bits a 0 6 = 0 && 1 ≤ w && w ≤ 16384 && 1 ≤ h && h ≤ 16384 && fmt ≤ 1 && 1 ≤ lv && lv ≤ 15 && mu ≤ 2 && mv ≤ 2 &&
      bits b 52 4 = 0 && bits b 57 7 = 0 && l[2]?.getD 0 = 0 && l[3]?.getD 0 = 0
  then some ⟨a, w, h, fmt = 1, lv, mu, mv, bit b 56⟩ else none

/-- The texel size, and the size and the row pitch of a level. -/
def TexDesc.tb (d : TexDesc) : Nat := if d.half then 8 else 4
def TexDesc.wl (d : TexDesc) (l : Nat) : Nat := max 1 (d.w / 2 ^ l)
def TexDesc.hl (d : TexDesc) (l : Nat) : Nat := max 1 (d.h / 2 ^ l)
def TexDesc.pitch (d : TexDesc) (l : Nat) : Nat := ceilDiv (d.wl l * d.tb) 64 * 64
/-- Where a texel of a level lies. -/
def TexDesc.texel (d : TexDesc) (l x y : Nat) : Word :=
  d.base + BitVec.ofNat 64 (((upto l).map (fun m => d.pitch m * d.hl m)).foldl (· + ·) 0 + y * d.pitch l + x * d.tb)

/-- Address modes: wrap, clamp, mirror. -/
def texAddr (mode : Nat) (i : Int) (n : Nat) : Nat :=
  match mode with
  | 0 => (i % (n : Int)).toNat
  | 1 => (min (max i 0) ((n : Int) - 1)).toNat
  | _ =>
    let m := (i % (2 * n : Int)).toNat
    if m < n then m else 2 * n - 1 - m

/-- The weighted texels of a sample: weights of 65,536 in all, absent texels left out. -/
def TexDesc.footprint (d : TexDesc) (l : Nat) (u v : Rat) : List (Nat × Nat × Nat) :=
  let W := d.wl l
  let H := d.hl l
  if !d.linear then [(65536, texAddr d.mu (u * W).floor W, texAddr d.mv (v * H).floor H)]
  else
    let X := (u * W * 256).floor - 128
    let Y := (v * H * 256).floor - 128
    let i0 := X / 256
    let j0 := Y / 256
    let fu := (X - 256 * i0).toNat
    let fv := (Y - 256 * j0).toNat
    let x0 := texAddr d.mu i0 W
    let x1 := texAddr d.mu (i0 + 1) W
    let y0 := texAddr d.mv j0 H
    let y1 := texAddr d.mv (j0 + 1) H
    [((256 - fu) * (256 - fv), x0, y0), (fu * (256 - fv), x1, y0), ((256 - fu) * fv, x0, y1), (fu * fv, x1, y1)].filter
      (fun t => t.1 ≠ 0)

/-- Channel c of a texel's words. -/
def TexDesc.channel (d : TexDesc) (t : List Nat) (c : Nat) : FVal :=
  if d.half then fp16.decode ((t[c / 2]?.getD 0) / 2 ^ (16 * (c % 2)) % 2 ^ 16)
  else .fin false ((t[0]?.getD 0) / 2 ^ (8 * c) % 256 : Nat)

/-- A channel of the result from the weighted texels. -/
def TexDesc.result (d : TexDesc) (l : List (Nat × List Nat)) (c : Nat) : Nat :=
  let sum := exactSum 0 (l.map (fun t => FVal.mul (.fin false (t.1 : Rat)) (d.channel t.2 c)))
  rneBits (FVal.mul sum (.fin false (if d.half then 1 / 65536 else 1 / (65536 * 255))))

/-- The texels of a footprint, read in its order. -/
def State.texels (s : State) (d : TexDesc) (l : Nat) : List (Nat × Nat × Nat) → Except Trap (List (Nat × List Nat))
  | [] => .ok []
  | (w, x, y) :: r =>
    match s.words32 (d.texel l x y) (d.tb / 4) with
    | .error t => .error t
    | .ok t =>
      match s.texels d l r with
      | .error t => .error t
      | .ok ts => .ok ((w, t) :: ts)

/-- One sample: R, G, B, A, and the addresses read. -/
def State.sample (s : State) (d : TexDesc) (u v lod : FVal) : Except Trap (List Nat × List Word) :=
  if !(u.finite && v.finite && lod.finite) then .ok ([0, 0, 0, 0], [])
  else
    let l := (min (max (lod.toRat + 1 / 2).floor 0) ((d.levels : Int) - 1)).toNat
    let f := d.footprint l u.toRat v.toRat
    match s.texels d l f with
    | .error t => .error t
    | .ok ts => .ok ((upto 4).map (d.result ts), f.map (fun t => d.texel l t.2.1 t.2.2))

/-- The descriptor at an address (R158): 0x04 off 32 bytes, the causes of a load with its address, 0x70. -/
def State.texDesc (s : State) (a : Word) : Except Trap TexDesc :=
  match s.check s.who .load .vector 32 a with
  | .error t => .error t
  | .ok pa =>
    match TexDesc.ofWords ((upto 4).map (fun i => BitVec.ofNat 64 (s.readPa s.who.core (pa + 8 * i) 8))) with
    | none => .error ⟨0x70, a⟩
    | some d => .ok d

/-- `vtex` (R158, R159). -/
def execVtex (vd : BitVec 5) (vs2 : BitVec 5) (rs1 : BitVec 5) (vm : BitVec 1) (s : State) : Res :=
  let a := s.x rs1
  let d := s.texDesc a
  let b := vs2.toNat
  gfxRun (gfxWf vd 4 4 vs2 3 4 vm) s.isF32 (group vd.toNat 4) (group b 3) vm
    (fun _ => d.map (fun _ => ()))
    (fun i s =>
      match d with
      | .error t => .trap t
      | .ok d =>
        match s.sample d (s.f32 b i) (s.f32 (b + 1) i) (s.f32 (b + 2) i) with
        | .error t => .trap t
        | .ok (l, rs) => .done ((s.cacheAll (a :: rs)).setGroup vd.toNat 32 i l)) s

/-! ### Ray queries (R160 to R164) -/

/-- A ray: origin, direction and the limits of t. -/
structure Ray where
  o    : Vector FVal 3
  d    : Vector FVal 3
  tmin : FVal
  tmax : FVal

def Ray.od (r : Ray) (a : Nat) : FVal := r.o[a]?.getD (.fin false 0)
def Ray.dd (r : Ray) (a : Nat) : FVal := r.d[a]?.getD (.fin false 0)

/-- A degenerate lane returns a miss and reads nothing (R161). -/
def Ray.degenerate (r : Ray) : Bool :=
  (upto 3).any (fun a => !(r.od a).finite || !(r.dd a).finite) || (upto 3).all (fun a => (r.dd a).isZero) ||
    r.tmin.isNan || r.tmax.isNan || r.tmax.lt r.tmin

/-- The ray of element i. -/
def State.ray (s : State) (r i : Nat) : Ray :=
  { o := Vector.ofFn (fun a => s.f32 (r + a.val) i), d := Vector.ofFn (fun a => s.f32 (r + 3 + a.val) i),
    tmin := s.f32 (r + 6) i, tmax := s.f32 (r + 7) i }

/-- A set of reals: those between two bounds, either absent. -/
abbrev Span := Option Rat × Option Rat

/-- Reals between two values, none where the lower is +∞ or the upper −∞. -/
def spanOf (lo hi : FVal) : Option Span :=
  if lo = .inf false || hi = .inf true then none
  else some (if lo.isInf then none else some lo.toRat, if hi.isInf then none else some hi.toRat)

/-- The common part of two spans. -/
def Span.meet (a b : Span) : Span :=
  (match a.1, b.1 with
    | some x, some y => some (max x y)
    | x, y => x.or y,
   match a.2, b.2 with
    | some x, some y => some (min x y)
    | x, y => x.or y)

/-- Some real lies in the span. -/
def Span.holds (a : Span) : Bool :=
  match a.1, a.2 with
  | some x, some y => x ≤ y
  | _, _ => true

/-- The t for which o + t·d lies in a span: none, or a span. -/
def Span.along (b : Span) (o d : Rat) : Option Span :=
  if d = 0 then (if (Span.meet b (some o, some o)).holds then some (none, none) else none)
  else
    let f (x : Rat) : Rat := (x - o) / d
    if 0 < d then some (b.1.map f, b.2.map f) else some (b.2.map f, b.1.map f)

/-- The box test (R161) of six bounds: min x, y, z, max x, y, z. -/
def Ray.hitsBox (r : Ray) (b : Nat → FVal) : Bool :=
  if (upto 6).any (fun k => (b k).isNan) || (upto 3).any (fun a => (b (a + 3)).lt (b a)) then false
  else
    let axis (a : Nat) : Option Span :=
      (spanOf (b a) (b (a + 3))).bind (fun p => p.along (r.od a).toRat (r.dd a).toRat)
    match spanOf r.tmin r.tmax, axis 0, axis 1, axis 2 with
    | some t, some x, some y, some z => (((t.meet x).meet y).meet z).holds
    | _, _, _, _ => false

/-- A hit: t, and the patterns of t, u and v, the primitive and the triangle's address (R163). -/
structure RayHit where
  t    : FVal
  tb   : Nat
  ub   : Nat
  vb   : Nat
  prim : Nat
  addr : Nat

/-- The hit comes before another (R163): smaller t, then primitive, then address. -/
def RayHit.before (a b : RayHit) : Bool :=
  a.t.lt b.t || (a.t.eq b.t && (a.prim < b.prim || (a.prim = b.prim && a.addr < b.addr)))

/-- `tri_test` (R162) of a triangle whose vertex n has coordinate a at `p n a`: t with its pattern, and those of u
and v. -/
def Ray.triTest (r : Ray) (p : Nat → Nat → FVal) : Option (FVal × Nat × Nat × Nat) :=
  let mag (a : Nat) : Rat := FVal.toRat (match r.dd a with
    | .fin _ m => .fin false m
    | v => v)
  let kz := if mag 1 ≤ mag 0 && mag 2 ≤ mag 0 then 0 else if mag 2 ≤ mag 1 then 1 else 2
  let k1 := (kz + 1) % 3
  let k2 := (k1 + 1) % 3
  let flip := (r.dd kz).sign
  let kx := if flip then k2 else k1
  let ky := if flip then k1 else k2
  let quo (a b : FVal) : FVal := rne (FVal.div a b).1
  let sx := quo (r.dd kx) (r.dd kz)
  let sy := quo (r.dd ky) (r.dd kz)
  let sz := quo (.fin false 1) (r.dd kz)
  let q (n a : Nat) : FVal := rne (fsub (p n a) (r.od a))
  let x (n : Nat) : FVal := rne (fsub (q n kx) (sx.mul (q n kz)))
  let y (n : Nat) : FVal := rne (fsub (q n ky) (sy.mul (q n kz)))
  let z (n : Nat) : FVal := rne (sz.mul (q n kz))
  let edge (m n : Nat) : FVal := fsub ((x m).mul (y n)) ((y m).mul (x n))
  let eU := edge 2 1
  let eV := edge 0 2
  let eW := edge 1 0
  if !([sx, sy, sz].all FVal.finite && (upto 3).all (fun n =>
      (upto 3).all (fun a => (q n a).finite) && (x n).finite && (y n).finite && (z n).finite)) then none
  else if !([eU, eV, eW].all (fun e => 0 ≤ e.toRat) || [eU, eV, eW].all (fun e => e.toRat ≤ 0)) then none
  else
    let U := rne eU
    let V := rne eV
    let W := rne eW
    let det := rne (exactSum 0 [U, V, W])
    if det.isZero then none
    else
      let T := rne (exactSum 0 [U.mul (z 0), V.mul (z 1), W.mul (z 2)])
      let t := quo T det
      let u := quo V det
      let v := quo W det
      if !(t.finite && u.finite && v.finite) || t.lt r.tmin || r.tmax.lt t then none
      else some (t, rneBits (FVal.div T det).1, rneBits (FVal.div V det).1, rneBits (FVal.div W det).1)

/-- What a search has found: its first fault, its least hit, and the addresses it read. -/
structure RaySearch where
  fault : Option Trap := none
  best  : Option RayHit := none
  seen  : List Word := []

/-- A fault after those already found. -/
def RaySearch.fail (a : RaySearch) (t : Trap) : RaySearch := { a with fault := a.fault.or (some t) }

/-- The search may stop: any hit ends `vrayo`, a fault `vrayq` (R163, R164). -/
def RaySearch.over (any : Bool) (a : RaySearch) : Bool := if any then a.best.isSome else a.fault.isSome

/-- The triangle at an address (R160, R162). -/
def State.rayTriangle (s : State) (r : Ray) (t : Word) (a : RaySearch) : RaySearch :=
  match s.words32 t 10 with
  | .error e => a.fail e
  | .ok w =>
    let a := { a with seen := t :: a.seen }
    match r.triTest (fun n k => fp32.decode (w[3 * n + k]?.getD 0)) with
    | none => a
    | some (tv, tb, ub, vb) =>
      let h : RayHit := ⟨tv, tb, ub, vb, w[9]?.getD 0, t.toNat⟩
      { a with best := match a.best with
          | some b => if h.before b then some h else some b
          | none => some h }

/-- A 64-bit reference is malformed (R160). -/
def badRef (x : Word) : Bool :=
  let ty := (bits x 61 3).toNat
  3 ≤ ty || bits x 48 7 ≠ 0 || (ty = 1 && (bits x 55 6 ≠ 0 || bits x 0 7 ≠ 0)) || (ty = 2 && bits x 0 4 ≠ 0)

/-- The node at an address, with what it reaches, depth first; `n` more nodes may lie on its path (R160, R161). -/
def State.rayNode (s : State) (any : Bool) (r : Ray) : Nat → Word → RaySearch → RaySearch
  | 0, at_, a => a.fail ⟨0x71, at_⟩
  | n + 1, at_, a =>
    match s.words32 at_ 32 with
    | .error e => a.fail e
    | .ok w =>
      let a := { a with seen := (at_ + 64) :: at_ :: a.seen }
      (upto 4).foldl (fun a c =>
        let x : Word := BitVec.ofNat 64 (w[24 + 2 * c]?.getD 0 + 2 ^ 32 * w[25 + 2 * c]?.getD 0)
        if a.over any || !r.hitsBox (fun k => fp32.decode (w[6 * c + k]?.getD 0)) then a
        else if badRef x then a.fail ⟨0x71, at_ + BitVec.ofNat 64 (96 + 8 * c)⟩
        else if bits x 61 3 = 0 then a
        else
          let t := sextFrom x 48
          if bits x 61 3 = 1 then s.rayNode any r n t a
          else
            (upto ((bits x 55 6).toNat + 1)).foldl (fun a j =>
              if a.over any then a else s.rayTriangle r (t + BitVec.ofNat 64 (48 * j)) a) a) a

/-- The search of element i from a root (R161). -/
def State.raySearch (s : State) (any : Bool) (root : Word) (r : Ray) : RaySearch :=
  if r.degenerate then {} else s.rayNode any r 64 root {}

/-- A ray query; `res` is what a hit or a miss writes. -/
def rayQuery (any : Bool) (nd : Nat) (res : Option RayHit → List Nat) (vd vs2 rs1 : BitVec 5) (vm : BitVec 1)
    (s : State) : Res :=
  let a := s.x rs1
  gfxRun (gfxWf vd nd nd vs2 8 8 vm) s.isF32 (group vd.toNat nd) (group vs2.toNat 8) vm
    (fun _ => if a.toNat % 128 ≠ 0 then .error ⟨0x71, a⟩ else .ok ())
    (fun i s =>
      let f := s.raySearch any a (s.ray vs2.toNat i)
      match f.fault with
      | some t =>
        if any && f.best.isSome then .done ((s.cacheAll f.seen).setGroup vd.toNat 32 i (res f.best)) else .trap t
      | none => .done ((s.cacheAll f.seen).setGroup vd.toNat 32 i (res f.best))) s

/-- `vrayq` (R163): the nearest hit. -/
def execVrayq (vd : BitVec 5) (vs2 : BitVec 5) (rs1 : BitVec 5) (vm : BitVec 1) (s : State) : Res :=
  rayQuery false 4 (fun h =>
    match h with
    | some h => [h.tb, h.prim, h.ub, h.vb]
    | none => [0x7F800000, 0xFFFFFFFF, 0, 0]) vd vs2 rs1 vm s

/-- `vrayo` (R164): whether a hit exists. -/
def execVrayo (vd : BitVec 5) (vs2 : BitVec 5) (rs1 : BitVec 5) (vm : BitVec 1) (s : State) : Res :=
  rayQuery true 1 (fun h => [if h.isSome then 1 else 0]) vd vs2 rs1 vm s

/-! ### Sample generation (R165 to R167) -/

/-- m_k, m_{k−1} down to m_1 extended by `n` further values: `d` the degree, `co` the coefficients a_1 up. -/
def sobolGrow (d : Nat) (co : List Nat) : Nat → List Nat → List Nat
  | 0, l => l
  | n + 1, l =>
    let back (j : Nat) : Nat := l[j - 1]?.getD 0
    let m := ((upto co.length).zip co).foldl (fun m e =>
      if e.2 = 1 then m ^^^ (2 ^ (e.1 + 1) * back (e.1 + 1)) else m) ((2 ^ d * back d) ^^^ back d)
    sobolGrow d co n (m :: l)

/-- The integers m_1 to m_32 of a base dimension. -/
def sobolInts (b : Nat) : List Nat :=
  (match b with
    | 0 => List.replicate 32 1
    | 1 => sobolGrow 1 [] 31 [1]
    | 2 => sobolGrow 2 [1] 30 [3, 1]
    | _ => sobolGrow 3 [0, 1] 29 [1, 3, 1]).reverse

/-- V[b][k], k from 1 (R165). -/
def sobolDir (b k : Nat) : W32 := BitVec.ofNat 32 ((sobolInts b)[k - 1]?.getD 0 * 2 ^ (32 - k))

/-- sobol(b, i). -/
def sobol (b : Nat) (i : W32) : W32 :=
  (upto 32).foldl (fun x j => if i.getLsbD j then x ^^^ sobolDir b (j + 1) else x) 0

/-- The bits in reverse order. -/
def rev32 (x : W32) : W32 := x.reverse

def mix32 (x : W32) : W32 :=
  let x := (x ^^^ (x >>> 16)) * 0x9C3A5E71
  let x := (x ^^^ (x >>> 13)) * 0x4F2D86B3
  x ^^^ (x >>> 16)

def owen (y s : W32) : W32 :=
  [0x5A3C91E6, 0x2D76B3A4, 0x9E1B04F2, 0x63C8D75E].foldl (fun (y c : W32) => y ^^^ (y * c)) (y + s)

/-- ks_sample (R166) of a pixel, a sample index and a dimension, in units of 2^−24. -/
def ksInt (p n : W32) (dim : Byte) : Nat :=
  let b := dim.toNat % 4
  let gs := mix32 (p ^^^ mix32 (BitVec.ofNat 32 (dim.toNat / 4) + 0x51ED2701))
  let ds := mix32 (gs + BitVec.ofNat 32 b + 1)
  let i := rev32 (owen (rev32 n) gs)
  let y := rev32 (owen (rev32 (sobol b i)) ds)
  (bits y 8 24).toNat

/-- Its exact value, and its FP32 pattern. -/
def ksRat (p n : W32) (dim : Byte) : Rat := (ksInt p n dim : Rat) / ((2 ^ 24 : Nat) : Rat)
def ksSample (p n : W32) (dim : Byte) : Nat := rneBits (.fin false (ksRat p n dim))

/-- `vsobol` (R167). -/
def execVsobol (vd : BitVec 5) (vs2 : BitVec 5) (rs1 : BitVec 5) (vm : BitVec 1) (s : State) : Res :=
  let dim := bits (s.x rs1) 0 8
  gfxRun (gfxWf vd 1 1 vs2 2 2 vm) (s.isF32 || s.isInt 32) [vd.toNat] (group vs2.toNat 2) vm (fun _ => .ok ())
    (fun i s => .done (s.setVelem vd.toNat 32 i (BitVec.ofNat 64 (ksSample ((s.velem vs2.toNat 32 i).setWidth 32)
      ((s.velem (vs2.toNat + 1) 32 i).setWidth 32) dim)))) s

/-! ### The visibility buffer (R168) -/

/-- One atomic minimum. -/
def vbminElem (vd vs2 : Nat) (base : Word) (i : Nat) (s : State) : ElemOut :=
  let a := base + s.velem vs2 64 i
  match s.check s.who .amo .atomic 8 a with
  | .error t => .trap t
  | .ok pa =>
    if s.region s.who.core pa = .tier && s.windowFull pa then .wait .window
    else
      let old := s.readPa s.who.core pa 8
      .done (((s.cache s.who .amo a).writePa s.who pa (min old (s.velem vd 64 i).toNat) 8).setVelem vd 64 i
        (BitVec.ofNat 64 old))

/-- `vvbmin` (R168). -/
def execVvbmin (vd : BitVec 5) (vs2 : BitVec 5) (rs1 : BitVec 5) (vm : BitVec 1) (s : State) : Res :=
  gfxRun (gfxWf vd 1 1 vs2 1 1 vm) (s.isInt 64) [vd.toNat] [vs2.toNat] vm (fun _ => .ok ())
    (vbminElem vd.toNat vs2.toNat (s.x rs1)) s

/-! ### Blending (R169, R170) -/

/-- The blend-state word has no reserved code or bit (R169). -/
def blendOk (w : Word) : Bool :=
  bits w 28 36 = 0 && !bit w 11 && !bit w 23 && [0, 4, 12, 16].all (fun i => (bits w i 4).toNat ≤ 9) &&
    (bits w 8 3).toNat ≤ 4 && (bits w 20 3).toNat ≤ 4

/-- A factor of R169. -/
def blendFactor (code : Nat) (sc dc sA dA : Int) : Int :=
  match code with
  | 0 => 0
  | 1 => 255
  | 2 => sc
  | 3 => 255 - sc
  | 4 => dc
  | 5 => 255 - dc
  | 6 => sA
  | 7 => 255 - sA
  | 8 => dA
  | _ => 255 - dA

/-- One channel (R170). -/
def blendChannel (w src dst : Word) (ch : Nat) : Nat :=
  let at_ := if ch = 3 then 12 else 0
  let sc : Int := (bits src (8 * ch) 8).toNat
  let dc : Int := (bits dst (8 * ch) 8).toNat
  let factor (lo : Nat) : Int :=
    blendFactor (bits w (at_ + lo) 4).toNat sc dc (bits src 24 8).toNat (bits dst 24 8).toNat
  let op := (bits w (at_ + 8) 3).toNat
  if !bit w (24 + ch) then dc.toNat
  else if op = 3 then (min sc dc).toNat
  else if op = 4 then (max sc dc).toNat
  else
    let ps := sc * factor 0
    let pd := dc * factor 4
    let n := if op = 0 then ps + pd else if op = 1 then ps - pd else pd - ps
    if n ≤ 0 then 0 else (min ((n + 127) / 255) 255).toNat

/-- A pixel blended with a pixel (R170). -/
def blendPixel (w src dst : Word) : Nat :=
  (upto 4).foldl (fun x ch => x + 2 ^ (8 * ch) * blendChannel w src dst ch) 0

/-- `vblend` (R169, R170). -/
def execVblend (vd : BitVec 5) (vs2 : BitVec 5) (rs1 : BitVec 5) (vm : BitVec 1) (s : State) : Res :=
  let w := s.x rs1
  gfxRun (gfxWf vd 1 1 vs2 1 1 vm) (s.isInt 32) [vd.toNat] [vs2.toNat] vm
    (fun _ => if blendOk w then .ok () else .error ⟨0x72, w⟩)
    (fun i s => .done (s.setVelem vd.toNat 32 i
      (BitVec.ofNat 64 (blendPixel w (s.velem vs2.toNat 32 i) (s.velem vd.toNat 32 i))))) s

end Sys2Proof.Machine
end

