-- ==== Sys2Proof/Machine/Agents.lean ====
section
/-!
DEFINITION. Machine/Agents.lean: the graphics agents at their queues: the order in which they are served and the steps
of an entry (R245, R246), the dicing unit (R249 to R251), the stochastic sampling unit (R252 to R254), the blend unit
(R255) and presentation (R256 to R260).
-/

namespace Sys2Proof.Machine

/-! ### Accesses of an agent -/

/-- Why an entry stops: the `err` code, the address `aqfaddr` holds, the cause of the failing access (0 if none), and
the state with what the entry has written (R248); with `err` 0 the agent waits at a write for the capacity of a
host-visible window (R208). -/
structure AgFail where
  err   : BitVec 4
  addr  : Word
  cause : BitVec 8
  s     : State

/-- What an agent does for an entry: it changes the state and gives a result, or it stops. -/
abbrev AgM := StateT State (Except AgFail)

/-- Stops with an error whose address is the entry's own. -/
def agErr {α : Type} (err : BitVec 4) (entry : Word) : AgM α := fun s => .error ⟨err, entry, 0, s⟩

/-- Stops with `err` 2 unless a condition holds. -/
def agCheck (ok : Bool) (entry : Word) : AgM Unit := if ok then pure () else agErr 2 entry

/-- Reads n bytes at an address as w. -/
def agGet (w : Who) (va : Word) (n : Nat) : AgM Nat := fun s =>
  match s.checkBytes w .load va n with
  | .error t => .error ⟨3, t.tval, t.cause, s⟩
  | .ok pas => .ok (ofBytes (pas.map (fun pa => BitVec.ofNat 8 (s.readPa w.core pa 1))), s.cache w .load va)

/-- Writes n bytes at an address as w. -/
def agPut (w : Who) (va : Word) (n v : Nat) : AgM Unit := fun s =>
  match s.checkBytes w .store va n with
  | .error t => .error ⟨3, t.tval, t.cause, s⟩
  | .ok pas =>
    if s.elemFull w pas then .error ⟨0, va, 0, s⟩ else .ok ((), (s.cache w .store va).writeBytes w va pas v)

/-- An atomic update of a doubleword at device scope: its old value. -/
def agAmo (w : Who) (va : Word) (f : Nat → Nat) : AgM Nat := fun s =>
  match s.check w .amo .atomic 8 va with
  | .error t => .error ⟨3, t.tval, t.cause, s⟩
  | .ok pa =>
    if s.elemFull w [pa] then .error ⟨0, va, 0, s⟩
    else
      let old := s.readPa w.core pa 8
      .ok (old, (s.cache w .amo va).writePa w pa (f old % 2 ^ 64) 8)

/-- Reads n consecutive doublewords. -/
def agWords (w : Who) (va : Word) (n : Nat) : AgM (List Word) :=
  (upto n).mapM (fun i => do
    let v ← agGet w (va + BitVec.ofNat 64 (8 * i)) 8
    pure (BitVec.ofNat 64 v))

/-- Reads a block of n bytes, a multiple of 8, as one number. -/
def agBlock (w : Who) (va : Word) (n : Nat) : AgM (BitVec 512) := do
  let l ← agWords w va (n / 8)
  pure (BitVec.ofNat 512 (ofBytes (l.flatMap (fun v => toBytes v.toNat 8))))

/-- n bytes of a block at a byte offset. -/
def field (e : BitVec 512) (off n : Nat) : Nat := (bits e (8 * off) (8 * n)).toNat
/-- A doubleword of a block. -/
def fieldW (e : BitVec 512) (off : Nat) : Word := bits e (8 * off) 64
/-- An FP32 value of a block. -/
def fieldF (e : BitVec 512) (off : Nat) : FVal := fp32.decode (field e off 4)

/-! ### Serving an entry (R245, R246) -/

/-- An agent's party for partition p, with its own translation caches. -/
def State.whoQueue (s : State) (a p : Nat) : Who := s.whoAgent p [agentTlb a]

/-- Where the entry at a queue's head lies (R244). -/
def AgentQueue.entryAt (t : AgentQueue) : Word := t.base + 64 * BitVec.ofNat 64 (t.head.toNat % 2 ^ t.lg)

/-- The entry is a PRESENT entry of this queue. -/
def AgentQueue.isPresent (t : AgentQueue) (e : BitVec 512) : Bool := t.pres && field e 0 1 = 2

/-- The PRESENT entry in progress in a running queue. -/
def Agent.presenting (g : Agent) (i : Nat) : Option (BitVec 512) :=
  (g.q i).entry.filter (fun e => (g.q i).state = 1 && (g.q i).isPresent e)

/-- A waiting PRESENT entry whose deadline has come: it settles before the agent goes on (R260). -/
def Agent.settles (g : Agent) (i : Nat) : Bool :=
  match g.presenting i with
  | some e => (g.q i).settled.isNone && (fieldW e 32).toNat ≤ g.pcnt.toNat
  | none => false

/-- A missed PRESENT entry: it is served before any other (R246, R261). -/
def Agent.due (g : Agent) (i : Nat) : Bool := (g.presenting i).isSome && (g.q i).settled = some false

/-- The queue's entry has begun and is completed before another is read: a PRESENT entry begins with its output. -/
def Agent.begun (g : Agent) (i : Nat) : Bool :=
  match (g.q i).entry with
  | some e => (g.q i).state = 1 && (!(g.q i).isPresent e || ((g.q i).settled.isSome && (g.q i).prog.isSome))
  | none => false

/-- The queue runs and has an entry to read, or a complete frame to output. -/
def Agent.open_ (g : Agent) (i : Nat) : Bool :=
  let t := g.q i
  t.state = 1 && (match t.entry with
    | none => t.en && t.head ≠ t.tail
    | some _ => (g.presenting i).isSome && t.settled = some true)

/-- The queue R246's arbitration picks: of the open ones of the highest priority the first after the last served of that
priority. -/
def Agent.arbitrate (g : Agent) : Option Nat :=
  (upto 8).findSome? (fun d =>
    let p := 7 - d
    ((upto 8).map (fun k => (g.lastQs[p]?.getD 7 + 1 + k) % 8)).find? (fun i => g.open_ i && (g.q i).prio.toNat = p))

/-- The queue that is served next (R246, R261): one with a missed frame, else one whose entry has begun, else the one the
arbitration picks. -/
def Agent.turn (g : Agent) : Option Nat :=
  if g.emitQ.isSome || (upto 8).any g.settles then none
  else match (upto 8).find? g.due with
    | some i => some i
    | none =>
      match (upto 8).find? g.begun with
      | some i => some i
      | none => g.arbitrate

/-- Queue q is the last served of its priority. -/
def Agent.serves (g : Agent) (q : Nat) : Agent := { g with lastQs := g.lastQs.setIfInBounds (g.q q).prio.toNat q }

/-- The entry types an agent's queue takes (R245, R256). -/
def legalType (a : Nat) (t : AgentQueue) (ty : Nat) : Bool :=
  if agentKind a = 2 then ty = 0 || ty = (if t.pres then 2 else 1) else ty ≤ 2

/-- The common fields keep their limits (R245): `ty` is the entry's type on agent a. -/
def commonOk (a ty : Nat) (e : BitVec 512) : Bool :=
  let f := field e 1 1
  let allowed := 1 + (if agentKind a = 2 && ty = 2 then 2 else 0) + (if agentKind a = 0 && ty ≠ 0 then 4 else 0)
  f &&& allowed = f && field e 3 5 = 0 && (f % 2 = 0 || (fieldW e 56).toNat % 8 = 0)

/-- Changes queue q of agent a. -/
def agQueue (a q : Nat) (f : AgentQueue → AgentQueue) : AgM Unit :=
  modify (fun s => s.modAgent a (fun g => g.setQ q (f (g.q q))))

/-- Notes how far the entry has come. -/
def agProg (a q n x y : Nat) : AgM Unit := agQueue a q (fun t => { t with prog := some (n, x, y) })

/-- The address an entry posts to, if it does. -/
def postOf (e : BitVec 512) : Option Word := if field e 1 1 % 2 = 1 then some (fieldW e 56) else none

/-- Step 5 of an entry (R246): the head passes it; then the queue is disabled if `en` was cleared (R244). -/
def AgentQueue.advance (t : AgentQueue) : AgentQueue :=
  let t := { t with head := t.head + 1, entry := none, settled := none, prog := none, posted := false }
  if t.en then t else { t with state := 0, err := 0 }

/-- Steps 3 to 5 of an entry (R246): `eres`, the post, the head. After a post the head waits for the entry's next event,
so that a notify can find it not yet advanced (R367). -/
def agFinish (a q : Nat) (w : Who) (at_ : Word) (res : Nat) (e : BitVec 512) : AgM Unit := do
  agPut w (at_ + 2) 1 res
  match postOf e with
  | some p => do
    let _ ← agAmo w p (· + 1)
    agQueue a q (fun t => { t with posted := true })
  | none => agQueue a q AgentQueue.advance

/-- The head of queue q passes an entry whose post is made (R246 step 5). -/
def State.passEntry (s : State) (a q : Nat) : State := s.modAgent a (fun g => g.setQ q (g.q q).advance)

/-- The state after what an agent did for a queue: a stop puts the queue in error (R248), and an error of the line read
acts as R349 and R355 say, at the first cluster the agent serves; an agent that waits keeps what it has written. -/
def agRun (a q p : Nat) (f : AgM Unit) (s : State) : Res :=
  match f s with
  | .ok (_, t) => .next t
  | .error x =>
    if x.err = 0 then .next { x.s with free := s.free, tlb := s.tlb }
    else untilRoomStep s
      (.next ((x.s.queueError a q x.err x.addr).lineError p (12 * (a / 6) + 6 * (a % 2)) x.cause x.addr))

/-- What carries out an entry: the party, its partition, the entry's address, the entry. -/
abbrev Body := Who → Nat → Word → BitVec 512 → AgM Unit

/-- Reads the entry at the head of queue q, and carries it out if it is of type `ty`; one that cannot be read or that has
a reserved type puts the queue in error. -/
def beginEntry (ty a q p : Nat) (body : Body) (s : State) : Res :=
  let t := (s.agent a).q q
  let w := s.whoQueue a p
  let at_ := t.entryAt
  let s' := s.modAgent a (·.serves q)
  match agBlock w at_ 64 s' with
  | .error _ => agRun a q p (do let _ ← agBlock w at_ 64) s'
  | .ok (e, s') =>
    let et := field e 0 1
    if !legalType a t et then agRun a q p (agErr 1 at_) s'
    else if et ≠ ty then .next s
    else agRun a q p (do
      agCheck (commonOk a ty e) at_
      agQueue a q (fun t => { t with entry := some e })
      body w p at_ e) s'

/-- Serves the entry of type `ty` at the head of queue q, if it is the queue's turn; nothing holds back the head of an
entry whose post is made (R367). -/
def serve (kind ty a q : Nat) (body : Body) (s : State) : Res :=
  match s.ownerOfAgent a with
  | none => .next s
  | some p =>
    let t := (s.agent a).q q
    let mine := (s.agent a).turn = some q
    if ty ≠ 0 && agentKind a ≠ kind then .next s
    else
      match t.entry with
      | some e =>
        if field e 0 1 ≠ ty || t.state ≠ 1 then .next s
        else if t.posted then .next (s.passEntry a q)
        else if !mine then .next s
        else agRun a q p (body (s.whoQueue a p) p t.entryAt e) (s.modAgent a (·.serves q))
      | none => if mine then beginEntry ty a q p body s else .next s

/-- AGENT_NOP (R245). -/
def execAgentNop (ag : Nat) (q : Nat) (s : State) : Res :=
  serve 0 0 ag q (fun w _ at_ e => agFinish ag q w at_ 1 e) s

/-! ### Dicing (R249 to R251) -/

/-- A control point: three FP32 patterns. -/
abbrev Point := Nat × Nat × Nat
def Point.vals (p : Point) : List FVal := [fp32.decode p.1, fp32.decode p.2.1, fp32.decode p.2.2]
/-- Its 96 bits as one number. -/
def Point.key (p : Point) : Nat := (p.1 * 2 ^ 32 + p.2.1) * 2 ^ 32 + p.2.2

/-- The control points from a list of words, row after row. -/
def pointsOf (l : List Nat) (m : Nat) : List Point :=
  (upto m).map (fun k => (l[3 * k]?.getD 0, l[3 * k + 1]?.getD 0, l[3 * k + 2]?.getD 0))

/-- `rate_of` (R250) of an edge's points in canonical order under a camera block. -/
def diceRate (cam : BitVec 512) (l : List Point) : Nat :=
  let proj (r : Nat) (p : Point) : FVal :=
    rne (exactSum 0 (((upto 3).zip p.vals).map (fun e => (fieldF cam (16 * r + 4 * e.1)).mul e.2) ++
      [fieldF cam (16 * r + 12)]))
  let xyw := l.map (fun p => (proj 0 p, proj 1 p, proj 2 p))
  let px := xyw.map (fun t => (rne (FVal.div ((fieldF cam 48).mul t.1) t.2.2).1,
    rne (FVal.div ((fieldF cam 52).mul t.2.1) t.2.2).1))
  if xyw.any (fun t => !(t.1.finite && t.2.1.finite && t.2.2.finite) || t.2.2.toRat ≤ 0) ||
      px.any (fun t => !(t.1.finite && t.2.finite)) then 240
  else
    let len (a b : FVal × FVal) : FVal :=
      let dx := b.1.toRat - a.1.toRat
      let dy := b.2.toRat - a.2.toRat
      rne (FVal.sqrt (.fin false (dx * dx + dy * dy)))
    let sum := (px.zip (px.drop 1)).foldl (fun t e => rne (exactSum 0 [t, len e.1 e.2])) (.fin false 0)
    if sum.isInf then 240
    else (min (max (-((-(sum.toRat / (fieldF cam 56).toRat)).floor)) 1) 240).toNat

/-- An edge: its rate, and whether its canonical order runs with the patch. -/
structure DiceEdge where
  rate : Nat
  fwd  : Bool

/-- The edge of points in the patch's order (R250). -/
def diceEdge (cam : BitVec 512) (l : List Point) : DiceEdge :=
  let fwd : Bool := match l, l.getLast? with
    | a :: _, some b => decide (Point.key a ≤ Point.key b)
    | _, _ => true
  ⟨diceRate cam (if fwd then l else l.reverse), fwd⟩

/-- A rational rounded to FP32. -/
def rneRat (x : Rat) : Rat := (rne (.ofRat x)).toRat

/-- The parameter along an edge of vertex i of n. -/
def DiceEdge.param (e : DiceEdge) (n i : Nat) : Rat :=
  let k := i * e.rate / n
  let t := rneRat (((if e.fwd then k else e.rate - k : Nat) : Rat) / (e.rate : Rat))
  if e.fwd then t else 1 - t

/-- The four edges of a patch of degree n: e0, e1, e2, e3. -/
def diceEdges (cam : BitVec 512) (n : Nat) (pts : List Point) : List DiceEdge :=
  let p (j i : Nat) : Point := pts[(n + 1) * j + i]?.getD (0, 0, 0)
  let r := upto (n + 1)
  [r.map (fun i => p 0 i), r.map (fun j => p j n), r.map (fun i => p n i), r.map (fun j => p j 0)].map (diceEdge cam)

/-- The rates of a patch in u and in v. -/
def diceSize (ed : List DiceEdge) : Nat × Nat :=
  let d (i : Nat) : Nat := (ed[i]?.map (·.rate)).getD 1
  (max (d 0) (d 2), max (d 1) (d 3))

/-- The parameters of vertex (i, j). -/
def diceParam (ed : List DiceEdge) (i j : Nat) : Rat × Rat :=
  let e (k : Nat) : DiceEdge := ed[k]?.getD ⟨1, true⟩
  let (nu, nv) := diceSize ed
  if j = 0 then ((e 0).param nu i, 0)
  else if j = nv then ((e 2).param nu i, 1)
  else if i = 0 then (0, (e 3).param nv j)
  else if i = nu then (1, (e 1).param nv j)
  else (rneRat ((i : Rat) / (nu : Rat)), rneRat ((j : Rat) / (nv : Rat)))

/-- The Bernstein polynomial B_a,n at t, for n = 1 or 3. -/
def bernstein (n a : Nat) (t : Rat) : Rat := ((if a = 0 || a = n then 1 else n : Nat) : Rat) * t ^ a * (1 - t) ^ (n - a)

/-- The position at parameters (u, v): three FP32 patterns. -/
def dicePos (n : Nat) (pts : List Point) (u v : Rat) : List Nat :=
  (upto 3).map (fun c => rneBits (exactSum 0 ((upto ((n + 1) * (n + 1))).map (fun k =>
    FVal.mul (.fin false (bernstein n (k % (n + 1)) u * bernstein n (k / (n + 1)) v))
      (((pts[k]?.getD (0, 0, 0)).vals)[c]?.getD (.fin false 0))))))

/-- A vertex as eight words (R251). -/
def diceVertex (n : Nat) (ed : List DiceEdge) (p0 p1 : List Point) (i j : Nat) : List Nat :=
  let (u, v) := diceParam ed i j
  dicePos n p0 u v ++ dicePos n p1 u v ++ [rneBits (.ofRat u), rneBits (.ofRat v)]

/-- The grids of a patch, in slot order: their first column and row, and their columns and rows (R251). -/
def diceGrids (nu nv : Nat) : List (Nat × Nat × Nat × Nat) :=
  (upto (ceilDiv nv 15)).flatMap (fun b => (upto (ceilDiv nu 15)).map (fun a =>
    (15 * a, 15 * b, min (15 * a + 15) nu - 15 * a + 1, min (15 * b + 15) nv - 15 * b + 1)))

/-- The record of a grid (R251). -/
def TaskRec.forGrid (r : TaskRec) (slot : Word) (cols rows order : Nat) : TaskRec :=
  { r with arg := (r.arg.set 0 slot).set 1 (BitVec.ofNat 64 (cols + 256 * rows + 65536 * order)) }

/-- Dices the patch of an entry (R249 to R251) up to the emission of its records. -/
def dicePatch (n a q : Nat) (w : Who) (at_ : Word) (e : BitVec 512) : AgM Unit := do
  let pdata := fieldW e 8
  let camAt := fieldW e 16
  let tmpl := fieldW e 24
  let pool := fieldW e 32
  let motion := bit (bits e 8 8) 2
  agCheck (pdata.toNat % 64 = 0 && camAt.toNat % 64 = 0 && tmpl.toNat % 64 = 0 && pool.toNat % 32 = 0 &&
    field e 40 16 = 0) at_
  let m := (n + 1) * (n + 1)
  let l ← agWords w pdata (3 * m / 2 * (if motion then 2 else 1))
  let ws := l.flatMap (fun v => [(bits v 0 32).toNat, (bits v 32 32).toNat])
  let p0 := pointsOf ws m
  let p1 := if motion then pointsOf (ws.drop (3 * m)) m else p0
  let cam ← agBlock w camAt 64
  let rate := fieldF cam 56
  agCheck (rate.finite && 0 < rate.toRat && field cam 60 4 = 0) at_
  let t ← agWords w tmpl 8
  let r := TaskRec.ofWords t
  agCheck r.ok at_
  let h ← agWords w pool 4
  let cap := (h[1]?.getD 0).toNat
  let base := h[2]?.getD 0
  agCheck (base.toNat % 64 = 0 && h[3]?.getD 0 = 0) at_
  let ed := diceEdges cam n p0
  let (nu, nv) := diceSize ed
  let grids := diceGrids nu nv
  let prog := (((← get).agent a).q q).prog
  if prog.isNone && cap < (h[0]?.getD 0).toNat + grids.length then agErr 4 at_
  else
    let (done, old) ← (match prog with
      | some (k, old, _) => pure (k, old)
      | none => do
        let old ← agAmo w pool (· + grids.length)
        agProg a q 0 old 0
        pure (0, old) : AgM (Nat × Nat))
    let slot (k : Nat) : Word := base + BitVec.ofNat 64 (8192 * (old + k))
    let items := ((upto grids.length).zip grids).flatMap (fun x =>
      (upto x.2.2.2.2).flatMap (fun j => (upto x.2.2.2.1).map (fun i =>
        (slot x.1 + BitVec.ofNat 64 (32 * (16 * j + i)), x.2.1 + i, x.2.2.1 + j))))
    (((upto items.length).zip items).drop done).forM (fun x => do
      let v := diceVertex n ed p0 p1 x.2.2.1 x.2.2.2
      ((upto 8).zip v).forM (fun c => agPut w (x.2.1 + BitVec.ofNat 64 (4 * c.1)) 4 c.2)
      agProg a q (x.1 + 1) old 0)
    if r.join ≠ 0 then
      let _ ← agAmo w r.join (· + grids.length)
    modify (fun s => s.modAgent a (fun g => { g with
      emit := ((upto grids.length).zip grids).map (fun x => r.forGrid (slot x.1) x.2.2.2.1 x.2.2.2.2 x.1)
      emitQ := some q }))

/-- BICUBIC (R250). -/
def execBicubic (ag : Nat) (q : Nat) (s : State) : Res :=
  serve 0 1 ag q (fun w _ at_ e => dicePatch 3 ag q w at_ e) s

/-- BILINEAR (R250). -/
def execBilinear (ag : Nat) (q : Nat) (s : State) : Res :=
  serve 0 2 ag q (fun w _ at_ e => dicePatch 1 ag q w at_ e) s

/-- Completes the entry whose records have all been emitted. -/
def emitEnd (a q p : Nat) (s : State) : Res :=
  let t := (s.agent a).q q
  agRun a q p (do
    agFinish a q (s.whoQueue a p) t.entryAt 1 (t.entry.getD 0)
    modify (fun s => s.modAgent a (fun g => { g with emitQ := none }))) s

/-- DICING_RECORD_EMIT (R251): the next record goes to the next cluster's pending-launch store, once it has room; records
that Lodestar keeps go first (R299). After the last record the entry completes. -/
def execDicingRecordEmit (ag : Nat) (s : State) : Res :=
  let g := s.agent ag
  match g.emitQ, s.ownerOfAgent ag with
  | some q, some p =>
    match g.emit with
    | [] => emitEnd ag q p s
    | r :: rest =>
      let i := (g.lastCl + 1) % 6
      let cl := 12 * (ag / 6) + 6 * (ag % 2) + i
      if !(s.cluster cl).keepsNone then .next s
      else
        match s.placeStore cl r with
        | none => .next s
        | some s =>
          let s := s.modAgent ag (fun g => { g with emit := rest, lastCl := i })
          if rest.isEmpty then emitEnd ag q p s else .next s
  | _, _ => .next s

/-! ### Stochastic sampling (R252 to R254) -/

/-- A render descriptor. -/
structure Render where
  wd    : Nat
  hd    : Nat
  spp   : Nat
  sbase : W32
  lensk : Rat
  focz  : Rat

/-- The descriptor of a block, or none where a field breaks its limits. -/
def Render.ofBlock (b : BitVec 512) : Option Render :=
  let wd := field b 0 4
  let hd := field b 4 4
  let spp := field b 8 4
  if 1 ≤ wd && wd ≤ 16384 && 1 ≤ hd && hd ≤ 16384 && 1 ≤ spp && spp ≤ 256 && (fieldF b 16).finite &&
      (fieldF b 20).finite && field b 24 40 = 0
  then some ⟨wd, hd, spp, BitVec.ofNat 32 (field b 12 4), (fieldF b 16).toRat, (fieldF b 20).toRat⟩ else none

/-- A vertex: its time-0 and time-1 positions. -/
abbrev SVertex := List FVal × List FVal

/-- The position of a vertex at a sample, or none when the triangle is skipped (R253): `tm` the time, `lu` and `lv` the
lens position. -/
def SVertex.place (r : Render) (v : SVertex) (tm lu lv : Rat) : Option (Rat × Rat × Rat) :=
  if !(v.1.all FVal.finite && v.2.all FVal.finite) then none
  else
    let c (k : Nat) : FVal :=
      let a := (v.1[k]?.getD (.fin false 0)).toRat
      let b := (v.2[k]?.getD (.fin false 0)).toRat
      rne (.ofRat (a + tm * (b - a)))
    if !((c 0).finite && (c 1).finite && (c 2).finite) || (c 2).toRat ≤ 0 then none
    else
      let z := (c 2).toRat
      let lens (x l : Rat) : FVal := rne (.ofRat (x + l * r.lensk * (1 - r.focz / z)))
      let x := lens (c 0).toRat lu
      let y := lens (c 1).toRat lv
      if x.finite && y.finite then some (x.toRat, y.toRat, z) else none

/-- The depth of a triangle at a point, or none where the point is not covered (R253). -/
def coverage (a b c : Rat × Rat × Rat) (qx qy : Rat) : Option Nat :=
  let A := (b.1 - a.1) * (c.2.1 - a.2.1) - (b.2.1 - a.2.1) * (c.1 - a.1)
  if A = 0 then none
  else
    let (b, c, A) := if A < 0 then (c, b, -A) else (b, c, A)
    let E (e f : Rat × Rat × Rat) : Rat := (f.1 - e.1) * (qy - e.2.1) - (f.2.1 - e.2.1) * (qx - e.1)
    let inside (e f : Rat × Rat × Rat) : Bool :=
      0 < E e f || (E e f = 0 && (f.2.1 < e.2.1 || (f.2.1 = e.2.1 && e.1 < f.1)))
    if inside a b && inside b c && inside c a then
      some (rneBits (.ofRat ((E b c * a.2.2 + E c a * b.2.2 + E a b * c.2.2) / A)))
    else none

/-- A triangle: its three vertices, its primitive id and its colour's place. -/
structure STri where
  v0  : SVertex
  v1  : SVertex
  v2  : SVertex
  id  : W32
  col : Nat

/-- The depth of a triangle at sample n of pixel (px, py), if it covers it. -/
def STri.sample (t : STri) (r : Render) (px py s : Nat) : Option Nat :=
  let p := BitVec.ofNat 32 (py * r.wd + px)
  let ks (d : Byte) : Rat := ksRat p (r.sbase + BitVec.ofNat 32 s) d
  let tm := ks 2
  let lu := 2 * ks 3 - 1
  let lv := 2 * ks 4 - 1
  match t.v0.place r tm lu lv, t.v1.place r tm lu lv, t.v2.place r tm lu lv with
  | some a, some b, some c => coverage a b c (px + ks 0) (py + ks 1)
  | _, _, _ => none

/-- A covered sample: primitive id, colour's place, depth, pixel, sample. -/
structure Covered where
  id  : W32
  col : Nat
  z   : Nat
  p   : Nat
  s   : Nat

/-- The covered samples of a triangle, in the order of R254. -/
def STri.covered (t : STri) (r : Render) : List Covered :=
  (upto (r.wd * r.hd)).flatMap (fun p => (upto r.spp).filterMap (fun s =>
    (t.sample r (p % r.wd) (p / r.wd) s).map (fun z => ⟨t.id, t.col, z, p, s⟩)))

/-- The triangles of a grid of nu × nv vertices (R253), in the order of their ids. -/
def gridTris (nu nv : Nat) (base : W32) (v : Nat → Nat → SVertex) : List STri :=
  (upto (nv - 1)).flatMap (fun j => (upto (nu - 1)).flatMap (fun i =>
    let id := base + BitVec.ofNat 32 (2 * (15 * j + i))
    [⟨v i j, v (i + 1) j, v (i + 1) (j + 1), id, 16 * j + i⟩,
     ⟨v i j, v (i + 1) (j + 1), v i (j + 1), id + 1, 16 * j + i⟩]))

/-- Reads the vertex at an address. -/
def agVertex (w : Who) (va : Word) : AgM SVertex := do
  let l ← agWords w va 3
  let f := l.flatMap (fun v => [fp32.decode (bits v 0 32).toNat, fp32.decode (bits v 32 32).toNat])
  pure (f.take 3, f.drop 3)

/-- Writes the covered samples (R254) that are not yet written. -/
def writeSamples (a q : Nat) (w : Who) (at_ : Word) (mode : Nat) (tgt caddr : Word) (r : Render) (l : List Covered) :
    AgM Unit := do
  let prog := (((← get).agent a).q q).prog
  let left (k : Nat) : List (Nat × Covered) := ((upto l.length).zip l).drop k
  if mode = 0 then
    (left ((prog.map (·.1)).getD 0)).forM (fun x => do
      let c := x.2
      let _ ← agAmo w (tgt + BitVec.ofNat 64 (8 * (c.p * r.spp + c.s))) (fun old => min old (c.z * 2 ^ 32 + c.id.toNat))
      agProg a q (x.1 + 1) 0 0)
  else if l.isEmpty then pure ()
  else
    let h ← agWords w tgt 3
    let base := h[2]?.getD 0
    if prog.isNone && (h[1]?.getD 0).toNat < (h[0]?.getD 0).toNat + l.length then agErr 4 at_
    else
      let (done, old) ← (match prog with
        | some (k, old, _) => pure (k, old)
        | none => do
          let old ← agAmo w tgt (· + l.length)
          agProg a q 0 old 0
          pure (0, old) : AgM (Nat × Nat))
      (left done).forM (fun x => do
        let c := x.2
        let col ← agGet w (caddr + BitVec.ofNat 64 (4 * c.col)) 4
        let va := base + BitVec.ofNat 64 (16 * (old + x.1))
        ((upto 4).zip [col, c.z, c.p, c.s]).forM (fun f => agPut w (va + BitVec.ofNat 64 (4 * f.1)) 4 f.2)
        agProg a q (x.1 + 1) old 0)

/-- Carries out a GRID or TRIANGLE entry. -/
def sampleEntry (isGrid : Bool) (a q : Nat) (w : Who) (at_ : Word) (e : BitVec 512) : AgM Unit := do
  let gaddr := fieldW e 8
  let nu := field e 24 1
  let nv := field e 25 1
  let base : W32 := BitVec.ofNat 32 (field e 28 4)
  let rdesc := fieldW e 32
  let tgt := fieldW e 40
  let mode := field e 48 1
  agCheck ((if isGrid then 2 ≤ nu && nu ≤ 16 && 2 ≤ nv && nv ≤ 16 else nu = 0 && nv = 0) && field e 26 2 = 0 &&
    rdesc.toNat % 64 = 0 && mode ≤ 1 && tgt.toNat % (if mode = 0 then 8 else 32) = 0 && field e 49 7 = 0) at_
  let b ← agBlock w rdesc 64
  match Render.ofBlock b with
  | none => agErr 2 at_
  | some r =>
    let tris ← (do
      if isGrid then
        let vs ← (upto (16 * nv)).mapM (fun k =>
          if k % 16 < nu then agVertex w (gaddr + BitVec.ofNat 64 (32 * k)) else pure ([], []))
        pure (gridTris nu nv base (fun i j => vs[16 * j + i]?.getD ([], [])))
      else
        let vs ← (upto 3).mapM (fun k => agVertex w (gaddr + BitVec.ofNat 64 (32 * k)))
        let v (k : Nat) : SVertex := vs[k]?.getD ([], [])
        pure [⟨v 0, v 1, v 2, base, 0⟩] : AgM (List STri))
    writeSamples a q w at_ mode tgt (fieldW e 16) r (tris.flatMap (fun t => t.covered r))
    agFinish a q w at_ 1 e

/-- GRID (R253). -/
def execGrid (ag : Nat) (q : Nat) (s : State) : Res :=
  serve 1 1 ag q (fun w _ at_ e => sampleEntry true ag q w at_ e) s

/-- TRIANGLE (R253). -/
def execTriangle (ag : Nat) (q : Nat) (s : State) : Res :=
  serve 1 2 ag q (fun w _ at_ e => sampleEntry false ag q w at_ e) s

/-! ### Blending (R255) -/

/-- Blends fragment k of the array at `base` into the frame buffer (R255, R170). -/
def blendFragment (w : Who) (fb st : Word) (base k : Nat) : AgM Unit := do
  let va := BitVec.ofNat 64 (base + 16 * k)
  let c ← agGet w va 4
  let p ← agGet w (va + 8) 4
  let px := fb + BitVec.ofNat 64 (4 * p)
  let old ← agGet w px 4
  agPut w px 4 (blendPixel st (BitVec.ofNat 64 c) (BitVec.ofNat 64 old))

/-- Carries out a BLEND entry: its first event reads the header, each later one blends a fragment, so that a missed frame
can go between two of them (R261), and the last one completes it. -/
def blendEntry (a q : Nat) (w : Who) (at_ : Word) (e : BitVec 512) : AgM Unit := do
  let frag := fieldW e 8
  let fb := fieldW e 16
  let st : Word := BitVec.ofNat 64 (field e 24 4)
  match (((← get).agent a).q q).prog with
  | none => do
    agCheck (frag.toNat % 32 = 0 && fb.toNat % 4 = 0 && blendOk st && field e 28 28 = 0) at_
    let h ← agWords w frag 3
    agProg a q 0 (min (h[0]?.getD 0).toNat (h[1]?.getD 0).toNat) (h[2]?.getD 0).toNat
  | some (k, n, base) =>
    if k < n then do
      blendFragment w fb st base k
      agProg a q (k + 1) n base
    else agFinish a q w at_ 1 e

/-- BLEND (R255). -/
def execBlend (ag : Nat) (q : Nat) (s : State) : Res :=
  serve 2 1 ag q (fun w _ at_ e => blendEntry ag q w at_ e) s

/-! ### Presentation (R256 to R260) -/

/-- A presentation descriptor. -/
structure PresDesc where
  surf : Word
  sig  : Word
  wp   : Nat
  hp   : Nat
  hom  : List Rat
  fill : Nat

/-- The descriptor of a block, or none where a field breaks its limits (R256). -/
def PresDesc.ofBlock (b : BitVec 512) : Option PresDesc :=
  let ok (n : Nat) : Bool := n % 16 = 0 && 16 ≤ n && n ≤ 8192
  let h := (upto 9).map (fun k => fieldF b (20 + 4 * k))
  if ok (field b 16 2) && ok (field b 18 2) && h.all FVal.finite && field b 60 4 = 0
  then some ⟨fieldW b 0, fieldW b 8, field b 16 2, field b 18 2, h.map FVal.toRat, field b 56 4⟩ else none

/-- Where pixel (x, y) of a frame lies. -/
def PresDesc.pixel (d : PresDesc) (frame : Word) (x y : Nat) : Word := frame + BitVec.ofNat 64 (4 * (y * d.wp + x))

/-- The pixel of `plast` that output pixel (x, y) of a reprojection shows, if any (R258). -/
def PresDesc.source (d : PresDesc) (plast : Word) (x y : Nat) : Option (Nat × Nat) :=
  let h (k : Nat) : Rat := d.hom[k]?.getD 0
  let px : Rat := (x : Rat) + 1 / 2
  let py : Rat := (y : Rat) + 1 / 2
  let row (r : Nat) : Rat := h (3 * r) * px + h (3 * r + 1) * py + h (3 * r + 2)
  let wh := row 2
  if wh ≤ 0 || plast = 0 then none
  else
    let sx := (row 0 / wh).floor
    let sy := (row 1 / wh).floor
    if 0 ≤ sx && sx < d.wp && 0 ≤ sy && sy < d.hp then some (sx.toNat, sy.toNat) else none

/-- The signature of a tile's pixels in raster order (R257). -/
def tileSig (l : List Nat) : Word :=
  l.foldl (fun h o => (h ^^^ BitVec.ofNat 64 o) * 0x100000001B3) (0xCBF29CE484222325 : Word)

/-- Presents tile n of a picture (R257): `out x y` reads its pixel. -/
def presentTile (d : PresDesc) (w : Who) (out : Nat → Nat → AgM Nat) (n : Nat) : AgM Unit := do
  let tw := d.wp / 16
  let xy (k : Nat) : Nat × Nat := (16 * (n % tw) + k % 16, 16 * (n / tw) + k / 16)
  let l ← (upto 256).mapM (fun k => out (xy k).1 (xy k).2)
  let h := tileSig l
  let at_ := d.sig + BitVec.ofNat 64 (8 * n)
  let old ← agGet w at_ 8
  if old ≠ h.toNat then
    ((upto 256).zip l).forM (fun e => agPut w (d.pixel d.surf (xy e.1).1 (xy e.1).2) 4 e.2)
    agPut w at_ 8 h.toNat

/-- How many tiles a picture has. -/
def PresDesc.tiles (d : PresDesc) : Nat := d.wp / 16 * (d.hp / 16)

/-- Reads pixel (x, y) of the picture a settled entry shows (R258, R260): of `fb`, or of the frame at `plast`
reprojected. -/
def PresDesc.picture (d : PresDesc) (w : Who) (complete : Bool) (fb plast : Word) (x y : Nat) : AgM Nat :=
  if complete then agGet w (d.pixel fb x y) 4
  else match d.source plast x y with
    | some (sx, sy) => agGet w (d.pixel plast sx sy) 4
    | none => pure d.fill

/-- Reads `ready` and decides (R260): complete, missed, or not yet. -/
def agSettle (a : Nat) (w : Who) (e : BitVec 512) : AgM (Option Bool) := do
  let v ← agGet w (fieldW e 16) 8
  let s ← get
  pure (if (fieldW e 24).toNat ≤ v then some true
    else if (fieldW e 32).toNat ≤ (s.agent a).pcnt.toNat then some false else none)

/-- The end of an output (R257, R260): the windows are published, and the frame is the last complete one or is counted. -/
def presentEnd (a q p : Nat) (e : BitVec 512) (complete : Bool) : AgM Unit := do
  if bit (bits e 8 8) 1 then modify (fun s => s.publish p (bits e 384 16))
  modify (fun s => s.modAgent a (fun g =>
    if complete then g.setQ q { g.q q with plast := fieldW e 8 } else { g with pmiss := g.pmiss + 1 }))

/-- Outputs a settled entry (R257 to R260): its first event reads the descriptor, each later one presents a tile, so that a
missed frame can go between two of them (R261), then one ends the output and the last completes the entry. -/
def presentOut (a q p : Nat) (w : Who) (at_ : Word) (e : BitVec 512) (complete : Bool) : AgM Unit := do
  let t := ((← get).agent a).q q
  match t.prog with
  | none => do
    let b ← agBlock w (fieldW e 40) 64
    agCheck (PresDesc.ofBlock b).isSome at_
    agProg a q 0 b.toNat 0
  | some (k, b, _) =>
    match PresDesc.ofBlock (BitVec.ofNat 512 b) with
    | none => pure ()
    | some d =>
      if k < d.tiles then do
        presentTile d w (d.picture w complete (fieldW e 8) t.plast) k
        agProg a q (k + 1) b 0
      else if k = d.tiles then do
        presentEnd a q p e complete
        agProg a q (k + 1) b 0
      else agFinish a q w at_ (if complete then 1 else 2) e

/-- A reading of `ready` (R260): it settles the entry or leaves it waiting. -/
def presentRead (a q : Nat) (w : Who) (e : BitVec 512) : AgM Unit := do
  let c ← agSettle a w e
  agQueue a q (fun t => { t with settled := c })

/-- PRESENT (R256, R260): an entry reaches the head, and its first reading of `ready` settles it or leaves it waiting; a
settled entry goes on with its output at its turn. -/
def execPresent (ag : Nat) (q : Nat) (s : State) : Res :=
  serve 2 2 ag q (fun w p at_ e => do
    match (((← get).agent ag).q q).settled with
    | some c => presentOut ag q p w at_ e c
    | none => do
      agCheck ((fieldW e 16).toNat % 8 = 0 && (fieldW e 40).toNat % 64 = 0 && field e 50 6 = 0) at_
      let b ← agBlock w (fieldW e 40) 64
      agCheck (PresDesc.ofBlock b).isSome at_
      presentRead ag q w e) s

/-- PRESENT_SETTLE (R260): `ready` is read again for a waiting entry, which settles or goes on waiting. -/
def execPresentSettle (ag : Nat) (q : Nat) (s : State) : Res :=
  match (s.agent ag).presenting q, s.ownerOfAgent ag with
  | some e, some p =>
    let w := s.whoQueue ag p
    if ((s.agent ag).q q).settled.isSome then .next s
    else
      match agSettle ag w e s with
      | .ok (none, _) => .next s
      | _ => agRun ag q p (presentRead ag q w e) s
  | _, _ => .next s

end Sys2Proof.Machine
end

