-- ==== Sys2Proof/Machine/Amo.lean ====
section
/-!
DEFINITION. Machine/Amo.lean: `lr`, `sc` and the nine AMOs (R210 to R214).
-/

namespace Sys2Proof.Machine

/-- `lr` (R213): a load that sets the reservation to its line with its scope. -/
def execLr (rd : BitVec 5) (rs1 : BitVec 5) (_aq : BitVec 1) (_rl : BitVec 1) (ws : BitVec 3) (s : State) : Res :=
  let n := amoBytes ws
  let a := s.x rs1
  match s.check s.who .lr .resv n a with
  | .error t => takeTrap t s
  | .ok pa =>
    let v := BitVec.ofNat 64 (s.readPa s.who.core pa n)
    retireX rd (sextFrom v (8 * n))
      ((s.cache s.who .lr a).modMe (fun h => { h with resv := some ⟨pa / 64, amoScope ws⟩ }))

/-- `sc` (R213): it stores and writes 0 when the reservation holds at the same scope, and writes 1 otherwise; it
always clears the reservation. No `sc` fails without a reason of R213 (assumption log 11). -/
def execSc (rd : BitVec 5) (rs1 : BitVec 5) (rs2 : BitVec 5) (_aq : BitVec 1) (_rl : BitVec 1) (ws : BitVec 3)
    (s : State) : Res :=
  let n := amoBytes ws
  let a := s.x rs1
  match s.check s.who .sc .resv n a with
  | .error t => takeTrap t s
  | .ok pa =>
    let clear (s : State) : State := s.modMe (fun h => { h with resv := none })
    if s.me.resv = some ⟨pa / 64, amoScope ws⟩ then
      if s.region s.who.core pa = .tier && s.windowFull pa then stall .window s
      else retireX rd 0 (clear ((s.cache s.who .sc a).writePa s.who pa (s.x rs2).toNat n))
    else retireX rd 1 (clear s)

/-- `amoswap` (R210, R211). -/
def execAmoswap (rd : BitVec 5) (rs1 : BitVec 5) (rs2 : BitVec 5) (_aq : BitVec 1) (_rl : BitVec 1) (ws : BitVec 3)
    (s : State) : Res :=
  amoInstr amoSwapF rd rs1 rs2 ws s

/-- `amoadd` (R210, R211). -/
def execAmoadd (rd : BitVec 5) (rs1 : BitVec 5) (rs2 : BitVec 5) (_aq : BitVec 1) (_rl : BitVec 1) (ws : BitVec 3)
    (s : State) : Res :=
  amoInstr amoAddF rd rs1 rs2 ws s

/-- `amoxor` (R210, R211). -/
def execAmoxor (rd : BitVec 5) (rs1 : BitVec 5) (rs2 : BitVec 5) (_aq : BitVec 1) (_rl : BitVec 1) (ws : BitVec 3)
    (s : State) : Res :=
  amoInstr amoXorF rd rs1 rs2 ws s

/-- `amoand` (R210, R211). -/
def execAmoand (rd : BitVec 5) (rs1 : BitVec 5) (rs2 : BitVec 5) (_aq : BitVec 1) (_rl : BitVec 1) (ws : BitVec 3)
    (s : State) : Res :=
  amoInstr amoAndF rd rs1 rs2 ws s

/-- `amoor` (R210, R211). -/
def execAmoor (rd : BitVec 5) (rs1 : BitVec 5) (rs2 : BitVec 5) (_aq : BitVec 1) (_rl : BitVec 1) (ws : BitVec 3)
    (s : State) : Res :=
  amoInstr amoOrF rd rs1 rs2 ws s

/-- `amomin` (R210, R211). -/
def execAmomin (rd : BitVec 5) (rs1 : BitVec 5) (rs2 : BitVec 5) (_aq : BitVec 1) (_rl : BitVec 1) (ws : BitVec 3)
    (s : State) : Res :=
  amoInstr amoMinF rd rs1 rs2 ws s

/-- `amomax` (R210, R211). -/
def execAmomax (rd : BitVec 5) (rs1 : BitVec 5) (rs2 : BitVec 5) (_aq : BitVec 1) (_rl : BitVec 1) (ws : BitVec 3)
    (s : State) : Res :=
  amoInstr amoMaxF rd rs1 rs2 ws s

/-- `amominu` (R210, R211). -/
def execAmominu (rd : BitVec 5) (rs1 : BitVec 5) (rs2 : BitVec 5) (_aq : BitVec 1) (_rl : BitVec 1) (ws : BitVec 3)
    (s : State) : Res :=
  amoInstr amoMinuF rd rs1 rs2 ws s

/-- `amomaxu` (R210, R211). -/
def execAmomaxu (rd : BitVec 5) (rs1 : BitVec 5) (rs2 : BitVec 5) (_aq : BitVec 1) (_rl : BitVec 1) (ws : BitVec 3)
    (s : State) : Res :=
  amoInstr amoMaxuF rd rs1 rs2 ws s

end Sys2Proof.Machine
end

