-- ==== Sys2Proof/Machine/Branch.lean ====
section
/-!
DEFINITION. Machine/Branch.lean: branches and jumps (R96).
-/

namespace Sys2Proof.Machine

/-- `beq` (R96). -/
def execBeq (rs1 : BitVec 5) (rs2 : BitVec 5) (imm : BitVec 12) (s : State) : Res :=
  branch (decide (s.x rs1 = s.x rs2)) imm s

/-- `bne` (R96). -/
def execBne (rs1 : BitVec 5) (rs2 : BitVec 5) (imm : BitVec 12) (s : State) : Res :=
  branch (decide (s.x rs1 ≠ s.x rs2)) imm s

/-- `blt` (R96). -/
def execBlt (rs1 : BitVec 5) (rs2 : BitVec 5) (imm : BitVec 12) (s : State) : Res :=
  branch (decide (sg (s.x rs1) 64 < sg (s.x rs2) 64)) imm s

/-- `bge` (R96). -/
def execBge (rs1 : BitVec 5) (rs2 : BitVec 5) (imm : BitVec 12) (s : State) : Res :=
  branch (decide (sg (s.x rs2) 64 ≤ sg (s.x rs1) 64)) imm s

/-- `bltu` (R96). -/
def execBltu (rs1 : BitVec 5) (rs2 : BitVec 5) (imm : BitVec 12) (s : State) : Res :=
  branch (decide (ug (s.x rs1) 64 < ug (s.x rs2) 64)) imm s

/-- `bgeu` (R96). -/
def execBgeu (rs1 : BitVec 5) (rs2 : BitVec 5) (imm : BitVec 12) (s : State) : Res :=
  branch (decide (ug (s.x rs2) 64 ≤ ug (s.x rs1) 64)) imm s

/-- `jal` (R96). -/
def execJal (rd : BitVec 5) (imm : BitVec 20) (s : State) : Res :=
  jumpTo rd (s.me.pc + 4) (s.me.pc + immJ imm) s

/-- `jalr` (R96): `x[rs1]` is read before `x[rd]` is written. -/
def execJalr (rd : BitVec 5) (rs1 : BitVec 5) (imm : BitVec 12) (s : State) : Res :=
  jumpTo rd (s.me.pc + 4) ((s.x rs1 + imm12 imm) &&& ~~~1) s

end Sys2Proof.Machine
end

