-- ==== Sys2Proof/Machine/Sync.lean ====
section
/-!
DEFINITION. Machine/Sync.lean: `wait` (R221), `pub` (R222), `aq.notify` (R247), `cm.acq` (R238), and the wake-ups
of harts parked in `wfi`, `wait` and `cm.acq` (R106, R221, R238).
-/

namespace Sys2Proof.Machine

/-- A parking instruction finds its condition unmet (R221, R238, R295): it takes an enabled interrupt if interrupts
are globally enabled, ends without the condition if they are not, and parks otherwise. -/
def orPark (p : Park) (broke : Res) (s : State) : Res :=
  if s.enabledPending s.cur ≠ 0 then
    match s.nextInterrupt s.cur with
    | some c => .next (s.takeInterrupt s.cur c)
    | none => broke
  else parkIn p s

/-- A re-read outside the issue slot (R274): hart k, parked in `p`, stays as it was unless `again` ends the park. A hart of
a fenced core does nothing (R356). -/
def rewake (k : Nat) (p : Park) (again : State → Res) (s : State) : Res :=
  if !s.runs k then .next s else
  match again { s with cur := k } with
  | .next t => if (t.hart k).park = some p then .next s else .next t
  | r => r

/-! ### `wait` -/

/-- `wait` may name this region (R221): local tier memory or a scratchpad. -/
def waitable : Region → Bool
  | .tier | .scratch _ _ _ => true
  | _ => false

/-- The loop of R221. -/
def waitLoop (rd : BitVec 5) (a cmp : Word) (scope : Nat) (s : State) : Res :=
  match s.check s.who .load (.scalar 8) 8 a with
  | .error t => takeTrap t s
  | .ok pa =>
    if !waitable (s.region s.who.core pa) then raise 0x05 a s
    else
      let v := BitVec.ofNat 64 (s.readPa s.who.core pa 8)
      let s := s.cache s.who .load a
      if v ≠ cmp then retireX rd v s
      else orPark (.wait rd a cmp scope) (retireX rd v s) s

/-- `wait` (R221). -/
def execWait (rd : BitVec 5) (rs1 : BitVec 5) (rs2 : BitVec 5) (scope : BitVec 3) (s : State) : Res :=
  onContext s (wellFormed (scopeOk scope) s (waitLoop rd (s.x rs1) (s.x rs2) scope.toNat s))

/-- WAIT_WAKE (R221): the parked hart reads the doubleword again. -/
def execWaitWake (hart : Nat) (s : State) : Res :=
  match (s.hart hart).park with
  | some (.wait rd a cmp scope) => rewake hart (.wait rd a cmp scope) (waitLoop rd a cmp scope) s
  | _ => .next s

/-- WFI_WAKE (R106): a parked `wfi` retires when an enabled interrupt is pending. -/
def execWfiWake (hart : Nat) (s : State) : Res :=
  if s.runs hart && (s.hart hart).park = some .wfi && s.enabledPending hart ≠ 0 then retire { s with cur := hart } else .next s

/-! ### Chunk masks -/

/-- The loop of R238. -/
def acqLoop (rd : BitVec 5) (n : Nat) (clr : Bool) (req : Word) (wait : Bool) (s : State) : Res :=
  let m := s.myCore.cmask[n]?.getD 0
  let got := m &&& req
  let finish : Res :=
    let s := if clr then s.modCore (coreOf s.cur) (fun c => { c with cmask := c.cmask.setIfInBounds n (m &&& ~~~got) })
      else s
    retireX rd got s
  if !wait || got = req then finish else orPark (.cmAcq rd n clr req) finish s

/-- `cm.acq` (R238). -/
def execCmAcq (rd : BitVec 5) (rs1 : BitVec 5) (rs2 : BitVec 5) (s : State) : Res :=
  onContext s (
    let c := s.x rs1
    acqLoop rd (bits c 0 3).toNat (bit c 9) (s.x rs2) (bit c 8) s)

/-- CM_ACQ_WAKE (R238). -/
def execCmAcqWake (hart : Nat) (s : State) : Res :=
  match (s.hart hart).park with
  | some (.cmAcq rd n clr req) => rewake hart (.cmAcq rd n clr req) (acqLoop rd n clr req true) s
  | _ => .next s

/-! ### Windows and queues -/

/-- `pub` (R222, R209): of the windows of the current hart's partition. -/
def execPub (rs1 : BitVec 5) (s : State) : Res :=
  onContext s (
    let m := s.x rs1
    let q := s.partOf s.cur
    if bits m 16 48 ≠ 0 || (upto 16).any (fun n => bit m n && !((s.part q).win n).en) then raise 0x31 m s
    else retire (s.publish q (bits m 0 16)))

/-- `aq.notify` (R247). -/
def execAqNotify (rs1 : BitVec 5) (rs2 : BitVec 5) (scope : BitVec 3) (s : State) : Res :=
  onContext s (wellFormed (scopeOk scope) s (
    let a := s.x rs1
    match s.check s.who .store (.scalar 8) 8 a with
    | .error t => takeTrap t s
    | .ok pa =>
      match s.region s.who.core pa with
      | .agentBlock g off =>
        match queueAt off with
        | some (i, 0x10) =>
          match s.notifyCheck g i (s.x rs2) with
          | .error c => raise c a s
          | .ok t => retire (t.cache s.who .store a)
        | _ => raise 0x07 a s
      | _ => raise 0x07 a s))

end Sys2Proof.Machine
end

