-- ==== Sys2Proof/Machine/Fw.lean ====
section
/-!
DEFINITION. Machine/Fw.lean: the Xlfw instructions of the Orrery cores (R307 to R312).
-/

namespace Sys2Proof.Machine

/-! ### Accesses of a firmware core -/

/-- The domain address of a byte of a queue page of slot t. -/
def State.pageAddr (s : State) (page : Word) (off : Nat) : Word :=
  BitVec.ofNat 64 (s.pkg.toNat * 2 ^ 48 + page.toNat + off)

/-- The check of a doubleword of a block; register space has no blocks to move (R189). -/
def State.blockWord (s : State) (w : Who) (acc : Acc) (a : Word) : Option Trap :=
  match s.check w acc (.scalar 8) 8 a with
  | .ok pa => if (s.region w.core pa).isBlock then some ⟨accessCause acc, a⟩ else none
  | .error t => some t

/-- Every doubleword of a block can be accessed; the first that cannot gives its fault. -/
def State.blockOk (s : State) (w : Who) (acc : Acc) (a : Word) (n : Nat) : Except Trap Unit :=
  match (upto n).findSome? (fun i => s.blockWord w acc (a + BitVec.ofNat 64 (8 * i))) with
  | some t => .error t
  | none => .ok ()

/-- The doublewords of a block at a domain address. -/
def State.blockRead (s : State) (w : Who) (a : Word) (n : Nat) : List Word :=
  (upto n).map (fun i => BitVec.ofNat 64 (s.readPa w.core (a.toNat + 8 * i) 8))

/-- Writes doublewords at a domain address, the lowest first. -/
def State.blockWrite (s : State) (w : Who) (a : Word) (l : List Word) : State :=
  ((upto l.length).zip l).foldl (fun s e => s.writePa w (a.toNat + 8 * e.1) e.2.toNat 8) s

/-- Where record n of a queue page lies (R269). -/
def recordOff (n : Word) : Nat := 0x800 + 64 * (n.toNat % 32)

/-! ### The instructions -/

/-- `fw.ring` (R308). -/
def execFwRing (rd : BitVec 5) (rs1 : BitVec 5) (rs2 : BitVec 5) (s : State) : Res :=
  onOrrery s (untilRoom s (
    let d := iodOf s.cur
    let i := (bits (s.x rs1) 0 6).toNat
    let a := s.x rs2
    let t := (s.complex d).slot i
    let n := t.cons
    let out (st : Nat) (s : State) : Res := retireX rd (BitVec.ofNat 64 st + n <<< 32) s
    if !t.valid then raise 0x90 (BitVec.ofNat 64 i) s
    else if a.toNat % 64 ≠ 0 then raise 0x06 a s
    else if t.kick = n then out 0 s
    else if 32 < (t.kick - n).toNat then out 2 s
    else
      let w := s.who
      let src := s.pageAddr t.page (recordOff n)
      let cons := s.pageAddr t.page 8
      match s.blockOk w .load src 8, s.blockOk w .store a 8, s.blockOk w .store cons 1 with
      | .error f, _, _ => raise 0x91 f.tval (s.machLineError s.cur f)
      | _, .error f, _ => raise 0x91 f.tval s
      | _, _, .error f => raise 0x91 f.tval s
      | .ok _, .ok _, .ok _ =>
        let s := s.blockWrite w a (s.blockRead w src 8)
        let s := s.modComplex d (fun x => x.setSlot i { x.slot i with cons := n + 1 })
        out 1 (s.blockWrite w cons [n + 1])))

/-- `fw.bext` (R309). -/
def execFwBext (rd : BitVec 5) (rs1 : BitVec 5) (lo : BitVec 6) (len1 : BitVec 6) (s : State) : Res :=
  onOrrery s (wellFormed (lo.toNat + len1.toNat + 1 ≤ 64) s
    (retireX rd (BitVec.ofNat 64 ((s.x rs1).toNat / 2 ^ lo.toNat % 2 ^ (len1.toNat + 1))) s))

/-- The loop of R311. -/
def swaitLoop (rd : BitVec 5) (mask : BitVec 3) (s : State) : Res :=
  let got := s.me.fwsig &&& mask
  if got ≠ 0 then retireX rd (got.setWidth 64) (s.modMe (fun h => { h with fwsig := h.fwsig &&& ~~~got }))
  else orPark (.swait rd mask) (retireX rd 0 s) s

/-- `fw.swait` (R311). -/
def execFwSwait (rd : BitVec 5) (rs1 : BitVec 5) (s : State) : Res :=
  onOrrery s (swaitLoop rd (bits (s.x rs1) 0 3) s)

/-- FW_SWAIT_WAKE (R311): a requested source has been latched, or an interrupt ends the park. -/
def execFwSwaitWake (hart : Nat) (s : State) : Res :=
  match (s.hart hart).park with
  | some (.swait rd m) => rewake hart (.swait rd m) (swaitLoop rd m) s
  | _ => .next s

/-- The lanes code of a record's request (R282). -/
def lanesCode (n : Nat) : BitVec 3 :=
  match n with
  | 4 => 1
  | 8 => 2
  | 16 => 3
  | 32 => 4
  | _ => 0

/-- The party of a partition's accesses made by Orrery (R310, R339). -/
def State.whoFor (s : State) (q : Nat) : Who := s.whoAgent q []

/-- The core a target word names, if it keeps R310's table and the core belongs to the partition named. -/
def State.targetOf (s : State) (v : Word) : Option Nat :=
  let c := coreOfHloc (bits v 0 18)
  if v &&& ~~~0xE70FF8 = 0 && (bits v 6 4).toNat ≤ 11 &&
    s.ownerOfCluster (clusterOfCore c) = some (bits v 16 3).toNat then some c else none

/-- The record at an address of partition q's space, if it can be read and keeps R288. -/
def State.dispRecord (s : State) (q : Nat) (a : Word) : Option TaskRec :=
  match s.agentReads (s.whoFor q) a 8 with
  | .error _ => none
  | .ok l => if (TaskRec.ofWords l).ok then some (TaskRec.ofWords l) else none

/-- What a failing read of a record does beyond its own report (R349, R355): Lodestar of cluster g hears of it. -/
def State.recordError (s : State) (q g : Nat) (a : Word) : State :=
  match s.agentReads (s.whoFor q) a 8 with
  | .error t => s.lineError q g t.cause t.tval
  | .ok _ => s

/-- A record offered to a core's inbox by an Orrery core k (R310): whether it was placed, and the state after it. A full
inbox, a fenced core (R357) and an absent one (R359) refuse it. -/
def State.dispatch (s : State) (k c : Nat) (r : TaskRec) : Bool × State :=
  let x := s.core c
  if 16 ≤ x.inbox.length || x.fenced || x.absent then
    (false, s.modComplex (iodOf k) (fun y => { y with noted := insertNat y.noted c }))
  else
    let s := s.setCore c { x with inbox := x.inbox ++ [r] }
    let v : W32 := place 32 0 (7 : BitVec 3) ||| place 32 3 (BitVec.ofNat 3 (coreInCluster c)) |||
      place 32 6 (lanesCode r.lanes.toNat)
    (true, if r.cls = 7 then { s with comets := s.comets ++ [.doorbell (clusterOfCore c) v k] } else s)

/-- A record with its class capped (R310). -/
def TaskRec.capped (r : TaskRec) (cap : BitVec 3) : TaskRec :=
  { r with cls := if cap.toNat < r.cls.toNat then cap.setWidth 8 else r.cls }

/-- `fw.disp` (R310). -/
def execFwDisp (rd : BitVec 5) (rs1 : BitVec 5) (rs2 : BitVec 5) (s : State) : Res :=
  onOrrery s (untilRoom s (
    let a := s.x rs1
    let v := s.x rs2
    match s.targetOf v with
    | none => raise 0x92 v s
    | some c =>
      if a.toNat % 64 ≠ 0 then raise 0x04 a s
      else
        match s.dispRecord (bits v 16 3).toNat a with
        | none => raise 0x93 a (s.recordError (bits v 16 3).toNat (clusterOfCore c) a)
        | some r =>
          let (placed, s) := s.dispatch s.cur c (r.capped (bits v 21 3))
          retireX rd (if placed then 0 else 1) s))

/-- The access fault 0x95 of Orrery core k at the Almanac, for a failing access (R307). -/
def almanacFault (k : Nat) (t : Trap) (s : State) : Res := raise 0x95 t.tval { s.machLineError k t with cur := k }

/-- An access to doubleword `x[rs1]`[23:20] of QCB `x[rs1]`[19:0] with its line brought into the cache (R312). -/
def qcbAccess (v : Word) (s : State) (f : QcbLine → Nat → State → Res) : Res :=
  let id := (bits v 0 20).toNat
  onOrrery s (untilRoom s (
    if (s.complex (iodOf s.cur)).qcbs ≤ id then raise 0x94 v s
    else
      match s.qcbLine s.cur id with
      | .error t => almanacFault s.cur t s
      | .ok (l, t) => f l (bits v 20 4).toNat t))

/-- `fw.qcbld` (R312). -/
def execFwQcbld (rd : BitVec 5) (rs1 : BitVec 5) (s : State) : Res :=
  qcbAccess (s.x rs1) s (fun l w t => retireX rd (l.data[w]?.getD 0) t)

/-- A doubleword of a line in the cache of complex d replaced; the line is dirty. -/
def State.qcbStore (s : State) (d id w : Nat) (v : Word) : State :=
  s.modComplex d (fun x => { x with cache := x.cache.map (fun l =>
    if l.id = id then { l with data := l.data.setIfInBounds w v, dirty := true } else l) })

/-- `fw.qcbst` (R312). -/
def execFwQcbst (rs1 : BitVec 5) (rs2 : BitVec 5) (s : State) : Res :=
  qcbAccess (s.x rs1) s (fun l w t => retire (t.qcbStore (iodOf s.cur) l.id w (s.x rs2)))

end Sys2Proof.Machine
end

