-- ==== Sys2Proof/Machine/Firmware.lean ====
section
/-!
DEFINITION. Machine/Firmware.lean: what the shipped Orrery firmware does (R305, R313 to R315): its scheduling rounds, the
records it serves, the restart of a queue in error; the retries of bitmap stores (R306); and Lodestar's answer to a
record that no hart can take (R317).
-/

namespace Sys2Proof.Machine

/-! ### Queue control blocks (R305) -/

/-- A QCB as the firmware reads it. -/
structure Qcb where
  id   : Nat
  w0   : Word
  cons : Word
  page : Word
  held : Word
  /-- The kick with bit 63 set that the firmware has already answered (its own word of the QCB). -/
  seen : Word

def Qcb.qstate (q : Qcb) : Nat := (bits q.w0 0 8).toNat
def Qcb.bprio (q : Qcb) : Nat := (bits q.w0 8 3).toNat
def Qcb.astep (q : Qcb) : Nat := (bits q.w0 16 8).toNat
def Qcb.age (q : Qcb) : Nat := (bits q.w0 24 8).toNat
def Qcb.slot (q : Qcb) : Nat := (bits q.w0 32 6).toNat
def Qcb.home (q : Qcb) : Nat := (bits q.w0 38 1).toNat
def Qcb.mapped (q : Qcb) : Bool := bit q.w0 39
def Qcb.part (q : Qcb) : Nat := (bits q.w0 40 3).toNat
def Qcb.cmax (q : Qcb) : BitVec 3 := bits q.w0 48 3
def Qcb.qnt (q : Qcb) : Nat := (bits q.w0 56 8).toNat

/-- The effective priority (R313). -/
def Qcb.eff (q : Qcb) : Nat := if q.astep = 0 then q.bprio else min 7 (q.bprio + q.age / q.astep)

def Qcb.setState (q : Qcb) (n : Nat) : Qcb := { q with w0 := setBits q.w0 0 (BitVec.ofNat 8 n) }
def Qcb.setAge (q : Qcb) (n : Nat) : Qcb := { q with w0 := setBits q.w0 24 (BitVec.ofNat 8 (min n 255)) }
/-- The slot field: the slot number and `mapped`; the home stays. -/
def Qcb.setSlot (q : Qcb) (i : Nat) (m : Bool) : Qcb :=
  { q with w0 := setBit (setBits q.w0 32 (BitVec.ofNat 6 i)) 39 m }

/-- A QCB from a line's doublewords. -/
def Qcb.ofLine (id : Nat) (w : Nat → Word) : Qcb := ⟨id, w 0, w 1, w 2, w 3, w 8⟩

/-- A QCB as it stands, cached or not, without a change of the cache. -/
def State.peekQcb (s : State) (d id : Nat) : Qcb :=
  match (s.complex d).cache.find? (fun l => l.id = id) with
  | some l => .ofLine id (fun i => l.data[i]?.getD 0)
  | none => .ofLine id (fun i => BitVec.ofNat 64 (Memory.read s.mem ((s.qcbAddr d id).toNat + 8 * i) 8))

/-- The outcome of a piece of the firmware's work: or the access of an Orrery core (its key) at the Almanac that failed. -/
abbrev FwRes (α : Type) := Except (Nat × Trap) α

/-- Core k reads a QCB through the cache of its complex (R306, R312). -/
def State.getQcb (s : State) (k id : Nat) : FwRes (Qcb × State) :=
  match s.qcbLine k id with
  | .error t => .error (k, t)
  | .ok (l, s) => .ok (.ofLine id (fun i => l.data[i]?.getD 0), s)

/-- Core k writes a QCB through the cache. -/
def State.putQcb (s : State) (k : Nat) (q : Qcb) : FwRes State :=
  let d := iodOf k
  match s.qcbLine k q.id with
  | .error t => .error (k, t)
  | .ok (_, s) =>
    .ok (((((s.qcbStore d q.id 0 q.w0).qcbStore d q.id 1 q.cons).qcbStore d q.id 2 q.page).qcbStore d q.id 3 q.held).qcbStore
      d q.id 8 q.seen)

/-- The outcome of a piece of the firmware's work as a step, once there is room for what it stores and tells. -/
def fwStep (s : State) (r : FwRes State) : Res :=
  untilRoomStep s (match r with
    | .ok t => .next t
    | .error (k, t) =>
      match almanacFault k t s with
      | .next u => .next { u with cur := s.cur }
      | r => r)

/-- The ids that may hold a QCB other than zero: those cached and those with a byte in memory. -/
def State.qcbIds (s : State) (d : Nat) : List Nat :=
  let x := s.complex d
  let b := (s.qcbAddr d 0).toNat
  let ids := x.cache.map (·.id) ++
    (s.mem.filter (fun c => b ≤ c.1 && c.1 < b + 128 * x.qcbs)).map (fun c => (c.1 - b) / 128)
  ids.foldl insertNat []

/-- The QCBs of complex d whose home it is; the firmware keeps lists of its own of those that wait and those mapped. -/
def State.homeQcbs (s : State) (d : Nat) : List Qcb :=
  ((s.qcbIds d).map (fun i => s.peekQcb d i)).filter (fun q => q.home = d)

/-- The `kick` of a queue as the firmware sees it: a restart it has answered counts without its bit 63 (R315). -/
def State.kickView (s : State) (q : Qcb) : Word :=
  let k := s.kickWord q.page
  if bit k 63 && k = q.seen then setBit k 63 false else k

/-- The Orrery core of complex d that serves slot i (R313 step 6). -/
def serverOf (d i : Nat) : Nat := orrKey d (1 + i % 3)

/-! ### Serving a record (R314) -/

/-- Core k writes a field of n bytes of a queue page, if it can; a page in register space takes no field. -/
def State.pageStore (s : State) (k : Nat) (page : Word) (off v n : Nat) : Option State :=
  let w := s.whoHart k
  match s.check w .store (.scalar n) n (s.pageAddr page off) with
  | .error _ => none
  | .ok pa => if (s.region w.core pa).isBlock then none else some (s.writePa w pa v n)

/-- A queue enters the error state (R270): `cqerr` holds the code and the record's index. The kick as it stands is no
restart (R315). -/
def State.queueFail (s : State) (k : Nat) (q : Qcb) (code : Nat) (n : Word) : FwRes State :=
  let s := (s.pageStore k q.page 0x18 (1 + 16 * code + 2 ^ 32 * (n.toNat % 2 ^ 32)) 8).getD s
  let s := s.modComplex (iodOf k) (fun x =>
    let t := x.slot q.slot
    if q.mapped then x.setSlot q.slot { t with kick := setBit t.kick 63 false } else x)
  s.putQcb k ({ q with seen := s.kickWord q.page }.setState 4)

/-- A record completes: `cres`, then `cdone` past it (R270); a failing store puts the queue in error with code 3. -/
def State.finishRecord (s : State) (k : Nat) (q : Qcb) (n : Word) (cres : Nat) : FwRes State :=
  match s.pageStore k q.page (recordOff n + 1) cres 1 with
  | none => s.queueFail k q 3 n
  | some t =>
    match t.pageStore k q.page 0x10 (n + 1).toNat 8 with
    | none => t.queueFail k q 3 n
    | some t => .ok t

/-- The cores of partition q in the order a complex offers them records: from the one after the last it used. -/
def State.coresFrom (s : State) (q last : Nat) : List Nat :=
  ((upto 384).map (fun i => (last + 1 + i) % 384)).filter (fun c => s.ownerOfCluster (clusterOfCore c) = some q)

/-- Core k offers a record to vector cores in turn until one takes it. -/
def State.offer (s : State) (k : Nat) (r : TaskRec) : List Nat → Bool × State
  | [] => (false, s)
  | c :: cs =>
    match s.dispatch k c r with
    | (true, s) => (true, s.modComplex (iodOf k) (fun x => { x with lastDisp := c }))
    | (false, s) => s.offer k r cs

/-- How serving one record ends: the next may follow, or the slot is done with for this round. -/
inductive Served where
  | more (s : State)
  | done (s : State)

/-- The state serving one record leaves. -/
def Served.state : Served → State
  | .more s => s
  | .done s => s

/-- A LAUNCH: the record is placed, or held after sixteen refusals. -/
def State.serveLaunch (s : State) (k : Nat) (q : Qcb) (n addr : Word) : FwRes Served :=
  let d := iodOf k
  let cores := s.coresFrom q.part (s.complex d).lastDisp
  let rec? := if addr.toNat % 64 = 0 && !cores.isEmpty then s.dispRecord q.part addr else none
  match rec? with
  | none =>
    let s := if addr.toNat % 64 = 0 then s.recordError q.part (s.firstCluster q.part) addr else s
    (s.finishRecord k q n 2).map Served.more
  | some r =>
    let r := r.capped q.cmax
    match s.offer k r (cores.take 16) with
    | (true, s) => (s.finishRecord k q n 1).map Served.more
    | (false, s) => .ok (.done (s.modComplex d (fun x => { x with held := put x.held q.id r })))

/-- A SIGNAL: the value is added to the doubleword. -/
def State.serveSignal (s : State) (k : Nat) (q : Qcb) (n addr v : Word) : FwRes Served :=
  match s.agentAmo (s.whoFor q.part) addr 8 (fun x => x + v.toNat) with
  | .error t =>
    ((s.lineError q.part (s.firstCluster q.part) t.cause addr).finishRecord k q n 2).map Served.more
  | .ok (_, s) => (s.finishRecord k q n 1).map Served.more

/-- A PACE: a pacing comet to an agent of the queue's partition. -/
def State.servePace (s : State) (k : Nat) (q : Qcb) (n : Word) (agent die : Nat) : FwRes Served :=
  if agent ≤ 5 && die ≤ 3 && s.ownerOfAgent (6 * die + agent) = some q.part then
    ((s.sendPace k (BitVec.ofNat 64 (agent + 8 * die))).finishRecord k q n 1).map Served.more
  else (s.finishRecord k q n 2).map Served.more

/-- A NOP. -/
def State.serveNop (s : State) (k : Nat) (q : Qcb) (n : Word) : FwRes Served := (s.finishRecord k q n 1).map Served.more

/-- What reading the next record of a slot gives: its index and its words, or the code of the error its queue ends in,
with the fault met, if one was. -/
def State.nextRecord (s : State) (k i : Nat) (q : Qcb) : Option (Word × Except (Nat × Option Trap) (List Word)) :=
  let x := s.complex (iodOf k)
  let t := x.slot i
  if !t.valid || q.qstate ≠ 3 || t.kick = t.cons || x.held.any (fun e => e.1 = q.id) then none
  else if 32 < (t.kick - t.cons).toNat then some (t.cons, .error (2, none))
  else
    let w := s.whoHart k
    let a := s.pageAddr t.page (recordOff t.cons)
    match s.blockOk w .load a 8, s.blockOk w .store (s.pageAddr t.page 8) 1 with
    | .ok _, .ok _ =>
      let l := s.blockRead w a 8
      if 3 < (l.getD 0 0).toNat % 256 then some (t.cons, .error (1, none)) else some (t.cons, .ok l)
    | .error f, _ => some (t.cons, .error (3, some f))
    | _, .error _ => some (t.cons, .error (3, none))

/-- The record is taken: the slot's read index and `cons` advance (R308). -/
def State.takeRecord (s : State) (k i : Nat) : State :=
  let d := iodOf k
  let t := (s.complex d).slot i
  let s := s.modComplex d (fun x => x.setSlot i { t with cons := t.cons + 1 })
  (s.pageStore k t.page 8 (t.cons + 1).toNat 8).getD s

/-- What a record's code has the firmware do. -/
def State.serveWords (s : State) (k : Nat) (q : Qcb) (n : Word) (l : List Word) : FwRes Served :=
  let w (i : Nat) : Word := l.getD i 0
  match (w 0).toNat % 256 with
  | 0 => s.serveNop k q n
  | 1 => s.serveLaunch k q n (w 1)
  | 2 => s.serveSignal k q n (w 1) (w 2)
  | _ => s.servePace k q n ((w 1).toNat % 256) ((w 1).toNat / 256 % 256)

/-- Core k serves the next record of slot i, whose queue is q; `only` is the one code asked for, if one is. -/
def State.serveNext (s : State) (k i : Nat) (q : Qcb) (only : Option Nat) : FwRes Served :=
  match s.nextRecord k i q with
  | none => .ok (.done s)
  | some (n, .error (code, f)) =>
    let t := match f with
      | some f => s.machLineError k f
      | none => s
    if only.isSome then .ok (.done s) else (t.queueFail k q code n).map Served.done
  | some (n, .ok l) =>
    if only.isSome && only ≠ some ((l.getD 0 0).toNat % 256) then .ok (.done s)
    else (s.takeRecord k i).serveWords k q n l

/-- Up to n records of slot i. -/
def State.serveUpTo (s : State) (k i : Nat) : Nat → FwRes State
  | 0 => .ok s
  | n + 1 =>
    match s.getQcb k ((s.complex (iodOf k)).slot i).qid.toNat with
    | .error f => .error f
    | .ok (q, s) =>
      match s.serveNext k i q none with
      | .error f => .error f
      | .ok (.done s) => .ok s
      | .ok (.more s) => s.serveUpTo k i n

/-- The core of a slot serves as many records of it as its QCB says (R313 step 6). -/
def State.serveSlot (s : State) (d i : Nat) : FwRes State :=
  let t := (s.complex d).slot i
  if !t.valid then .ok s
  else
    match s.getQcb (serverOf d i) t.qid.toNat with
    | .error f => .error f
    | .ok (q, s) => s.serveUpTo (serverOf d i) i q.qnt

/-- A held record is offered first in a later round (R314), by the core that serves its slot. -/
def State.serveHeld (s : State) (d : Nat) (id : Nat) (r : TaskRec) : FwRes State :=
  match s.getQcb (serverOf d (s.peekQcb d id).slot) id with
  | .error f => .error f
  | .ok (q, s) =>
    let k := serverOf d q.slot
    let t := (s.complex d).slot q.slot
    let cons := if q.mapped then t.cons else q.cons
    match s.offer k r ((s.coresFrom q.part (s.complex d).lastDisp).take 16) with
    | (true, s) =>
      (s.modComplex d (fun x => { x with held := del x.held id })).finishRecord k q (cons - 1) 1
    | (false, s) => .ok s

/-! ### A round (R313) -/

/-- Folds an update that may fail over a list. -/
def foldOk {α : Type} (f : State → α → FwRes State) (s : State) (l : List α) : FwRes State :=
  l.foldl (fun r a =>
    match r with
    | .error e => .error e
    | .ok s => f s a) (.ok s)

/-- The ids whose bits of the pending bitmap are set, rising. -/
def State.bitmapIds (s : State) (d : Nat) : List Nat :=
  match (s.complex d).bitmap with
  | none => []
  | some (b, z) =>
    let a := s.pkg.toNat * 2 ^ 48 + b
    (s.mem.filter (fun c => a ≤ c.1 && c.1 < a + z)).flatMap (fun c =>
      ((upto 8).filter (fun i => c.2.getLsbD i)).map (fun i => 8 * (c.1 - a) + i))

/-- A queue whose bit was read: with a kick past what was read it becomes waiting if it was idle; of a queue in error the
kick now there may be a restart (R315). -/
def State.collectOne (s : State) (d i : Nat) : FwRes State :=
  if (s.complex d).qcbs ≤ i then .ok s
  else
    match s.getQcb (orrKey d 0) i with
    | .error f => .error f
    | .ok (q, s) =>
      if q.home = d && q.qstate = 1 && s.kickView q ≠ q.cons then s.putQcb (orrKey d 0) (q.setState 2)
      else if q.home = d && q.qstate = 4 && !q.mapped then s.putQcb (orrKey d 0) { q with seen := 0 }
      else .ok s

/-- Step 2: the bits read are cleared, and the queues of this complex with a kick that are idle become waiting. -/
def State.collect (s : State) (d : Nat) : FwRes State :=
  let ids := s.bitmapIds d
  let s := match (s.complex d).bitmap with
    | none => s
    | some (b, _) => ids.foldl (fun s i =>
        let pa := s.pkg.toNat * 2 ^ 48 + b + i / 8
        s.writePa (s.whoHart (orrKey d 0)) pa (setBit (Memory.get s.mem pa) (i % 8) false).toNat 1) s
  foldOk (fun s i => s.collectOne d i) (s.modComplex d (fun x => { x with fwkpend := 0 })) ids

/-- Whether queue a comes before queue b: eff, then age, both descending, then id. -/
def Qcb.before (a b : Qcb) : Bool :=
  if a.eff ≠ b.eff then b.eff < a.eff else if a.age ≠ b.age then b.age < a.age else a.id < b.id

/-- A queue put in its place among others in order. -/
def insertQcb (q : Qcb) : List Qcb → List Qcb
  | [] => [q]
  | r :: l => if q.before r then q :: r :: l else r :: insertQcb q l

/-- The queue a slot is bound to. -/
def State.slotQcb (s : State) (d i : Nat) : Qcb := s.peekQcb d ((s.complex d).slot i).qid.toNat

/-- The mapped queue that gives way is the one of lowest eff, of those the longest held, of those in the highest slot. -/
def State.weaker (s : State) (d i j : Nat) : Bool :=
  let a := s.slotQcb d i
  let b := s.slotQcb d j
  if a.eff ≠ b.eff then a.eff < b.eff else if a.held ≠ b.held then b.held.toNat < a.held.toNat else j < i

/-- The slots valid in complex d. -/
def State.validSlots (s : State) (d : Nat) : List Nat := (upto 64).filter (fun i => ((s.complex d).slot i).valid)

/-- The mapped queue that gives way to a waiting queue q, once the QCBs of the slots have been read. -/
def State.givesWay (s : State) (d : Nat) (q : Qcb) : Option Nat :=
  let i := (upto 64).foldl (fun b i => if s.weaker d i b then i else b) 0
  let m := s.slotQcb d i
  if m.eff < q.eff || (m.eff = q.eff && 64 ≤ m.held.toNat) then some i else none

/-- The slot a waiting queue takes (R313 step 3); core 0 reads the QCBs it compares. -/
def State.slotFor (s : State) (d : Nat) (q : Qcb) : FwRes (Option Nat × State) :=
  let x := s.complex d
  match (upto 64).find? (fun i => !(x.slot i).valid) with
  | some i => .ok (some i, s)
  | none =>
    match (upto 64).reverse.find? (fun i => (x.slot i).kick = (x.slot i).cons) with
    | some i => .ok (some i, s)
    | none =>
      (foldOk (fun s i => (s.getQcb (orrKey d 0) ((s.complex d).slot i).qid.toNat).map (·.2)) s (s.validSlots d)).map
        (fun s => (s.givesWay d q, s))

/-- Step 4: the queue of a slot is saved and the slot unbound. A queue in error stays so. -/
def State.unmap (s : State) (d i : Nat) : FwRes State :=
  let t := (s.complex d).slot i
  if !t.valid then .ok s
  else
    match s.getQcb (orrKey d 0) t.qid.toNat with
    | .error f => .error f
    | .ok (q, s) =>
      let next := if q.qstate = 4 then 4 else if t.kick = t.cons then 1 else 2
      (s.unbindSlot d i).putQcb (orrKey d 0)
        (((({ q with cons := t.cons, held := 0 }).setAge 0).setState next).setSlot i false)

/-- Step 5: the incoming queue is bound. -/
def State.mapQueue (s : State) (d i : Nat) (q : Qcb) : FwRes State :=
  let s := s.modComplex d (fun x => x.setSlot i { x.slot i with page := q.page &&& 0xFFFFFFFFF000, cons := q.cons })
  let s := s.bindSlot d i (place 64 0 (1 : BitVec 1) ||| place 64 1 (BitVec.ofNat 20 q.id))
  let s := s.modComplex d (fun x => x.setSlot i { x.slot i with kick := s.kickView q })
  s.putQcb (orrKey d 0) ((({ q with held := 0 }).setState 3).setSlot i true)

/-- Steps 3 to 5 for one waiting queue. -/
def State.mapOne (s : State) (d : Nat) (q : Qcb) : FwRes State :=
  match s.slotFor d q with
  | .error f => .error f
  | .ok (none, s) => .ok s
  | .ok (some i, s) =>
    match s.unmap d i with
    | .error f => .error f
    | .ok s => s.mapQueue d i q

/-- Step 7. -/
def State.ageQueue (s : State) (d : Nat) (q : Qcb) : FwRes State :=
  if q.mapped then s.putQcb (orrKey d 0) { q with held := q.held + 1 }
  else if q.qstate = 2 then s.putQcb (orrKey d 0) (q.setAge (q.age + 1))
  else .ok s

/-- Steps 2 to 7. -/
def State.round (s : State) (d : Nat) : FwRes State := do
  let s ← s.collect d
  let waiting := ((s.homeQcbs d).filter (fun q => q.qstate = 2 && !q.mapped)).foldl (fun l q => insertQcb q l) []
  let s ← foldOk (fun s q => s.mapOne d q) s waiting
  let s ← foldOk (fun s (e : Nat × TaskRec) => s.serveHeld d e.1 e.2) s (s.complex d).held
  let s ← foldOk (fun s i => s.serveSlot d i) s (upto 64)
  foldOk (fun s q => s.ageQueue d q) s (s.homeQcbs d)

/-- SCHEDULING_ROUND (R313): core 0 of the complex runs a round once a wake source is latched; a QCB a core cannot reach
is an Almanac access fault there (R307). -/
def execSchedulingRound (iod : Nat) (s : State) : Res :=
  let k := orrKey iod 0
  if (s.hart k).fwsig = 0 then .next s
  else fwStep s (State.round (s.modHart k (fun h => { h with fwsig := 0 })) iod)

/-- The core of slot n serves one record of it, if its code is `code`. -/
def serveStep (iod n code : Nat) (s : State) : Res :=
  let k := serverOf iod n
  fwStep s (match s.getQcb k ((s.complex iod).slot n).qid.toNat with
    | .error f => .error f
    | .ok (q, s) => (s.serveNext k n q (some code)).map Served.state)

/-- NOP (R314): the next record of slot n. -/
def execNop (iod : Nat) (n : Nat) (s : State) : Res := serveStep iod n 0 s
/-- LAUNCH (R314). -/
def execLaunch (iod : Nat) (n : Nat) (s : State) : Res := serveStep iod n 1 s
/-- SIGNAL (R314). -/
def execSignal (iod : Nat) (n : Nat) (s : State) : Res := serveStep iod n 2 s
/-- PACE (R314). -/
def execPace (iod : Nat) (n : Nat) (s : State) : Res := serveStep iod n 3 s

/-- The new count of a queue in error whose host has stored a restart since the error (R315): its slot has observed the
store, or, of a queue that has no slot, the kick differs from the one last answered. -/
def State.restartKick (s : State) (d : Nat) (q : Qcb) : Option Word :=
  let k := if q.mapped then ((s.complex d).slot q.slot).kick else s.kickWord q.page
  if bit k 63 && (q.mapped || k ≠ q.seen) then some k else none

/-- KICK_RESTART (R315): queue n is in error and its `kick` has bit 63 set: `cqerr` is cleared, and the queue resumes at
the failing record with the new count. -/
def execKickRestart (iod : Nat) (n : Nat) (s : State) : Res :=
  let k := orrKey iod 0
  if (s.complex iod).qcbs ≤ n || (s.peekQcb iod n).qstate ≠ 4 then .next s
  else fwStep s (match s.getQcb k n with
    | .error f => .error f
    | .ok (q, s) =>
      match (if q.home = iod then s.restartKick iod q else none) with
      | none => .ok s
      | some v =>
        match s.pageStore k q.page 0x18 0 8 with
        | none => .ok s
        | some s =>
          (s.putQcb k ({ q with seen := v }.setState (if q.mapped then 3 else 2))).map (fun s =>
            if q.mapped then s.modComplex iod (fun x =>
              x.setSlot q.slot { x.slot q.slot with kick := setBit v 63 false }) else s))

/-- BITMAP_STORE_RETRY (R306): the bits whose store could not be made are stored again. -/
def execBitmapStoreRetry (iod : Nat) (s : State) : Res :=
  .next ((s.complex iod).retry.foldl (fun s i => s.setBitmap iod i) s)

/-! ### Unserved records (R317) -/

/-- The records waiting in a cluster: those of each inbox with its core, then those of the store. -/
def State.waitingRecs (s : State) (g : Nat) : List (Option Nat × TaskRec) :=
  (upto 8).flatMap (fun n => (s.core (coreAt g n)).inbox.map (fun r => (some (coreAt g n), r))) ++
    (s.cluster g).pls.map (fun e => (none, e.task))

/-- The resident contexts of a cluster's logical cores. -/
def State.residents (s : State) (g : Nat) : List Nat :=
  (upto 64).map (fun i => ctxKey (coreAt g (i / 8)) (i % 8)) |>.filter (fun k => (s.hart k).ctxState = 1)

/-- Of the waiting records, those no resident hart is eligible for; an inbox record needs a hart of its core. -/
def State.unserved (s : State) (g : Nat) : List (Option Nat × TaskRec) :=
  (s.waitingRecs g).filter (fun e =>
    !(s.residents g).any (fun k => (e.1 = none || e.1 = some (coreOf k)) && s.eligible k e.2))

/-- The hart is parked in `task.pop` or `task.exit`. -/
def Hart.idle (h : Hart) : Bool :=
  match h.park with
  | some (.taskPop _ _) | some .taskExit => true
  | _ => false

/-- The contexts of a core that hold no hart or whose hart is idle. -/
def State.spareCtxs (s : State) (c : Nat) : List Nat :=
  (upto 8).filter (fun h => let t := s.hart (ctxKey c h); t.ctxState = 0 || (t.ctxState = 1 && t.idle))

/-- The number of slots (as `parts` codes it) of a lane partition with slots of n lanes. -/
def partsFor (n : Nat) : Nat :=
  match n with
  | 32 => 0
  | 16 => 1
  | 8 => 2
  | _ => 3

/-- Context h holds slot i of a lane partition. -/
def slotHeld (v : Word) (i h : Nat) : Bool := bit v (4 * i + 11) && (bits v (4 * i + 8) 3).toNat = h

/-- A lane partition with slot i given to context h alone. -/
def giveSlot (v : Word) (i h : Nat) : Word :=
  let v := (upto 8).foldl (fun v j => if slotHeld v j h then setBit v (4 * j + 11) false else v) v
  setBit (setBits v (4 * i + 8) (BitVec.ofNat 3 h)) (4 * i + 11) true

/-- A lane partition of core c with a slot of n lanes for a spare context, if only spare contexts lose or gain lanes: first
for an idle hart, then for a free context. Slots that busy harts hold stay theirs. -/
def State.newVlp (s : State) (c n : Nat) : Option Word :=
  let v := (s.core c).vlp
  let spare := s.spareCtxs c
  let busy := (upto 8).filter (fun h => !spare.contains h && lanesOf v h ≠ 0)
  let base : Word := if busy.isEmpty then BitVec.ofNat 64 (partsFor n) else v
  let h := match spare.find? (fun h => (s.hart (ctxKey c h)).ctxState = 1) with
    | some h => some h
    | none => spare.head?
  if n = 0 || busy.any (fun h => lanesOf v h ≠ n) then none
  else
    match (upto (2 ^ partsFor n)).find? (fun i => !busy.any (fun h => slotHeld base i h)), h with
    | some i, some h => some (giveSlot base i h)
    | _, _ => none

/-- The cores a waiting record could begin on. -/
def coresOfRec (g : Nat) (at_ : Option Nat) : List Nat :=
  match at_ with
  | some c => [c]
  | none => (upto 8).map (fun n => coreAt g n)

/-- The resident members of the gang of hart k, or k alone. -/
def State.gangMates (s : State) (k : Nat) : List Nat :=
  match s.gangOf k with
  | none => [k]
  | some g => (s.residents (clusterOf k)).filter (fun j => s.gangOf j = some g)

/-- Hart k may be pre-empted for a record of class c: it runs a record of a lower class, and so does every member of its
gang, which goes with it (R283, R317). -/
def State.maySave (s : State) (cls k : Nat) : Bool :=
  (s.hart k).ctxState = 1 && !(s.hart k).idle && (s.gangMates k).all (fun j => (s.hart j).task.tclass.toNat < cls)

/-- Hart j goes before hart k: the lower class, and among equal classes the record that began later (R317). -/
def State.goesBefore (s : State) (j k : Nat) : Bool :=
  let a := s.hart j
  let b := s.hart k
  if a.task.tclass ≠ b.task.tclass then a.task.tclass.toNat < b.task.tclass.toNat else b.beganAt < a.beganAt

/-- The hart to pre-empt for a record of class c, among those of some cores. -/
def State.victim (s : State) (cores : List Nat) (cls : Nat) : Option Nat :=
  let ks := (cores.flatMap (fun c => (upto 8).map (fun h => ctxKey c h))).filter (fun k => s.maySave cls k)
  ks.foldl (fun b k =>
    match b with
    | none => some k
    | some j => if s.goesBefore k j then some k else some j) none

/-- A save command to a hart and the members of its gang, which Lodestar is to resume. -/
def State.preempt (s : State) (k : Nat) : State :=
  (s.gangMates k).foldl (fun s j => s.modHart j (fun h => { h.cmdSave with preempted := true })) s

/-- Some hart of core c that Lodestar pre-empts has not been saved yet. -/
def State.saving (s : State) (c : Nat) : Bool :=
  (upto 8).any (fun h => let t := s.hart (ctxKey c h); t.ctxState = 2 && t.preempted)

/-- UNSERVED_RECORD (R317): for the n-th unserved record Lodestar rewrites `vlp` of a core whose affected contexts are
idle or free, or else pre-empts a hart of a lower class, and rewrites `vlp` once it is saved. -/
def execUnservedRecord (cl : Nat) (n : Nat) (s : State) : Res :=
  match (s.unserved cl)[n]? with
  | none => .next s
  | some (at_, r) =>
    let cores := (coresOfRec cl at_).filter (fun c => !(s.core c).fenced && !(s.core c).absent)
    if cores.any s.saving then .next s
    else
      match cores.findSome? (fun c => (s.newVlp c r.lanes.toNat).map (fun v => (c, v))) with
      | some (c, v) => .next ((s.writeVlp c v).getD (s.awaitVlp c { v := v }))
      | none =>
        match s.victim cores r.cls.toNat with
        | some k => .next (s.preempt k)
        | none => .next s

end Sys2Proof.Machine
end

