-- ==== Sys2Proof/Machine/GangBar.lean ====
section
/-!
DEFINITION. Machine/GangBar.lean: the gang barriers `gbar.*` and the return of a parked member (R284 to R287).
-/

namespace Sys2Proof.Machine

/-- A combination of R284, by its code in `gbstat`.`op`. -/
def combine (op : BitVec 3) (a b : Word) : Word :=
  match op.toNat with
  | 1 => if a.toNat < b.toNat then b else a
  | 2 => if a.toNat < b.toNat then a else b
  | 3 => a + b
  | _ => a ||| b

/-- An arrival's contribution (R284); `gbar.arrive`, of code 0, makes none. -/
def Gang.contribute (g : Gang) (op : BitVec 3) (v : Word) : Gang :=
  if op = 0 then g
  else if g.op = 0 then { g with op := op, val := v }
  else { g with val := combine op g.val v }

/-- Hands a phase's release to a saved member, in its area (R287, R331). -/
def State.handArea (s : State) (v : Word) (a : Nat) : State :=
  (s.writePa device (a + 0x1C0) (Memory.read s.mem (a + 0x1C0) 8 ||| 2) 8).writePa device (a + 0x1C8) v.toNat 8

/-- The phase of gang n of cluster g is released (R284): every member with a pending arrival receives the value. -/
def State.releasePhase (s : State) (g n : Nat) : State :=
  let t := (s.cluster g).gang n
  let v : Word := if t.op = 0 then t.phase.setWidth 64 else t.val
  let give (e : Nat × Hart) : Nat × Hart :=
    if isCtx e.1 && clusterOf e.1 = g && e.2.bar.bpend && e.2.bar.bn.toNat = n && !e.2.bar.brel
    then (e.1, { e.2 with bar := { e.2.bar with bval := v, brel := true } }) else e
  let s := t.away.foldl (fun s a => s.handArea v a) { s with harts := s.harts.map give }
  s.modCluster g (fun c => c.setGang n { c.gang n with phase := t.phase + 1, arr := 0, op := 0, away := [] })

/-- The current hart arrives at barrier n of its gang (R284). -/
def State.arrive (s : State) (n : BitVec 4) (op : BitVec 3) (v : Word) : State :=
  let g := clusterOf s.cur
  let t := (s.cluster g).gang n.toNat
  let s := s.modCluster g (fun c => c.setGang n.toNat { (c.gang n.toNat).contribute op v with arr := t.arr + 1 })
  let s := s.modMe (fun h => { h with bar := { h.bar with bpend := true, bn := n, bphase := t.phase } })
  if t.arr + 1 = t.n then s.releasePhase g n.toNat else s

/-- The return from a released barrier, or the wait for it (R284). -/
def waitBarrier (rd : BitVec 5) (n : BitVec 4) (s : State) : Res :=
  let b := s.me.bar
  if b.brel then
    retireX rd b.bval (s.modMe (fun h => { h with bar := { h.bar with bpend := false, brel := false } }))
  else parkIn (.gbar rd n.toNat) s

/-- A barrier instruction (R284); `op` is 0 for `gbar.arrive`. An arrival that hands the release to saved members stores into
their areas, and waits for room in a host-visible window (R208). -/
def gangBarrier (op : BitVec 3) (rd rs1 : BitVec 5) (n : BitVec 4) (s : State) : Res :=
  onContext s (
    let t := s.me.task
    let g := (s.cluster (clusterOf s.cur)).gang n.toNat
    if !(t.member && t.tgang = n) then raise 0x55 (n.setWidth 64) s
    else if s.me.bar.bpend && s.me.bar.bn = n then waitBarrier rd n s
    else if s.me.bar.bpend then raise 0x55 (n.setWidth 64) s
    else if op ≠ 0 && g.op ≠ 0 && g.op ≠ op then raise 0x54 (n.setWidth 64) s
    else untilRoom s (waitBarrier rd n (s.arrive n op (s.x rs1))))

/-- `gbar.arrive` (R284). -/
def execGbarArrive (rd : BitVec 5) (rs1 : BitVec 5) (n : BitVec 4) (s : State) : Res := gangBarrier 0 rd rs1 n s
/-- `gbar.max` (R284). -/
def execGbarMax (rd : BitVec 5) (rs1 : BitVec 5) (n : BitVec 4) (s : State) : Res := gangBarrier 1 rd rs1 n s
/-- `gbar.min` (R284). -/
def execGbarMin (rd : BitVec 5) (rs1 : BitVec 5) (n : BitVec 4) (s : State) : Res := gangBarrier 2 rd rs1 n s
/-- `gbar.add` (R284). -/
def execGbarAdd (rd : BitVec 5) (rs1 : BitVec 5) (n : BitVec 4) (s : State) : Res := gangBarrier 3 rd rs1 n s
/-- `gbar.or` (R284). -/
def execGbarOr (rd : BitVec 5) (rs1 : BitVec 5) (n : BitVec 4) (s : State) : Res := gangBarrier 4 rd rs1 n s

/-- GBAR_WAKE: a parked member whose phase is released returns (R284, R287). -/
def execGbarWake (hart : Nat) (s : State) : Res :=
  match (s.hart hart).park with
  | some (.gbar rd n) =>
    if s.runs hart && (s.hart hart).bar.brel then waitBarrier rd (BitVec.ofNat 4 n) { s with cur := hart } else .next s
  | _ => .next s

end Sys2Proof.Machine
end

