-- ==== Sys2Proof/Machine/Msg.lean ====
section
/-!
DEFINITION. Machine/Msg.lean: active messages (R262 to R267, R357, R359, R366) and the arrival of comets (R268, R248,
R324).
-/

namespace Sys2Proof.Machine

/-! ### The send queue (R263, R264) -/

/-- The entry is one the destination core holds, or has ended. -/
def SendEntry.settled (e : SendEntry) : Bool :=
  match e.state with
  | .accepted | .outcome => true
  | _ => false

/-- The entry was refused and waits for its core to signal. -/
def SendEntry.isRefused (e : SendEntry) : Bool :=
  match e.state with
  | .refused _ => true
  | _ => false

/-- Some message of hart k to a destination core was refused and has not been sent again. -/
def Hart.holdsRefused (h : Hart) (dest : Nat) : Bool := h.sendQ.any (fun e => destOf e.msg.dst = dest && e.isRefused)

/-- The same message of the same sender. -/
def Msg.same (m n : Msg) : Bool := m.src = n.src && m.srcPkg = n.srcPkg && m.dst = n.dst && m.seq = n.seq

/-- Messages leave their hart: to the cores of the package, or for other packages. -/
def State.launch (s : State) (out : List Msg) : State :=
  let away := out.filter (fun m => s.abroad m.dst)
  { s with
    flights := s.flights ++ (out.filter (fun m => !s.abroad m.dst)).map (fun m => ⟨coreOfHloc m.dst, m⟩)
    outMsgs := s.outMsgs.filter (fun m => !away.any m.same) ++ away }

/-- The messages of hart k to a destination that are unsent, or refused if `again`, leave in their order. -/
def State.depart (s : State) (k dest : Nat) (again : Bool) : State :=
  let go (e : SendEntry) : Bool := destOf e.msg.dst = dest && (e.state = .unsent || (again && e.isRefused))
  let out := (s.hart k).sendQ.filter go
  (s.modHart k (fun h => { h with
    sendQ := h.sendQ.map (fun e => if go e then { e with state := .flying e.isRefused } else e) })).launch (out.map (·.msg))

/-- Messages a hart kept back leave once none before them is refused. -/
def State.pump (s : State) (k dest : Nat) : State :=
  if (s.hart k).holdsRefused dest then s else s.depart k dest false

/-- A message leaves its hart (R263); one to another package to which no route remains completes at once (R366). -/
def State.post (s : State) (k : Nat) (m : Msg) : State :=
  let s := s.modHart k (fun h => { h with sendQ := h.sendQ ++ [⟨m, .unsent⟩] })
  if s.abroad m.dst && !s.routed then s.completeMsg (coreOf k) m 4 0xD4 else s.pump k (destOf m.dst)

/-! ### Sending -/

/-- The completion word is one an `sd` could write (R263 step 3). -/
def State.checkCpl (s : State) (va : Word) : Option Trap :=
  match s.check s.who .store (.scalar 8) 8 va with
  | .error t => some t
  | .ok pa =>
    let r := s.region s.who.core pa
    if r.isBlock && (s.regStore s.cur r 0).isNone then some ⟨0x07, va⟩ else none

/-- The fields of R262 are within their limits. -/
def State.msgOk (s : State) (l : List Word) (d : Word) : Bool :=
  (l.getD 0 0).toNat % 4 = 0 && (l.getD 1 0).toNat % 8 = 0 && l.getD 7 0 = 0 && bits d 19 13 = 0 &&
    (bits d 6 4).toNat ≤ 11 && s.domain.contains (bits d 12 6)

/-- `msg.send` and `msg.sendt` (R263); only the former names a register for the number. -/
def sendMsg (trapping : Bool) (rd rs1 rs2 : BitVec 5) (scope : BitVec 3) (s : State) : Res :=
  wellFormed (scopeOk scope) s (
    let a := s.x rs1
    let d := s.x rs2
    if a.toNat % 64 ≠ 0 then raise 0x04 a s
    else
      match s.loadWords a 8 with
      | .error t => takeTrap t s
      | .ok (l, s') =>
        if !s'.msgOk l d then raise 0x5C a s
        else
          let cpl := l.getD 1 0
          match (if cpl = 0 then none else s'.checkCpl cpl) with
          | some t => takeTrap t s
          | none =>
            if 8 ≤ s.me.sendQ.length then stall .sendQueue s
            else
              let dst := bits d 0 18
              let seq := look s.me.seqs (destOf dst) 0
              let m : Msg :=
                { handler := l.getD 0 0, cpl := cpl
                  payload := #v[l.getD 2 0, l.getD 3 0, l.getD 4 0, l.getD 5 0, l.getD 6 0]
                  dst := dst, tohart := bit d 18, gen := bits d 32 32
                  src := s.cur, srcPkg := s.pkg, srcGen := s.me.hgen, tr := s.trOf s.cur
                  ptid := (s.part (s.partOf s.cur)).ptid
                  seq := seq, scope := scope.toNat, trapping := trapping }
              let s' := s'.modMe (fun h => { h with seqs := put h.seqs (destOf dst) (seq + 1) })
              untilRoom s (retireX rd (seq.setWidth 64) (s'.post s.cur m)))

/-- `msg.send`. -/
def execMsgSend (rd : BitVec 5) (rs1 : BitVec 5) (rs2 : BitVec 5) (scope : BitVec 3) (s : State) : Res :=
  sendMsg false rd rs1 rs2 scope s
/-- `msg.sendt`. -/
def execMsgSendt (rs1 : BitVec 5) (rs2 : BitVec 5) (scope : BitVec 3) (s : State) : Res :=
  sendMsg true 0 rs1 rs2 scope s

/-! ### Arrival (R264, R265) -/

/-- The source records hold this message's source under its generation, with another number expected. -/
def Core.unexpected (c : Core) (m : Msg) : Bool :=
  c.srcs.any (fun r => r.src = m.src && r.srcPkg = m.srcPkg && r.gen = m.srcGen && r.expect ≠ m.seq)

/-- The message comes from a hart of this package. -/
def State.local (s : State) (m : Msg) : Bool := m.srcPkg = s.pkg

/-- An earlier message of the same source to the core has not been accepted: sent before this one in its send queue,
and, since messages keep their order, refused; or, of another package, refused and not accepted since. -/
def State.earlierHeld (s : State) (c : Nat) (m : Msg) : Bool :=
  if s.local m then
    ((s.hart m.src).sendQ.takeWhile (fun e => !(destOf e.msg.dst = destOf m.dst && e.msg.seq = m.seq))).any
      (fun e => destOf e.msg.dst = destOf m.dst && !e.settled)
  else (s.core c).heldSrcs.any (fun r => r.1 = m.src && r.2.1 = m.srcPkg && r.2.2 ≠ m.seq)

/-- The message is refused (R264, R357). -/
def State.refuses (s : State) (c : Nat) (m : Msg) : Bool :=
  let x := s.core c
  x.fenced || 32 ≤ x.msgBuf.length || s.earlierHeld c m || x.unexpected m

/-- This package tells the sender's package about its message. -/
def State.answerAbroad (s : State) (m : Msg) (a : MsgAnswer) : State :=
  { s with replies := s.replies ++ [⟨m.srcPkg, m.src, m.dst, m.seq, a⟩] }

/-- The state of a message's entry at its sender in this package. -/
def State.markEntry (s : State) (m : Msg) (t : SendState) : State :=
  s.modHart m.src (fun h => { h with sendQ := h.sendQ.map (fun e =>
    if destOf e.msg.dst = destOf m.dst && e.msg.seq = m.seq && !e.settled then { e with state := t } else e) })

/-- The sender of a refused message is told: its entry waits, or core c keeps the number of the first message its package
has still to bring again. -/
def State.markRefused (s : State) (c : Nat) (m : Msg) (uncounted : Bool) : State :=
  if s.local m then s.markEntry m (.refused uncounted)
  else
    (s.modCore c (fun x =>
      if x.heldSrcs.any (fun r => r.1 = m.src && r.2.1 = m.srcPkg) then x
      else { x with heldSrcs := x.heldSrcs ++ [(m.src, m.srcPkg, m.seq)] })).answerAbroad m (.refused uncounted)

/-- A refusal: the source is noted, or the refusal is uncounted when 64 are (R264). -/
def State.refuse (s : State) (c : Nat) (m : Msg) : State :=
  let x := s.core c
  let src := (m.src, m.srcPkg)
  if x.refused.contains src then s.markRefused c m false
  else if x.refused.length < 64 then (s.setCore c { x with refused := x.refused ++ [src] }).markRefused c m false
  else s.markRefused c m true

/-- The record's source has a refused message to core c that is not yet accepted (R265): it waits at its sender, or is on
its way again. -/
def State.sourceHeld (s : State) (c : Nat) (q : SrcRec) : Bool :=
  (q.srcPkg = s.pkg && (s.hart q.src).sendQ.any (fun e =>
    !s.abroad e.msg.dst && coreOfHloc e.msg.dst = c && (e.isRefused || e.state = .flying true))) ||
  (s.core c).heldSrcs.any (fun r => r.1 = q.src && r.2.1 = q.srcPkg)

/-- The source records after an acceptance, the newest first (R265). -/
def State.noteSource (s : State) (c : Nat) (m : Msg) : State :=
  let x := s.core c
  let r : SrcRec := { src := m.src, srcPkg := m.srcPkg, gen := m.srcGen, expect := m.seq + 1 }
  let rest := x.srcs.filter (fun q => !(q.src = m.src && q.srcPkg = m.srcPkg))
  let rest := if rest.length < 256 then rest
    else match rest.reverse.find? (fun q => !s.sourceHeld c q) with
      | some q => rest.erase q
      | none => rest
  s.setCore c { x with srcs := r :: rest }

/-- A message of a hart of this package is accepted: the entry of a `msg.send` leaves the send queue; that of a `msg.sendt`
stays for its outcome; messages kept back behind it leave. -/
def State.acceptEntry (s : State) (m : Msg) : State :=
  let s := s.markEntry m .accepted
  let s := if m.trapping then s
    else s.modHart m.src (fun h => { h with sendQ := h.sendQ.filter (fun e =>
      !(destOf e.msg.dst = destOf m.dst && e.msg.seq = m.seq && e.state = .accepted)) })
  s.pump m.src (destOf m.dst)

/-- An acceptance by core c. -/
def State.accept (s : State) (c : Nat) (m : Msg) : State :=
  let s := s.noteSource c m
  let s := s.modCore c (fun x => { x with
    msgBuf := x.msgBuf ++ [m]
    heldSrcs := x.heldSrcs.filter (fun r => !(r.1 = m.src && r.2.1 = m.srcPkg)) })
  if s.local m then s.acceptEntry m else s.answerAbroad m .accepted

/-- A flight with none of the same source and core before it: the fabric keeps their order (R205). -/
def State.firstFlight (s : State) (n : Nat) : Option Flight :=
  match s.flights[n]? with
  | none => none
  | some f =>
    if (s.flights.take n).any (fun g => g.core = f.core && g.msg.src = f.msg.src && g.msg.srcPkg = f.msg.srcPkg)
    then none else some f

/-- MESSAGE_ARRIVAL (R264, R265, R359): flight n reaches its core. -/
def execMessageArrival (n : Nat) (s : State) : Res :=
  match s.firstFlight n with
  | none => .next s
  | some f =>
    let s0 := s
    let s := { s with flights := s.flights.eraseIdx n }
    if (s.core f.core).absent then
      let t := s.completeMsg f.core f.msg 4 0xD2
      .next (s0.untilWindowRoom (if s.local f.msg then t.pump f.msg.src (destOf f.msg.dst) else t))
    else if s.refuses f.core f.msg then .next (s.refuse f.core f.msg)
    else .next (s.accept f.core f.msg)

/-- A buffer entry frees: the oldest noted source is told (R264). -/
def State.tellRefused (s : State) (c : Nat) : State :=
  let x := s.core c
  match x.refused with
  | [] => s
  | (k, p) :: rest =>
    let s := s.setCore c { x with refused := rest }
    if p = s.pkg then { s with comets := s.comets ++ [.free c k] }
    else { s with replies := s.replies ++ [⟨p, k, hlocOf s.pkg (ctxKey c 0), 0, .notice⟩] }

/-! ### Running (R266) -/

/-- The hart on which a core's message hart begins a message. -/
def Hart.beginMsg (h : Hart) (m : Msg) (hloc : BitVec 18) : Hart :=
  let arg (i : Nat) : Word := m.payload[i]?.getD 0
  { h with
    x := Vector.ofFn (fun i : Fin 32 =>
      if 10 ≤ i.val && i.val ≤ 14 then arg (i.val - 10)
      else if i.val = 15 then hloc.setWidth 64
      else if i.val = 16 then m.seq.setWidth 64
      else if i.val = 17 then (if m.tohart then (bits m.dst 0 3).setWidth 64 else 8)
      else 0)
    mode := .u, pc := m.handler, resv := none, park := none, stall := none }

/-- The sender's `hloc`; a message hart's has hart field 0. -/
def State.senderHloc (_s : State) (m : Msg) : BitVec 18 :=
  hlocOf m.srcPkg (if isCtx m.src then m.src else ctxKey (coreOf m.src) 0)

/-- The sender's partition is the core's (R266); Lodestar and Orrery cores have none. A partition of another package is the
core's when both are in RUN, share a nonzero tenant and have link keys for it (R347). -/
def State.samePart (s : State) (c : Nat) (m : Msg) : Bool :=
  match s.ownerOfCluster (clusterOfCore c) with
  | none => false
  | some q =>
    if s.local m then !isMach m.src && m.tr.part = q
    else m.ptid ≠ 0 && (s.part q).pstate = 2 && (s.part q).ptid = m.ptid &&
      s.remotes.any (fun r => r.pkg = m.srcPkg && r.ptid = m.ptid && r.run && r.keyed)

/-- MESSAGE_RUN (R266): the idle message hart takes the oldest buffer entry. -/
def execMessageRun (core : Nat) (s : State) : Res :=
  let x := s.core core
  match x.msgBuf with
  | [] => .next s
  | m :: rest =>
    if x.running.isSome || x.fenced || x.absent then .next s
    else
      let t := (s.setCore core { x with msgBuf := rest }).tellRefused core
      if m.tohart && m.gen ≠ (s.hart (hartOfHloc m.dst)).hgen then
        .next (s.untilWindowRoom ((t.modCore core (fun x => { x with stalecnt := x.stalecnt + 1 })).completeMsg core m 2 0))
      else if !s.samePart core m then .next (s.untilWindowRoom (t.completeMsg core m 3 0))
      else
        .next ((t.modCore core (fun x => { x with running := some ⟨m, 0⟩ })).modHart (msgKey core)
          (fun h => h.beginMsg m (s.senderHloc m)))

/-- MESSAGE_LIMIT (R266): 65,536 instructions have retired without `msg.done`. -/
def execMessageLimit (core : Nat) (s : State) : Res :=
  match (s.core core).running with
  | some r => if 65536 ≤ r.count then .next (s.endMessageOrWait core 5 0) else .next s
  | none => .next s

/-- `msg.done` (R266). -/
def execMsgDone (s : State) : Res :=
  onMessage s (untilRoom s (
    match retire s with
    | .next t => .next (t.endMessage (coreOf s.cur) 1 0)
    | r => r))

/-! ### Comets (R268) -/

/-- Who sent a comet and where it goes, as far as their order tells. -/
def Comet.from_ : Comet → Nat × Nat
  | .free c _ => (1, c)
  | .pacing _ k => (2, k)
  | .notify _ a _ => (3, a)
  | .doorbell _ _ k => (2, k)
def Comet.to_ : Comet → Nat × Nat
  | .free _ k => (1, coreOf k)
  | .pacing a _ => (2, a)
  | .notify h _ _ => (3, h.toNat)
  | .doorbell g _ _ => (4, g)

/-- Comet n, if none of its source to its destination is before it, and no doorbell of its source that waits for its
Lodestar's queue (R268, R329). -/
def State.firstComet (s : State) (n : Nat) : Option Comet :=
  match s.comets[n]? with
  | none => none
  | some c =>
    if (s.comets.take n).any (fun d => d.from_ = c.from_ && (d.to_ = c.to_ || (match d with
        | .doorbell g _ _ => !s.eventRoom g
        | _ => false)))
    then none else some c

/-- The package without comet n. -/
def State.dropComet (s : State) (n : Nat) : State := { s with comets := s.comets.eraseIdx n }

/-- CONTEXT_FREE_NOTICE (R264): the sender sends again to the core that signals. -/
def execContextFreeNotice (n : Nat) (s : State) : Res :=
  match s.firstComet n with
  | some (.free c k) =>
    let dest := destOf (hlocOf s.pkg (ctxKey c 0))
    let s := s.dropComet n
    .next (if (s.hart k).holdsRefused dest then s.depart k dest true else s)
  | _ => .next s

/-- UNCOUNTED_RESEND (R264): 4,096 cycles after an uncounted refusal the sender sends again to the core whose `hloc`[17:3]
is `dest`. -/
def execUncountedResend (hart : Nat) (dest : Nat) (s : State) : Res :=
  if (s.hart hart).sendQ.any (fun e => destOf e.msg.dst = dest && e.state = .refused true)
  then .next (s.depart hart dest true) else .next s

/-- NOTIFY (R268, R324, R248): the notify interrupt is raised in the hart or in its save area; a comet to a context
without a hart, or to none, becomes an event of Lodestar, once there is room for it (R329). -/
def execNotify (n : Nat) (s : State) : Res :=
  match s.firstComet n with
  | some (.notify h a v) =>
    match s.undeliverable h a with
    | some g =>
      if !s.eventRoom g then .next s
      else .next ((s.dropComet n).event g
        { kind := 5, code := 3, hart := bits h 0 3, core := (bits h 3 3).setWidth 4, val := v.setWidth 64 })
    | none =>
      let k := hartOfHloc h
      match (s.hart k).areaNow with
      | none => .next ((s.dropComet n).modHart k (fun t => { t with sc := { t.sc with notify := true } }))
      | some area =>
        let p := area.toNat + 0x160
        .next (s.untilWindowRoom ((s.dropComet n).writePa device p (Memory.read s.mem p 8 ||| 1) 8))
  | _ => .next s

/-- `pcnt` of an agent advances. -/
def State.advancePcnt (s : State) (a : Nat) : State := s.modAgent a (fun g => { g with pcnt := g.pcnt + 1 })

/-- HOST_PACING (R268, R259): counts at a blend unit that takes its pace from comets. -/
def execHostPacing (n : Nat) (s : State) : Res :=
  match s.firstComet n with
  | some (.pacing a _) =>
    let s := s.dropComet n
    .next (if agentKind a = 2 && (s.agent a).pctl then s.advancePcnt a else s)
  | _ => .next s

/-- LODESTAR_DOORBELL (R268, R329): an event of kind 6, once there is room for it. -/
def execLodestarDoorbell (n : Nat) (s : State) : Res :=
  match s.firstComet n with
  | some (.doorbell g v _) =>
    if !s.eventRoom g then .next s
    else .next ((s.dropComet n).event g { kind := 6, val := v.setWidth 64 })
  | _ => .next s

/-- PRESENTATION_REFERENCE_EDGE (R259): every blend unit of the partition that takes its pace from the reference input
counts. -/
def execPresentationReferenceEdge (part : Nat) (s : State) : Res :=
  .next ((upto 24).foldl (fun s a =>
    if agentKind a = 2 && s.ownerOfAgent a = some part && !(s.agent a).pctl then s.advancePcnt a else s) s)

end Sys2Proof.Machine
end

