-- ==== Sys2Proof/Machine/HostPort.lean ====
section
/-!
DEFINITION. Machine/HostPort.lean: what reaches the package from outside: host requests (R204, R208, R350), kicks (R269,
R306), the flips of a page's ownership (R224 to R227), and the operations of other packages (R205, R346, R347).
-/

namespace Sys2Proof.Machine

/-- The host, or a party of another package, as a party of an access: only the system scope reaches it (R195). -/
def whoOutside : Who := { key := none, host := true }

/-- The host port is one that a host uses: the second only in the two-host configuration (R12). -/
def State.hostPort (s : State) (port : Nat) : Bool := port = 0 || (port = 1 && s.twoHosts)

/-- The host on a port reaches a local address: device memory, the command window, its own memory behind the aperture. -/
def State.hostReaches (s : State) (port addr : Nat) : Bool :=
  match s.region none (s.pkg.toNat * 2 ^ 48 + addr) with
  | .tier | .window => addr < 2 ^ 48
  | .aperture p => p = port && addr < 2 ^ 48
  | _ => false

/-- R350: the request is served. -/
def State.hostServed (s : State) (port : Nat) (strm : IdeStream) (addr : Nat) : Bool :=
  match s.rangeOwner addr with
  | none => true
  | some q => (s.part q).pstate = 2 && (bits (s.part q).phab 0 1).toNat = port && strm.tdi = some q && strm.tee

/-- A store by the host of the low n bytes of v (R204, R208, R209): it changes the device value, makes no line pending, and
is watched as a store of its port (R306). -/
def State.hostWrite (s : State) (port pa v n : Nat) : State :=
  let s := { s with
    mem := Memory.write s.mem pa v n
    badTags := s.badTags.filter (· ≠ localOf pa / 64) }
  ((s.breakResv whoOutside [pa / 64]).seeBitmap pa n).seeKick [port] pa n

/-- The doubleword the host reads (R208): of a pending line the value last published. -/
def State.hostRead (s : State) (pa : Nat) : Word := bits (s.hostLine (pa / 64)) (8 * (pa % 64)) 64

/-- A doubleword of a line of a partition's range in error, read from outside: the partition enters ERROR (R348). -/
def State.outsideError (s : State) (pa : Nat) : Option State :=
  let l := localOf pa / 64
  let cause : BitVec 8 := if s.badTags.contains l then 0xB0 else if s.poisoned.contains l then 0xD5 else 0
  if cause = 0 || s.region none pa ≠ .tier then none
  else
    match s.rangeOwner (localOf pa) with
    | some q => some (s.lineError q (s.firstCluster q) cause (BitVec.ofNat 64 pa))
    | none => some s

/-- The answer to a read from outside. -/
def State.answerOut (s : State) (port addr : Nat) (v : Word) : State :=
  { s with hostOut := s.hostOut ++ [⟨port, addr, v⟩] }

/-- HOST_MEMORY_REQUEST (R350): a doubleword read or written by the host on a port, over an IDE stream or none, with the TEE
attribute or without. -/
def execHostMemoryRequest (port : Nat) (strm : IdeStream) (wr : Bool) (addr : Nat) (v : BitVec 64) (s : State) : Res :=
  let pa := s.pkg.toNat * 2 ^ 48 + addr
  if !s.hostPort port || addr % 8 ≠ 0 || !s.hostReaches port addr then .next s
  else if !s.hostServed port strm addr then
    .next (if wr then s else s.answerOut port addr (BitVec.allOnes 64))
  else if wr then .next (s.hostWrite port pa v.toNat 8)
  else
    match s.outsideError pa with
    | some t => .next (s.ifRoom (t.bump.answerOut port addr (Config.badRead s.free)))
    | none => .next (s.answerOut port addr (s.hostRead pa))

/-- HOST_KICK (R269, R306): the host on a port stores the `kick` word of a page of the command window. -/
def execHostKick (port : Nat) (addr : Nat) (v : BitVec 64) (s : State) : Res :=
  if s.hostPort port && 0x2FFC000000 ≤ addr && addr < 0x3000000000 && addr % 4096 = 0 then
    .next (s.hostWrite port (s.pkg.toNat * 2 ^ 48 + addr) v.toNat 8)
  else .next s

/-! ### Ownership (R224 to R227) -/

/-- A local address lies in an enabled window (R206). -/
def State.inWindow (s : State) (a : Nat) : Bool := s.parts.toList.any (fun p => p.wins.toList.any (fun v => v.holds a))

/-- A page (local address / 4096) can pass to the host: tier memory outside every enabled window, and not of a partition
whose lines the host is refused. -/
def State.canFlip (s : State) (page : Nat) : Bool :=
  let a := 4096 * page
  a < 2 ^ 48 && s.inTier a && !s.inWindow a &&
    (match s.rangeOwner a with
      | none => true
      | some q => (s.part q).pstate = 2)

/-- OWNERSHIP_FLIP_TO_HOST (R225): every earlier access of the model is complete and in memory; the reservations on the
page are cleared. -/
def execOwnershipFlipToHost (page : Nat) (s : State) : Res :=
  if !s.canFlip page then .next s
  else
    let line := (s.pkg.toNat * 2 ^ 48 + 4096 * page) / 64
    .next { s with
      hostPages := insertNat s.hostPages page
      harts := s.harts.map (fun e =>
        match e.2.resv with
        | some r => if line ≤ r.line && r.line < line + 64 then (e.1, { e.2 with resv := none }) else e
        | none => e) }

/-- OWNERSHIP_FLIP_TO_DEVICE (R224, R227): a page of an enabled window does not flip. -/
def execOwnershipFlipToDevice (page : Nat) (s : State) : Res :=
  .next (if s.inWindow (4096 * page) then s else { s with hostPages := s.hostPages.filter (· ≠ page) })

/-! ### Other packages (R205) -/

/-- The local partition an operation of a party of another package acts for (R346, R347): the tenant's partition there and
one here share an identifier, both are in RUN and link keys are installed. -/
def State.homePart (s : State) (r : RemotePart) (l : Nat) : Option Nat :=
  if r.run && r.keyed && r.ptid ≠ 0 then
    (upto 8).find? (fun q => (s.part q).pstate = 2 && (s.part q).ptid = r.ptid && s.inRange q l)
  else none

/-- What an AMO writes (R210). -/
def amoResult : AmoOp → Nat → Word → Word → Word
  | .swap => amoSwapF | .add => amoAddF | .xor => amoXorF | .and => amoAndF | .or => amoOrF
  | .min => amoMinF | .max => amoMaxF | .minu => amoMinuF | .maxu => amoMaxuF

/-- A load, or an update of n bytes, of a party of another package (R189, R346): nothing where the home package's checks
fail. `none` waits for window room (R208). -/
def State.remoteAccess (s : State) (src : Nat) (r : RemotePart) (addr n : Nat) (f : Option (Word → Word))
    (answers : Bool) : Option State :=
  let pa := s.pkg.toNat * 2 ^ 48 + addr
  if addr % n ≠ 0 || 2 ^ 48 ≤ addr || s.region none pa ≠ .tier || (s.homePart r addr).isNone || s.hostOwned .tier pa
  then some s
  else
    let old := BitVec.ofNat 64 (s.readPa none pa n)
    match (if answers then s.outsideError pa else none) with
    | some t => some t
    | none =>
      let t := match f with
        | some f => s.writePa whoOutside pa (f old).toNat n
        | none => s
      if t.overfull then none else some (if answers then t.answerOut (2 + src) addr old else t)

/-- A message of another package reaches the package (R262, R263): it goes to the core it names. -/
def State.remoteMessage (s : State) (r : RemotePart) (src : BitVec 18) (gen : W32) (ptid : BitVec 16) (rec : List Word)
    (dest : Word) (seq : W32) (scope : BitVec 3) (trapping : Bool) : State :=
  if bits src 12 6 ≠ r.pkg || s.abroad (bits dest 0 18) || !s.msgOk rec dest then s
  else
    let at_ (i : Nat) : Word := rec.getD i 0
    let m : Msg :=
      { handler := at_ 0, cpl := at_ 1, payload := #v[at_ 2, at_ 3, at_ 4, at_ 5, at_ 6], dst := bits dest 0 18
        tohart := bit dest 18, gen := bits dest 32 32, src := hartOfHloc src, srcPkg := r.pkg, srcGen := gen
        tr := {}, ptid := ptid, seq := seq, scope := scope.toNat, trapping := trapping }
    { s with flights := s.flights ++ [⟨coreOfHloc m.dst, m⟩] }

/-- What another package tells about a message of this one (R264, R266, R267). `none` waits for window room (R208). -/
def State.remoteAnswer (s : State) (r : RemotePart) (hart : Nat) (dst : BitVec 18) (seq : W32) (a : MsgAnswer) : Option State :=
  if bits dst 12 6 ≠ r.pkg then some s
  else
    match a with
    | .notice => some (if (s.hart hart).holdsRefused (destOf dst) then s.depart hart (destOf dst) true else s)
    | _ =>
      match s.outMsgs.find? (fun m => m.src = hart && m.dst = dst && m.seq = seq) with
      | none => some s
      | some m =>
        match a with
        | .accepted => some (s.acceptEntry m)
        | .refused u => some (s.markEntry m (.refused u))
        | .ended status cause =>
          let t := ({ s with outMsgs := s.outMsgs.filter (fun n => !n.same m) }).completeMsg (coreOf hart) m status cause
          if t.overfull then none else some t
        | .notice => some s

/-- FABRIC_REMOTE_OPERATION (R205): an operation of party `src`, of the tenant that entry `src` mod 4096 of `remotes`
describes, is applied when its number is the next. -/
def execFabricRemoteOperation (src : Nat) (seq : BitVec 32) (op : FabricOp) (addr : Nat) (v : BitVec 64) (s : State) : Res :=
  match s.remotes[src % 4096]? with
  | none => .next s
  | some r =>
    if look s.fabric src 0 ≠ seq || !s.routed then .next s
    else
      let t := match op with
        | .load n => s.remoteAccess src r addr n none true
        | .store n => s.remoteAccess src r addr n (some (fun _ => v)) false
        | .amo op n => s.remoteAccess src r addr n (some (fun old => amoResult op (8 * n) old v)) true
        | .message h gen ptid rec dest num scope trapping => some (s.remoteMessage r h gen ptid rec dest num scope trapping)
        | .answer hart dst num a => s.remoteAnswer r hart dst num a
      match t with
      | none => .next s
      | some t => .next (s.ifRoom { t with fabric := put t.fabric src (seq + 1) })

end Sys2Proof.Machine
end

