-- ==== Sys2Proof/Machine/Service.lean ====
section
/-!
DEFINITION. Machine/Service.lean: service calls (R360), the journal and its notices (R361, R362, R365), the watchdog of a
service and its restart (R363, R364).
-/

namespace Sys2Proof.Machine

/-! ### The journal (R362) -/

/-- Lodestar, as it reaches the journal of partition q in the partition's space (R339). -/
def State.whoLode (s : State) (q : Nat) : Who := s.whoAgent q [clusterTlb (clusterOf (s.part q).svcHart)]

/-- Where entry n of partition q lies. -/
def State.jAddr (s : State) (q n : Nat) : Word := (s.part q).journal + BitVec.ofNat 64 (64 * (n % 256))

/-- The eight doublewords of entry n, if the journal can be read. -/
def State.jRead (s : State) (q n : Nat) : Option (List Word) :=
  match s.agentReads (s.whoLode q) (s.jAddr q n) 8 with
  | .ok l => some l
  | .error _ => none

/-- The `state` of entry n. -/
def State.jState (s : State) (q n : Nat) : Option Nat := (s.jRead q n).map (fun l => (l.getD 0 0).toNat % 256)

/-- Entry n is given another `state`. -/
def State.jSet (s : State) (q n v : Nat) : Option State :=
  match s.agentWrite (s.whoLode q) (s.jAddr q n) v 1 with
  | .ok s => some s
  | .error _ => none

/-- The indices of the open entries, the oldest first: those accepted or applied. -/
def State.openEntries (s : State) (q : Nat) : List Nat :=
  let n := (s.part q).jidx
  if !(s.part q).attached then []
  else ((upto 256).map (fun i => n - 256 + i)).filter (fun i =>
    i < n && (s.jState q i = some 1 || s.jState q i = some 2))

/-- The slot of the next entry is closed. -/
def State.slotFree (s : State) (q : Nat) : Bool :=
  match s.jState q (s.part q).jidx with
  | some v => v ≠ 1 && v ≠ 2
  | none => false

/-- The next entry is accepted (R362): bytes [63:8] are written, then doubleword 0 with `state` 1. -/
def State.jAccept (s : State) (q : Nat) (flags code : BitVec 16) (caller : Word) (arg : List Word) : Option State :=
  let n := (s.part q).jidx
  let w := s.whoLode q
  let a := s.jAddr q n
  let d0 : Word := place 64 0 (1 : BitVec 8) ||| place 64 8 (bits flags 0 8) ||| place 64 16 code |||
    place 64 32 (BitVec.ofNat 32 n)
  match s.agentWrites w (a + 8) ([caller] ++ arg ++ [0, 0]) with
  | .error _ => none
  | .ok s =>
    match s.agentWrite w a d0.toNat 8 with
    | .error _ => none
    | .ok s => some (s.modPart q (fun p => { p with jidx := n + 1 }))

/-- The request of a saved caller (R360): its code with bit 16, and its arguments. -/
def State.callCode (s : State) (area : Nat) : Word := s.areaWord area (8 * 17)
def State.callArg (s : State) (area i : Nat) : Word := s.areaWord area (8 * (10 + i))

/-- The doubleword that names a context in a journal entry: `hloc` and `hgen`. -/
def State.callerWord (s : State) (k : Nat) : Word :=
  place 64 0 (hlocOf s.pkg k) ||| place 64 32 (s.hart k).hgen

/-- The first caller without an entry is given one. -/
def setEntry (n : Nat) : List Caller → List Caller
  | [] => []
  | c :: l => if c.entry.isNone then { c with entry := some n } :: l else c :: setEntry n l

/-- Enters what waits into the journal while a slot is free: the notices, then the callers (R362, R365). -/
def State.fillJournal (s : State) (q : Nat) : Nat → State
  | 0 => s
  | fuel + 1 =>
    let p := s.part q
    if !p.attached || !s.slotFree q then s
    else
      match p.notices with
      | x :: rest =>
        match s.jAccept q 2 x.kind 0 x.arg.toList with
        | none => s
        | some s => (s.modPart q (fun p => { p with notices := rest })).fillJournal q fuel
      | [] =>
        match p.callers.find? (fun c => c.entry.isNone) with
        | none => s
        | some c =>
          let v := s.callCode c.area
          match s.jAccept q (ofBool 16 (bit v 16)) (bits v 0 16) (s.callerWord c.ctx)
              ((upto 4).map (s.callArg c.area)) with
          | none => s
          | some s => (s.modPart q (fun x => { x with callers := setEntry p.jidx x.callers })).fillJournal q fuel

/-- Everything that waits for the journal is entered as far as there is room. -/
def State.journal (s : State) (q : Nat) : State :=
  s.fillJournal q ((s.part q).notices.length + (s.part q).callers.length)

/-- A notice to partition q (R365). -/
def State.notice (s : State) (q : Nat) (kind : BitVec 16) (a0 a1 a2 a3 : Word) : State :=
  (s.modPart q (fun p => { p with notices := p.notices ++ [⟨kind, #v[a0, a1, a2, a3]⟩] })).journal q

/-- A notice to the partition that owns cluster g. -/
def State.clusterNotice (s : State) (g : Nat) (kind : BitVec 16) (a0 a1 a2 a3 : Word) : State :=
  match s.ownerOfCluster g with
  | some q => s.notice q kind a0 a1 a2 a3
  | none => s

/-! ### Answering a call (R360) -/

/-- Where a caller saved in `area` from context k is restored: its own context, or another free one of its core, which is
not fenced. -/
def State.backTo (s : State) (k area : Nat) : Option Nat :=
  let own := s.hart k
  if (s.core (coreOf k)).fenced then none
  else if own.ctxState = 0 && own.savedAt = some (BitVec.ofNat 64 area) then some k
  else ((upto 8).map (fun h => ctxKey (coreOf k) h)).find? (fun j => (s.hart j).ctxState = 0)

/-- The reply in the save area: status in `a0`, value in `a1`, `pc` past the `ecall`. -/
def State.putReply (s : State) (area : Nat) (status value : Word) : State :=
  let pc := s.areaWord area 0
  ((s.storePa device (area + 8 * 10) status.toNat 8).storePa device (area + 8 * 11) value.toNat 8).storePa device
    area (pc + 4).toNat 8

/-- Lodestar answers a caller and restores it; `none` while its core has no free context. -/
def State.answer (s : State) (k area : Nat) (status value : Word) : Option State :=
  (s.backTo k area).map (fun j =>
    (s.putReply area status value).modHart j (fun h => { h with
      ctxarea := BitVec.ofNat 64 area, ctxpart := bits (s.areaWord area 0x100) 9 3, ctxState := 3
      call := none }))

/-- The value in `a1` where R360 names none. -/
def State.freeValue (s : State) : Word := Config.svcValue s.free

/-- Answers a call whose value is left open, and takes the call from its context. -/
def State.reply (s : State) (k area : Nat) (status : Word) : Res :=
  match State.answer (s.modHart k (fun h => { h with call := none })).bump k area status s.freeValue with
  | some t => .next t
  | none => .next s

/-- The service call that context k waits in, once its event has entered Lodestar's queue: its partition and area. -/
def State.callOf (s : State) (k : Nat) : Option (Nat × Nat) :=
  let h := s.hart k
  if isCtx k && h.ctxState = 0 then
    h.call.map (fun a => ((bits (s.areaWord a.toNat 0x100) 9 3).toNat, a.toNat))
  else none

/-- The service hart is resident. -/
def State.svcResident (s : State) (q : Nat) : Bool :=
  let p := s.part q
  let h := s.hart p.svcHart
  p.attached && !p.svcLost && h.ctxState = 1 && h.hgen = p.svcGen

/-- Context k is the service hart. -/
def State.isService (s : State) (q k : Nat) : Bool :=
  let p := s.part q
  p.attached && !p.svcLost && p.svcHart = k && (s.hart k).hgen = p.svcGen

/-- The bytes of a save area by offset. -/
def State.areaImage (s : State) (a : Nat) : List Host.Cell :=
  (s.mem.filter (fun c => a ≤ c.1 && c.1 < a + areaSize)).map (fun c => (c.1 - a, c.2))

/-- The journal address an SVC_ATTACH gives, as `svcj` can hold it: the canonical address of bits [47:14] (R361). -/
def journalAt (v : Word) : Word := ((bits v 14 34).signExtend 50).setWidth 64 <<< 14

/-- SVC_ATTACH (R360, code 1). -/
def execSvcAttach (hart : Nat) (s : State) : Res :=
  untilRoomStep s (match s.callOf hart with
  | none => .next s
  | some (q, a) =>
    let j := journalAt (s.callArg a 0)
    let lim := bits (s.callArg a 2) 0 8
    if bits (s.callCode a) 0 16 ≠ 1 then .next s
    else if lim = 0 || (s.svcResident q && !s.isService q hart) then s.reply hart a 1
    else
      match s.backTo hart a with
      | none => .next s
      | some b =>
        let image := Memory.write (s.areaImage a) 0 (s.callArg a 1).toNat 8
        -- a caller restored in a context that does not remember it gets that context's next generation (R330)
        let gen := (s.hart b).hgen + (if (s.hart b).savedAt = some (BitVec.ofNat 64 a) then 0 else 1)
        let t := s.modPart q (fun p => { p with
          attached := true, journal := j, svcHart := b, svcGen := gen, wdcnt := 0, wdlimit := lim
          image := image, svcLost := false })
        State.reply (t.journal q) hart a 0)

/-! ### Closing an entry (R362) -/

/-- The caller's request is entry n, by the `idx` a journal entry holds: n modulo 2^32 (R362). -/
def Caller.asked (c : Caller) (n : Nat) : Bool :=
  match c.entry with
  | some m => m % 2 ^ 32 = n % 2 ^ 32
  | none => false

/-- Entry n is replied: its caller, if it has one, gets the reply and is restored. -/
def State.closeEntry (s : State) (q n : Nat) : Option State :=
  match s.jRead q n with
  | none => none
  | some l =>
    match s.jSet q n 3 with
    | none => none
    | some s =>
      match (s.part q).callers.find? (·.asked n) with
      | none => some s
      | some c =>
        (s.answer c.ctx c.area (l.getD 6 0) (l.getD 7 0)).map (fun s =>
          s.modPart q (fun p => { p with callers := p.callers.filter (fun d => !d.asked n) }))

/-- What SVC_REPLY with index `v` does to the journal: its status, or nothing while it must wait. -/
def State.svcReplyTo (s : State) (q : Nat) (v : Word) : Option (Word × State) :=
  let s := s.modPart q (fun p => { p with wdcnt := 0 })
  let n := v.toNat
  match s.jRead q n with
  | none => some (1, s)
  | some l =>
    if (l.getD 0 0).toNat % 256 ≠ 2 || (l.getD 0 0).toNat / 2 ^ 32 ≠ n % 2 ^ 32 then some (1, s)
    else (s.closeEntry q n).map (fun s => (0, s.journal q))

/-- SVC_REPLY (R362). -/
def execSvcReply (hart : Nat) (s : State) : Res :=
  untilRoomStep s (match s.callOf hart with
  | none => .next s
  | some (q, a) =>
    if bits (s.callCode a) 0 16 ≠ 2 then .next s
    else if !s.isService q hart then s.reply hart a 1
    else
      match s.svcReplyTo q (s.callArg a 0) with
      | none => .next s
      | some (st, t) => if (t.backTo hart a).isNone then .next s else t.reply hart a st)

/-- Writes the words of a QCB through the cache of complex d, as `fw.qcbst` does. -/
def State.writeQcb (s : State) (d id : Nat) (l : List Word) : State :=
  (numbered l).foldl (fun s e => s.qcbStore d id e.1 e.2) s

/-- QCB_WRITE (R360, code 3): Orrery's firmware on the home complex that the image names writes the QCB. -/
def execQcbWrite (hart : Nat) (s : State) : Res :=
  untilRoomStep s (match s.callOf hart with
  | none => .next s
  | some (q, a) =>
    let id := (s.callArg a 0).toNat
    let va := s.callArg a 1
    if bits (s.callCode a) 0 16 ≠ 3 then .next s
    else
      match s.agentReads (s.whoFor q) va 16 with
      | .error t => (s.lineError q (clusterOf hart) t.cause t.tval).reply hart a 1
      | .ok l =>
        let d := (bits (l.getD 0 0) 38 1).toNat
        if (s.complex d).qcbs ≤ id || (bits (l.getD 0 0) 40 3).toNat ≠ q then s.reply hart a 1
        else
          let k := orrKey d 0
          match s.getQcb k id with
          | .error f =>
            match State.reply s hart a 1 with
            | .next t => fwStep t (.error f)
            | r => r
          | .ok (old, t) =>
            if old.qstate = 0 || old.part = q then State.reply (t.writeQcb d id l) hart a 0
            else State.reply t hart a 1)

/-- SVC_FORWARDED (R360, R362): a request of code 256 or above is journaled for the service hart; a code that no handler
has is a bad request. -/
def execSvcForwarded (hart : Nat) (s : State) : Res :=
  untilRoomStep s (match s.callOf hart with
  | none => .next s
  | some (q, a) =>
    let code := (bits (s.callCode a) 0 16).toNat
    if 1 ≤ code && code ≤ 3 then .next s
    else if code < 256 then s.reply hart a 1
    else if !(s.part q).attached then s.reply hart a 3
    else
      let s := s.modHart hart (fun h => { h with call := none })
      .next ((s.modPart q (fun p => { p with callers := p.callers ++ [{ ctx := hart, area := a }] })).journal q))

/-! ### The watchdog (R363) -/

/-- Lodestar stops the service hart, so far as it is still there: `none` while it must wait (R327, R364 step 1), also for
what its retirement waits for (R263, R266). -/
def State.stopService (s : State) (k : Nat) : Option State :=
  let h := s.hart k
  if h.ctxState = 1 then (if s.hasQueued k || !h.savable then none else some (s.saveHart k 0xF2))
  else if h.ctxState = 2 then
    match h.saveReq with
    | some (.save why) => if s.hasQueued k then none else some (s.saveHart k why)
    | _ => some s
  else some s

/-- A SVC_REPLY that the service hart issued before it stopped is completed (R364 step 1). -/
def State.lastReply (s : State) (q k : Nat) : Option State :=
  match s.callOf k with
  | none => some s
  | some (_, a) =>
    if bits (s.callCode a) 0 16 = 2 then (s.svcReplyTo q (s.callArg a 0)).map (·.2) else some s

/-- Step 3 of R364 for one open entry. -/
def State.settleEntry (s : State) (q n : Nat) : Option State :=
  match s.jRead q n with
  | none => some s
  | some l =>
    let d := l.getD 0 0
    if d.toNat % 256 = 2 then s.closeEntry q n
    else if bit d 8 || bit d 9 then some s
    else
      match s.jSet q n 4 with
      | none => none
      | some s =>
        match (s.part q).callers.find? (·.asked n) with
        | none => some s
        | some c => (s.answer c.ctx c.area 2 0).map (fun s =>
            s.modPart q (fun p => { p with callers := p.callers.filter (fun d => !d.asked n) }))

/-- Folds a step that may have to wait. -/
def foldWait {α : Type} (f : State → α → Option State) (s : State) (l : List α) : Option State :=
  l.foldl (fun r a =>
    match r with
    | none => none
    | some s => f s a) (some s)

/-- A free scalar context of partition q: the given one, or another that remembers no saved hart. -/
def State.freeScalar (s : State) (q k : Nat) : Option Nat :=
  let ok (j : Nat) : Bool := (s.hart j).ctxState = 0 && s.lanes j = 0 && (s.hart j).savedAt.isNone &&
    !(s.core (coreOf j)).fenced && !(s.core (coreOf j)).absent && s.ownerOfCluster (clusterOf j) = some q
  if ok k then some k else (upto 3072).find? ok

/-- The state with a save area filled from an image. -/
def State.putImage (s : State) (a : Nat) (image : List Host.Cell) : State :=
  let m := s.mem.filter (fun c => c.1 < a || a + areaSize ≤ c.1)
  s.stored device a areaSize (image.foldl (fun m c => Memory.set m (a + c.1) c.2) m)

/-- Step 4 of R364: the restart image is restored in context j from the area the service hart had. -/
def State.reviveService (s : State) (q j : Nat) (a : Word) : State :=
  let n := match (s.openEntries q).find? (fun n => s.jState q n = some 1) with
    | some n => n
    | none => (s.part q).jidx
  let t := (s.putImage a.toNat (s.part q).image).storePa device (a.toNat + 8 * 10) n 8
  let t := t.modHart j (fun h => { h with ctxarea := a, ctxpart := BitVec.ofNat 3 q, ctxState := 3, savedAt := none })
  let t := t.modPart q (fun p => { p with
    svcrst := p.svcrst + 1, wdcnt := 0, svcLost := false, svcHart := j, svcGen := (s.hart j).hgen + 1 })
  t.notice q 5 (t.part q).svcrst (BitVec.ofNat 64 n) 0 0

/-- A service is restarted (R364); `none` while a step of it must wait. -/
def State.restartService (s : State) (q : Nat) : Option State :=
  let k := (s.part q).svcHart
  let a := (s.hart k).ctxarea
  let lost := (s.part q).svcLost || (s.hart k).hgen ≠ (s.part q).svcGen
  let stopped : Option State :=
    if lost then some s
    else
      match s.stopService k with
      | none => none
      | some s =>
        match s.lastReply q k with
        | none => none
        | some s => if s.maySwitch k then some ((s.retireCtx k).ctxEvent k 9 0 0) else none
  match stopped with
  | none => none
  | some s =>
    match foldWait (fun s n => s.settleEntry q n) s (s.openEntries q) with
    | none => none
    | some s => (s.freeScalar q k).map (fun j => s.reviveService q j a)

/-- WATCHDOG_EXPIRY (R363, R364): 0xD3 to Lodestar, and the restart. -/
def execWatchdogExpiry (part : Nat) (s : State) : Res :=
  let p := s.part part
  let k := p.svcHart
  if !p.attached || p.wdcnt < p.wdlimit.toNat || !s.svcResident part && !s.isService part k then .next s
  else
    match (s.forward k 0xD3 (BitVec.ofNat 64 part)).restartService part with
    | some t => .next (s.ifRoom t)
    | none => .next s

/-- What a round does for one partition whose watchdog is kept in the cluster: the count advances, or a restart that
had to wait is made. -/
def State.watch (s : State) (q : Nat) : State :=
  let p := s.part q
  if p.svcLost then (s.restartService q).getD s
  else if s.svcResident q && !(s.openEntries q).isEmpty && p.wdcnt < p.wdlimit.toNat then
    s.modPart q (fun p => { p with wdcnt := p.wdcnt + 1 })
  else s

/-- SERVICE_RING_ROUND (R363): the token reaches the Lodestar of a cluster. -/
def execServiceRingRound (cl : Nat) (s : State) : Res :=
  .next ((upto 8).foldl (fun s q =>
    if (s.part q).attached && clusterOf (s.part q).svcHart = cl then s.ifRoom (s.watch q) else s) s)

end Sys2Proof.Machine
end

