-- ==== Sys2Proof/Machine/Recovery.lean ====
section
/-!
DEFINITION. Machine/Recovery.lean: hardware errors and their containment (R355), fencing a core and its repair (R356 to
R359).
-/

namespace Sys2Proof.Machine

/-! ### Errors that fence a core (R355, R356) -/

/-- The core exists: a spare that has replaced another has become that core (R358), and an absent core is gone. -/
def State.hasCore (s : State) (c : Nat) : Bool :=
  !(s.core c).absent && !(384 ≤ c && (s.cluster (clusterOfCore c)).spareUsed)

/-- A cause that fences a core: the event to Lodestar, and the fence. -/
def State.fenceFor (s : State) (c : Nat) (cause : BitVec 8) (v : Word) : State :=
  State.fence (s.event (clusterOfCore c)
    { kind := 1, code := cause, core := BitVec.ofNat 4 (coreInCluster c), val := v }) c

/-- The eight doublewords of a line. -/
def lineWords (b : BitVec 512) : List Word := (upto 8).map (fun i => bits b (64 * i) 64)

/-- A dirty line of local tier memory that is lost: what memory then holds is left open. -/
def State.loseLine (s : State) (addr : Nat) : State :=
  if s.region none addr = .tier then
    let a := addr / 64 * 64
    { s.bump with mem := Memory.write s.mem a (Config.lostLine s.free).toNat 64 }
  else s

/-- An entry of a core's structures that cannot be read: entry n / 3 of the deque, the inbox or the message buffer by
n mod 3 (assumption log 60). A record is counted for the notice of its loss (R358); a message ends with FAULT and 0xD0, so
that its sender hears of it (R354). -/
def State.loseEntry (s : State) (c n : Nat) : State :=
  let x := s.core c
  let i := n / 3
  match n % 3 with
  | 0 => if i < x.deque.length then s.setCore c { x with deque := x.deque.eraseIdx i, lostRecs := x.lostRecs + 1 } else s
  | 1 => if i < x.inbox.length then s.setCore c { x with inbox := x.inbox.eraseIdx i, lostRecs := x.lostRecs + 1 } else s
  | _ =>
    match x.msgBuf[i]? with
    | some m => (s.setCore c { x with msgBuf := x.msgBuf.eraseIdx i }).completeMsg c m 4 0xD0
    | none => s

/-- UNCORRECTABLE_SRAM_ERROR (R355): 0xD0 and the fence. Below 2^54 the failing address is the domain address of a dirty
line or of a scratchpad byte; from there on it numbers an entry of the deque, the inbox or the message buffer. -/
def execUncorrectableSramError (core : Nat) (addr : Nat) (s : State) : Res :=
  if !s.hasCore core then .next s
  else
    let t := s.fenceFor core 0xD0 (BitVec.ofNat 64 addr)
    .next (if addr < 2 ^ 54 then t.loseLine addr else s.untilWindowRoom (t.loseEntry core (addr - 2 ^ 54)))

/-- REGISTER_FILE_PARITY_ERROR (R355): 0xD1 with the register number, n mod 256, and the fence; the context n / 256 mod 8,
whose register it is, fails parity when it is saved. -/
def execRegisterFileParityError (core : Nat) (n : Nat) (s : State) : Res :=
  if !s.hasCore core then .next s
  else .next ((s.fenceFor core 0xD1 (BitVec.ofNat 64 (n % 256))).modCore core (fun c =>
    { c with badCtx := insertNat c.badCtx (n / 256 % 8) }))

/-- CORE_FENCED (R356): no access of the fenced core remains in flight, since each of the model's steps is whole. -/
def execCoreFenced (core : Nat) (s : State) : Res :=
  let c := s.core core
  if !c.fenced || c.told then .next s
  else .next ((s.modCore core (fun c => { c with told := true })).event (clusterOfCore core)
    { kind := 1, code := 0xD2, core := BitVec.ofNat 4 (coreInCluster core), val := BitVec.ofNat 64 (coreInCluster core) })

/-! ### Other errors (R355) -/

/-- CORRECTABLE_ERROR (R355): corrected in place and counted, by row of R355's table. -/
def execCorrectableError (n : Nat) (s : State) : Res :=
  .next { s with corrected := s.corrected.setIfInBounds n ((s.corrected[n]?.getD 0) + 1) }

/-- A line of local memory is poisoned. -/
def State.poison (s : State) (addr : Nat) : State := { s with poisoned := insertNat s.poisoned (localOf addr / 64) }

/-- UNCORRECTABLE_TIER_MEMORY_ERROR (R355): a hart reads a line in a partition's range that cannot be corrected. A context
is saved with `why` = 0xD5; a message hart's message ends with FAULT. -/
def execUncorrectableTierMemoryError (hart : Nat) (addr : Nat) (s : State) : Res :=
  match s.rangeOwner (localOf addr) with
  | none => .next s
  | some q =>
    if s.region none addr ≠ .tier || !s.runs hart then .next s
    else if isMach hart then .next (s.ifRoom ((s.poison addr).machError hart (BitVec.ofNat 64 addr)))
    else if s.partOf hart ≠ q then .next s
    else raise 0xD5 (BitVec.ofNat 64 addr) { s.poison addr with cur := hart }

/-- The source address of the least element a copy has still to move. -/
def Copy.sourceAt (c : Copy) : Word :=
  let d : Desc := c.desc
  match c.conv with
  | some (f, _) =>
    let base := if d.isStore then d.tileAt (0, 0, 0) else d.tensorAt (0, 0, 0)
    (packedAt (wordOfInt base) f c.least).addr
  | none => wordOfInt (if d.isStore then d.tileAt (d.at_ c.least) else d.tensorAt (d.at_ c.least))

/-- UNCORRECTABLE_ERROR (R355): a clean line (the line is fetched again), a dirty line of the L2 (written back poisoned),
the radiance store of cluster n, record `addr` of its pending-launch store, the copy-engine buffer with copy `addr` of
core n, or tier memory outside every range. -/
def execUncorrectableError (kind : UncorrKind) (n : Nat) (addr : Nat) (s : State) : Res :=
  untilRoomStep s (match kind with
  | .cleanLine => .next s
  | .l2Dirty => .next (if s.region none addr = .tier then s.poison addr else s)
  | .outsideRange =>
    .next (if s.region none addr = .tier && (s.rangeOwner (localOf addr)).isNone then s.poison addr else s)
  | .radianceStore =>
    .next (if n < 48 then (s.rcWriteBind n 0).clusterNotice n 4 (BitVec.ofNat 64 n) 0 0 0 else s)
  | .pendingLaunch =>
    if n < 48 && addr < (s.cluster n).pls.length then
      .next ((s.modCluster n (fun c => { c with pls := c.pls.eraseIdx addr })).clusterNotice n 3 (BitVec.ofNat 64 n) 1 0 0)
    else .next s
  | .copyBuffer =>
    match s.copy? n addr with
    | none => .next s
    | some c =>
      if c.left = 0 || c.stop.isSome || c.ended then .next s
      else .next (s.setCopy n { c with stop := some ⟨c.sourceAt, c.least⟩ }))

/-! ### Repair (R358, R359) -/

/-- A context is lost: its partition is told, with the `pc` it was saved at, or 0, and it is retired as R328 has it, once
its send queue has emptied (R263). -/
def State.loseCtx (s : State) (k : Nat) (pc cause : Word) : State :=
  let h := s.hart k
  let q := h.ctxpart.toNat
  let s := match h.savedAt with
    | some a => ((s.notAway (clusterOf k) a.toNat).pinAway (clusterOf k) a.toNat none).areaDone a
    | none => s
  let s := s.modHart k (fun h => { h with ctxState := 2, stopped := true, saveReq := some .retire, call := none })
  let s := s.modPart q (fun p => { p with
    callers := p.callers.filter (fun c => c.ctx ≠ k)
    svcLost := p.svcLost || (p.attached && p.svcHart = k && p.svcGen = h.hgen) })
  s.notice q 1 ((hlocOf s.pkg k).setWidth 64) (h.hgen.setWidth 64) pc cause

/-- The context holds a hart that is to be saved or retired by the repair. -/
def Hart.toSave (h : Hart) : Bool := h.ctxState = 1 || (h.ctxState = 2 && h.saveReq ≠ some .retire)

/-- Step 1 of R358 for one context: it is saved, or lost when its state fails its check or its area cannot be written. -/
def State.rescue (s : State) (k : Nat) : State :=
  let h := s.hart k
  if !h.toSave then s
  else if (s.core (coreOf k)).badCtx.contains (slotOf k) then s.loseCtx k 0 0xD1
  else if (s.areaFault h.ctxarea.toNat false).isSome then s.loseCtx k 0 0xD2
  else
    s.saveHart k (match h.saveReq with
      | some (.save why) => why
      | _ => 0xD2)

/-- A record goes to the store, or waits in Lodestar's memory behind those already there. -/
def State.moveRecord (s : State) (g : Nat) (r : TaskRec) : State :=
  let hold : State := s.modCluster g (fun c => { c with moved := c.moved ++ [r] })
  if (s.cluster g).keepsNone then (s.placeStore g r).getD hold else hold

/-- The spilled records of a core that can be read, the oldest first, and the number that cannot. -/
def State.spilledRecs (s : State) (c : Nat) : List TaskRec × Nat :=
  (s.core c).spilled.foldl (fun r i =>
    match s.readSpilled c i with
    | .ok t => (r.1 ++ [t], r.2)
    | .error _ => (r.1, r.2 + 1)) ([], 0)

/-- Step 2 of R358: the records of the deque and of the inbox move to the store. -/
def State.moveRecords (s : State) (c : Nat) : State :=
  let g := clusterOfCore c
  let x := s.core c
  let (old, n) := s.spilledRecs c
  let s := (old ++ x.deque ++ x.inbox).foldl (fun s r => s.moveRecord g r) s
  let s := s.modCore c (fun x => { x with deque := [], spilled := [], inbox := [], lostRecs := 0 })
  if x.lostRecs + n = 0 then s
  else s.clusterNotice g 3 (BitVec.ofNat 64 g) (BitVec.ofNat 64 (x.lostRecs + n)) 0 0

/-- The first n refused sources of a core receive context-free notices (R264). -/
def State.tellSome (s : State) (c : Nat) : Nat → State
  | 0 => s
  | n + 1 => (s.tellRefused c).tellSome c n

/-- The bytes of a core's scratchpad become zero. -/
def State.zeroScratch (s : State) (c : Nat) : State :=
  let a := s.pkg.toNat * 2 ^ 48 + 0xF00000000000 + 0x200000 * c
  { s with mem := s.mem.filter (fun x => x.1 < a || a + 0x200000 ≤ x.1) }

/-- The message that a core's message hart was running ends with FAULT and 0xD2. -/
def State.dropRunning (s : State) (c : Nat) : State := (s.endMessage c 4 0xD2).setHart (msgKey c) Hart.zero

/-- Steps 3 to 5 of R358: the spare becomes logical core c. -/
def State.useSpare (s : State) (c : Nat) : State :=
  let g := clusterOfCore c
  let s := s.dropRunning c
  let x := s.core c
  let sp := s.core (384 + g)
  let new : Core := { sp with
    issuepol := x.issuepol, lmsplit := x.lmsplit, lmgroup := x.lmgroup, lmfmt := x.lmfmt, vlp := x.vlp
    vlpWait := x.vlpWait, dqbase := x.dqbase, dqcap := x.dqcap, cycle := x.cycle, copies := x.copies
    msgBuf := x.msgBuf, refused := x.refused, srcs := x.srcs, heldSrcs := x.heldSrcs
    sv := Vector.replicate 16 0, cmask := Vector.replicate 8 0 }
  let s := ((s.setCore c new).setCore (384 + g) {}).modCluster g (fun y => { y with spareUsed := true })
  let s := (s.zeroScratch c).clusterNotice g 2 (BitVec.ofNat 64 g) (BitVec.ofNat 64 (coreInCluster c)) 1 0
  (s.inboxFreed c).tellSome c (32 - x.msgBuf.length)

/-- R359 for one context: the hart saved from it is retired, and a restore of it that has not ended is given up. -/
def State.loseSaved (s : State) (k : Nat) : State :=
  match (s.hart k).savedAt with
  | some a => s.loseCtx k (s.areaWord a.toNat 0) 0xD2
  | none => s.modHart k (fun h => if h.ctxState = 3 then { h with ctxState := 0 } else h)

/-- R359: the logical core becomes absent. -/
def State.makeAbsent (s : State) (c : Nat) : State :=
  let g := clusterOfCore c
  let s := (upto 8).foldl (fun s h => s.loseSaved (ctxKey c h)) s
  let s := s.dropRunning c
  let x := s.core c
  let s := s.setCore c { x with
    msgBuf := [], heldSrcs := [], running := none, fenced := false, told := false, absent := true, vlp := 0
    badCtx := [] }
  let s := x.msgBuf.foldl (fun s m => s.completeMsg c m 4 0xD2) s
  (s.tellSome c x.refused.length).clusterNotice g 2 (BitVec.ofNat 64 g) (BitVec.ofNat 64 (coreInCluster c)) 0 0

/-- The services whose hart was lost are restarted (R364). -/
def State.restartLost (s : State) : State :=
  (upto 8).foldl (fun s q => if (s.part q).svcLost then (s.restartService q).getD s else s) s

/-- CORE_REPAIR (R358, R359): Lodestar repairs a fenced logical core once it has been told of it, with no
event of its own waiting and room for those of the repair (R329). -/
def execCoreRepair (core : Nat) (s : State) : Res :=
  let g := clusterOfCore core
  let c := s.core core
  if 384 ≤ core || !c.fenced || !c.told || !(s.cluster g).evWait.isEmpty then .next s
  else
    let t := (upto 8).foldl (fun s h => s.rescue (ctxKey core h)) s
    let t := t.moveRecords core
    let spare := !(t.cluster g).spareUsed && !(t.core (384 + g)).fenced
    .next (s.ifRoom (State.restartLost (if spare then t.useSpare core else t.makeAbsent core)))

end Sys2Proof.Machine
end

