-- ==== Sys2Proof/Machine/Lifecycle.lean ====
section
/-!
DEFINITION. Machine/Lifecycle.lean: a partition's lifecycle (R348, R349), links and their keys (R351, R366), power (R16,
R17), reset (R20), boot and measurement (R352, R353), the management port (R18).
-/

namespace Sys2Proof.Machine

/-! ### Locking (R348) -/

/-- The ranges of a partition in use: base and size. -/
def Partition.ranges (p : Partition) : List (Nat × Nat) :=
  ((p.pmrbase.toList.zip p.pmrsize.toList).map (fun e => (e.1.toNat, e.2.toNat))).filter (fun e => e.2 ≠ 0)

/-- Two spans of addresses, each a base and a size, meet. -/
def spansMeet (a b : Nat × Nat) : Bool := a.1 < b.1 + b.2 && b.1 < a.1 + a.2

/-- Some two spans of a list meet. -/
def anyMeet : List (Nat × Nat) → Bool
  | [] => false
  | a :: l => l.any (spansMeet a) || anyMeet l

/-- The spans of the Almanac with its bitmap (R304). -/
def State.almanacSpans (s : State) : List (Nat × Nat) :=
  s.orr.toList.filterMap (fun x =>
    if x.qcbs = 0 then none else some ((x.fwalm &&& 0xFFFFF8000000).toNat, 128 * x.qcbs + x.qcbs / 8))

/-- The spans of the enabled windows, and of the command window. -/
def State.windowSpans (s : State) : List (Nat × Nat) :=
  (0x2FFC000000, 0x4000000) :: s.parts.toList.flatMap (fun p => p.wins.toList.filterMap (fun v =>
    if v.en then some (v.base.toNat, 4096 * v.pages.toNat) else none))

/-- The spans of the save areas: those saved harts remember, and those the contexts name. -/
def State.areaSpans (s : State) : List (Nat × Nat) :=
  s.harts.flatMap (fun e =>
    if isCtx e.1 then
      (e.2.savedAt.toList.map (fun a => (localOf a.toNat, areaSize))) ++
        (if e.2.ctxarea = 0 then [] else [(localOf e.2.ctxarea.toNat, areaSize)])
    else [])

/-- The lock is refused: ranges overlap one another, a window, the Almanac or a save area, or half-dies or ranges are
another partition's (R344, R348). -/
def State.lockRefused (s : State) (q : Nat) : Bool :=
  let p := s.part q
  let others := ((upto 8).filter (· ≠ q)).map s.part
  let taken := s.windowSpans ++ s.almanacSpans ++ s.areaSpans ++ others.flatMap Partition.ranges
  anyMeet p.ranges || p.ranges.any (fun a => taken.any (spansMeet a)) || others.any (fun o => o.pown &&& p.pown ≠ 0)

/-- A range of local memory becomes zero: every line is written under its key (R348, R349). -/
def State.zeroRange (s : State) (r : Nat × Nat) : State :=
  let a := s.pkg.toNat * 2 ^ 48 + r.1
  let out (l : Nat) : Bool := 64 * l + 64 ≤ r.1 || r.1 + r.2 ≤ 64 * l
  { s with
    mem := s.mem.filter (fun c => c.1 < a || a + r.2 ≤ c.1)
    badTags := s.badTags.filter out
    poisoned := s.poisoned.filter out
    harts := s.harts.map (fun e =>
      match e.2.resv with
      | some v => if pkgOf (64 * v.line) = s.pkg.toNat && !out (localOf (64 * v.line) / 64)
          then (e.1, { e.2 with resv := none }) else e
      | none => e) }

/-- Every range of partition q becomes zero. -/
def State.zeroRanges (s : State) (q : Nat) : State := (s.part q).ranges.foldl State.zeroRange s

/-- The clusters and the agents partition q owns (R344). -/
def State.clustersOf (s : State) (q : Nat) : List Nat := (upto 48).filter (fun g => s.ownerOfCluster g = some q)
def State.agentsOf (s : State) (q : Nat) : List Nat := (upto 24).filter (fun a => s.ownerOfAgent a = some q)

/-- A core as a new partition finds it (R23, R237, R281). -/
def Core.handOver (c : Core) : Core :=
  { c with sv := Vector.replicate 16 0, cmask := Vector.replicate 8 0, dqbase := 0, dqcap := 0, deque := [], spilled := [],
           icache := [] }

/-- A cluster as a new partition finds it (R183, R281). -/
def State.handOver (s : State) (g : Nat) : State :=
  let s := (upto 8).foldl (fun s n => s.modCore (coreAt g n) Core.handOver) s
  (s.modCluster g (fun c => { c with gangs := Vector.replicate 16 {}, pls := [], held := [], moved := [] })).rcWriteBind g 0

/-- The digest of partition q's TDI report (R353): its configuration, the contexts it is given and the QCBs it owns. -/
def State.tdiDigest (s : State) (q : Nat) : BitVec 512 :=
  let p := s.part q
  let ctxs := (upto 3072).filter (fun k => (s.hart k).ctxpart.toNat = q && s.ownerOfCluster (clusterOf k) = some q)
  let d := (bits p.phab 0 1).toNat
  let qs := (s.qcbIds d).filter (fun i => (s.peekQcb d i).part = q)
  Config.tdiReport ([p.patp, p.stateWord, p.ptid.setWidth 64, p.pown.setWidth 64, p.phab, p.phas] ++ p.pmrbase.toList ++ p.pmrsize.toList ++
    ctxs.map (BitVec.ofNat 64) ++ qs.map (BitVec.ofNat 64))

/-- A measurement is recorded by extension (R353). -/
def State.extend (s : State) (i : Nat) (d : BitVec 512) : State :=
  { s with meas := put s.meas i (Config.sha512 [look s.meas i 0, d]) }

/-- A reply at the management port or to an SPDM request. -/
def State.tell (s : State) (r : MgmtReply) : State := { s with mgmt := s.mgmt ++ [r] }

/-- LOCK_INTERFACE_REQUEST (R348). -/
def execLockInterfaceRequest (part : Nat) (s : State) : Res :=
  if (s.part part).pstate ≠ 0 || s.lockRefused part then .next (s.tell (.tdispError part))
  else
    let s := s.modPart part (fun p => { p with pstate := 1, reason := 0, keyGen := p.keyGen + 1, hasKeys := true })
    let s := s.zeroRanges part
    let s := (s.clustersOf part).foldl State.handOver s
    let s := (s.agentsOf part).foldl (fun s a => s.setAgent a {}) s
    .next (s.extend (16 + part) (s.tdiDigest part))

/-- START_INTERFACE_REQUEST (R348); the restarts of its service count from here (R361). -/
def execStartInterfaceRequest (part : Nat) (s : State) : Res :=
  .next (if (s.part part).pstate = 1 then s.modPart part (fun p => { p with pstate := 2, svcrst := 0 })
    else s.tell (.tdispError part))

/-! ### Stopping (R348) -/

/-- The contexts of partition q that hold a hart, resident or saved. -/
def State.ctxsOf (s : State) (q : Nat) : List Nat :=
  (s.harts.filter (fun e => isCtx e.1 && e.2.ctxpart.toNat = q && (e.2.ctxState ≠ 0 || e.2.savedAt.isSome))).map (·.1)

/-- A context of a stopped partition is retired (R328): its hart stops where a retirement stops it, one whose hart has left
it at once. -/
def Hart.stop (h : Hart) : Hart :=
  if h.ctxState = 0 || h.ctxState = 3 then { h with ctxState := 2, stopped := true, saveReq := some .retire, call := none }
  else h.cmdRetire

/-- The retirement of a context of a stopped partition begins; what rests on the area of a saved hart goes with it. -/
def State.stopCtx (s : State) (k : Nat) : State :=
  let h := s.hart k
  let s := match h.savedAt with
    | some a => if h.ctxState = 0 then ((s.notAway (clusterOf k) a.toNat).pinAway (clusterOf k) a.toNat none).areaDone a else s
    | none => s
  s.modHart k Hart.stop

/-- The agent's queues are disabled, their entries in progress abandoned. -/
def Agent.disable (g : Agent) : Agent :=
  { g with
    qs := g.qs.map (fun t => { t with en := false, state := 0, err := 0, entry := none, settled := none, prog := none, posted := false })
    emit := [], emitQ := none }

/-- Every window of partition q is disabled. -/
def State.closeWindows (s : State) (q : Nat) : State :=
  (upto 16).foldl (fun s n => if ((s.part q).win n).en then s.winDisable q n ((s.part q).win n).base else s) s

/-- The link keys of partition q are erased, and with them its tenant's route to other packages (R347, R351). -/
def State.eraseLinkKeys (s : State) (q : Nat) : State :=
  let t := (s.part q).ptid
  { s with
    links := s.links.map (fun l => { l with dirs := l.dirs.map (fun d => { d with keys := del d.keys q }) })
    remotes := s.remotes.map (fun r => if r.ptid = t then { r with keyed := false } else r) }

/-- What a STOP does once every context of partition q is retired (R348). -/
def State.stopPart (s : State) (q : Nat) : State :=
  let s := (s.agentsOf q).foldl (fun s a => s.modAgent a Agent.disable) s
  let s := s.closeWindows q
  let s := (s.clustersOf q).foldl (fun s g => s.rcWriteBind g 0) s
  let s := (s.zeroRanges q).eraseLinkKeys q
  let s := s.modPart q (fun p => { p with
    pstate := 0, reason := 0, hasKeys := false, attached := false, journal := 0, svcHart := 0, svcGen := 0
    wdcnt := 0, wdlimit := 0, image := [], svcLost := false, jidx := 0, notices := [], callers := [], stopping := false })
  { s with meas := del s.meas (16 + q) }

/-- STOP_INTERFACE_REQUEST (R348): the contexts are retired, and when none of them holds a hart any longer the rest is done;
until then the request waits and is taken up again. -/
def execStopInterfaceRequest (part : Nat) (s : State) : Res :=
  if (s.part part).pstate = 0 then .next (s.tell (.tdispError part))
  else
    let t := (s.ctxsOf part).foldl State.stopCtx (s.modPart part (fun p => { p with stopping := true }))
    .next (if (t.ctxsOf part).isEmpty then t.stopPart part else t)

/-! ### Links (R351, R366) -/

def State.link (s : State) (l : Nat) : Link := s.links[l]?.getD {}
def State.modLink (s : State) (l : Nat) (f : Link → Link) : State :=
  { s with links := s.links.setIfInBounds l (f (s.link l)) }

/-- Orrery on the I/O die of a link receives a cause: core 0 of the complex takes it as a trap, with the link number. -/
def State.orreryCause (s : State) (l : Nat) (cause : BitVec 8) : State :=
  s.modHart (orrKey (l / 8) 0) (fun h => h.enterTrap true false cause (BitVec.ofNat 64 l) h.pc)

def Link.dir (l : Link) (d : Nat) : LinkDir := l.dirs[d]?.getD {}
def Link.modDir (l : Link) (d : Nat) (f : LinkDir → LinkDir) : Link := { l with dirs := l.dirs.setIfInBounds d (f (l.dir d)) }

/-- The flits of a direction advance its nonce counter, which a key update keeps below 2^48 (R351, R366). -/
def LinkDir.advance (d : LinkDir) (n : Nat) : LinkDir := { d with nonce := min (d.nonce + n) (2 ^ 48 - 1) }

/-- The flits that have passed on a link since its last event: how many is left open (R351). -/
def State.flow (s : State) (l : Nat) : State :=
  State.modLink { s with free := s.free + 2 } l (fun x =>
    (x.modDir 0 (·.advance (Config.flits s.free))).modDir 1 (·.advance (Config.flits (s.free + 1))))

/-- FLIT_FAILURE (R366, R351): a flit that fails its CRC is sent again, and nothing else changes; one that fails its tag is
dropped, Orrery receives 0xB1, and the partition whose key failed, if the flit is of none of the firmware's traffic or of a
comet (partition 8), enters ERROR. -/
def execFlitFailure (link : Nat) (part : Nat) (tag : Bool) (s : State) : Res :=
  let l := s.link link
  let t := s.flow link
  if !l.up then .next s
  else if !tag then .next t
  else if part = 8 then .next (t.orreryCause link 0xB1)
  else if (l.dir 1).keys.any (fun e => e.1 = part) then .next ((t.orreryCause link 0xB1).partError part 2)
  else .next s

/-- The messages that hart k's send queue holds for other packages and that have not left. -/
def Hart.keptAbroad (h : Hart) (away : Msg → Bool) (out : List Msg) : List Msg :=
  (h.sendQ.filter (fun e => away e.msg && e.state ≠ .outcome && !out.any e.msg.same)).map (·.msg)

/-- The messages on their way to other packages, and those their harts hold for them, complete with FAULT and 0xD4 once no
route remains (R366). -/
def State.cutRoutes (s : State) : State :=
  if s.routed then s
  else
    let kept := s.harts.flatMap (fun e => e.2.keptAbroad (fun m => s.abroad m.dst) s.outMsgs)
    (s.outMsgs ++ kept).foldl (fun s m => s.completeMsg (coreOf m.src) m 4 0xD4) { s with outMsgs := [] }

/-- LINK_RETRAIN (R366): after 16 failures in a row on a lane the link goes on without it at half width, or goes down when
no lane works; Orrery receives 0xD4. -/
def execLinkRetrain (link : Nat) (lane : Nat) (s : State) : Res :=
  let l := s.link link
  if !l.up || !l.lanes.contains lane then .next s
  else
    let lanes := l.lanes.filter (· ≠ lane)
    let t := (s.flow link).modLink link (fun l => { l with lanes := lanes, half := true, up := !lanes.isEmpty })
    .next (s.ifRoom (t.orreryCause link 0xD4).cutRoutes)

/-- KEY_UPDATE (R366): a direction of a link gets a new key, and its nonce counter starts again. -/
def execKeyUpdate (link : Nat) (dir : Nat) (s : State) : Res :=
  .next (if (s.link link).up then
      (s.flow link).modLink link (·.modDir dir (fun d => { d with nonce := 0, rekeys := d.rekeys + 1 }))
    else s)

/-- LINK_KEY_INSTALL (R351, R347): the keys derived from the secret of a locked partition's owner. -/
def execLinkKeyInstall (part : Nat) (link : Nat) (secret : BitVec 64) (s : State) : Res :=
  let p := s.part part
  if p.ptid = 0 || (p.pstate ≠ 1 && p.pstate ≠ 2) then .next s
  else
    let key (d : Nat) (x : LinkDir) : LinkDir := { x with keys := put x.keys part (Config.linkKey secret p.ptid link d) }
    let s := s.modLink link (fun l => (l.modDir 0 (key 0)).modDir 1 (key 1))
    .next { s with remotes := s.remotes.map (fun r => if r.ptid = p.ptid then { r with keyed := true } else r) }

/-! ### Power (R16, R17) -/

/-- CORE_THROTTLE (R17): n cycles of the cores of a die are stopped; they are counted, and nothing else counts them. -/
def execCoreThrottle (die : Nat) (n : Nat) (s : State) : Res :=
  .next { s with sstop := s.sstop.setIfInBounds die ((s.sstop[die]?.getD 0) + BitVec.ofNat 64 n) }

/-- CORE_RAIL_SETTING (R16): the lowest voltage of the range that holds 1.8 GHz at the temperature. -/
def execCoreRailSetting (die : Nat) (temp : Nat) (s : State) : Res :=
  .next { s with rails := s.rails.setIfInBounds die (min 620 (max 450 (Config.railFor die temp))) }

/-! ### Reset and boot (R20, R352, R353) -/

/-- The package after a reset: the registers at their reset values, fresh device keys, and with them no memory content of
its own; the configuration of the module, the memory of hosts and of other packages and what the outside has been told
stay. -/
def State.deviceReset (s : State) : State :=
  { State.reset with
    mem := s.mem.filter (fun c => match s.region none c.1 with
      | .aperture _ => true
      | _ => pkgOf c.1 ≠ s.pkg.toNat)
    domain := s.domain, form := s.form, pkg := s.pkg, twoHosts := s.twoHosts, cap1 := s.cap1, cap2 := s.cap2
    remotes := s.remotes.map (fun r => { r with keyed := false })
    rails := s.rails, fuseVer := s.fuseVer, devKeyGen := s.devKeyGen + 1, mgmt := s.mgmt, hostOut := s.hostOut
    replies := s.replies
    cur := s.cur, ir := s.ir, focus := s.focus, agenda := s.agenda, free := s.free }

/-- DEVICE_RESET (R20). -/
def execDeviceReset (s : State) : Res := .next s.deviceReset

/-- The image of a stage, from 1, verifies against the fuses (R352). -/
def stageGood (img : BootImages) (fuse i : Nat) : Bool :=
  (img.verified[i - 1]?.getD false) && fuse ≤ (img.version[i - 1]?.getD 0)

/-- The measurement of a stage: its digest with its security version. -/
def stageDigest (img : BootImages) (i : Nat) : BitVec 512 :=
  Config.sha512 [img.digest[i - 1]?.getD 0, BitVec.ofNat 512 (img.version[i - 1]?.getD 0)]

/-- The bytes of a stage's image are loaded where they belong in tier memory. -/
def State.loadImage (s : State) (l : List (Nat × Byte)) : State :=
  l.foldl (fun s e => if s.region none e.1 = .tier then s.writePa device e.1 e.2.toNat 1 else s) s

/-- What runs once stage i has been loaded: the boot loader on Orrery core 0 of I/O die 0, Orrery's firmware on every Orrery
core, Lodestar's on every Lodestar. -/
def State.startStage (s : State) (img : BootImages) (i : Nat) : State :=
  let run (pc : Word) (l : List Nat) (b : BootState) : State :=
    l.foldl (fun s k => s.modHart k (fun h => { h with pc := pc })) { s with boot := b }
  match i with
  | 1 => run img.loaderPc [orrKey 0 0] .loader
  | 2 => run img.orrPc ((upto 8).map (fun c => orrKey (c / 4) (c % 4))) .orrery
  | _ => run img.lodePc ((upto 48).map lodeKey) .running

/-- Stage i is verified, measured, loaded and run, or the boot stops there (R352, R353). -/
def State.bootStage (s : State) (img : BootImages) (i : Nat) : State :=
  if stageGood img s.fuseVer i then
    ((s.extend (1 + i) (stageDigest img i)).loadImage (img.load[i - 1]?.getD [])).startStage img i
  else State.tell { s with boot := .failed i } (.bootFailed i)

/-- What the boot ROM measures of the package itself (R353). -/
def State.measureRom (s : State) : State :=
  ((s.extend 1 Config.romDigest).extend 5 (Config.sha512 [BitVec.ofNat 512 s.fuseVer, Config.debugFuses])).extend 6
    (Config.sha512 [s.form.setWidth 512, Config.enabled])

/-- BOOT (R352): the next stage, by the boot ROM or by the boot loader it has started. -/
def execBoot (img : BootImages) (s : State) : Res :=
  match s.boot with
  | .off => .next (s.measureRom.bootStage img 1)
  | .loader => .next (s.bootStage img 2)
  | .orrery => .next (s.bootStage img 3)
  | .failed _ | .running => .next s

/-! ### The management port (R18, R353) -/

/-- GET_MEASUREMENTS (R353): register n, if it is one that is reported. -/
def execGetMeasurements (n : Nat) (s : State) : Res :=
  .next (if (1 ≤ n && n ≤ 6) || (16 ≤ n && n < 24) then s.tell (.measurements n (look s.meas n 0)) else s)

/-- MGMT_READ_IDENTITY (R18, R38, R353). -/
def execMgmtReadIdentity (s : State) : Res :=
  .next (s.tell (.identity s.form 0 0x4B4C 1 (Config.aliasCert ([1, 2, 3, 4].map (fun i => look s.meas i 0)))))

/-- MGMT_READ_TELEMETRY (R18, R355); the module's power keeps within 1,600 W (R16). -/
def execMgmtReadTelemetry (s : State) : Res :=
  .next (s.bump.tell (.telemetry ((upto 4).map (Config.temperature s.free)) s.rails.toList (min 1600 (Config.power s.free))
    s.sstop.toList s.corrected.toList))

/-- MGMT_RESET_REQUEST (R18): the device is reset. -/
def execMgmtResetRequest (s : State) : Res := .next s.deviceReset

end Sys2Proof.Machine
end

