-- ==== Sys2Proof/Machine/LoadStore.lean ====
section
/-!
DEFINITION. Machine/LoadStore.lean: the scalar loads and stores (R97) and the annotated ones (R215).
-/

namespace Sys2Proof.Machine

/-- `lb` (R97). -/
def execLb (rd : BitVec 5) (rs1 : BitVec 5) (imm : BitVec 12) (s : State) : Res :=
  loadInstr 1 (sextFrom · 8) rd (s.x rs1 + imm12 imm) s

/-- `lh` (R97). -/
def execLh (rd : BitVec 5) (rs1 : BitVec 5) (imm : BitVec 12) (s : State) : Res :=
  loadInstr 2 (sextFrom · 16) rd (s.x rs1 + imm12 imm) s

/-- `lw` (R97). -/
def execLw (rd : BitVec 5) (rs1 : BitVec 5) (imm : BitVec 12) (s : State) : Res :=
  loadInstr 4 (sextFrom · 32) rd (s.x rs1 + imm12 imm) s

/-- `ld` (R97). -/
def execLd (rd : BitVec 5) (rs1 : BitVec 5) (imm : BitVec 12) (s : State) : Res :=
  loadInstr 8 id rd (s.x rs1 + imm12 imm) s

/-- `lbu` (R97). -/
def execLbu (rd : BitVec 5) (rs1 : BitVec 5) (imm : BitVec 12) (s : State) : Res :=
  loadInstr 1 id rd (s.x rs1 + imm12 imm) s

/-- `lhu` (R97). -/
def execLhu (rd : BitVec 5) (rs1 : BitVec 5) (imm : BitVec 12) (s : State) : Res :=
  loadInstr 2 id rd (s.x rs1 + imm12 imm) s

/-- `lwu` (R97). -/
def execLwu (rd : BitVec 5) (rs1 : BitVec 5) (imm : BitVec 12) (s : State) : Res :=
  loadInstr 4 id rd (s.x rs1 + imm12 imm) s

/-- `sb` (R97). -/
def execSb (rs1 : BitVec 5) (rs2 : BitVec 5) (imm : BitVec 12) (s : State) : Res :=
  storeInstr 1 (s.x rs1 + imm12 imm) (s.x rs2) s

/-- `sh` (R97). -/
def execSh (rs1 : BitVec 5) (rs2 : BitVec 5) (imm : BitVec 12) (s : State) : Res :=
  storeInstr 2 (s.x rs1 + imm12 imm) (s.x rs2) s

/-- `sw` (R97). -/
def execSw (rs1 : BitVec 5) (rs2 : BitVec 5) (imm : BitVec 12) (s : State) : Res :=
  storeInstr 4 (s.x rs1 + imm12 imm) (s.x rs2) s

/-- `sd` (R97). -/
def execSd (rs1 : BitVec 5) (rs2 : BitVec 5) (imm : BitVec 12) (s : State) : Res :=
  storeInstr 8 (s.x rs1 + imm12 imm) (s.x rs2) s

/-- `lda.w` (R215): the acquire orders nothing further in one order of steps. -/
def execLdaW (rd : BitVec 5) (rs1 : BitVec 5) (scope : BitVec 3) (s : State) : Res :=
  wellFormed (scopeOk scope) s (loadInstr 4 (sextFrom · 32) rd (s.x rs1) s)

/-- `lda.d` (R215): the acquire orders nothing further in one order of steps. -/
def execLdaD (rd : BitVec 5) (rs1 : BitVec 5) (scope : BitVec 3) (s : State) : Res :=
  wellFormed (scopeOk scope) s (loadInstr 8 id rd (s.x rs1) s)

/-- `stl.w` (R215). -/
def execStlW (rs1 : BitVec 5) (rs2 : BitVec 5) (scope : BitVec 3) (s : State) : Res :=
  wellFormed (scopeOk scope) s (storeInstr 4 (s.x rs1) (s.x rs2) s)

/-- `stl.d` (R215). -/
def execStlD (rs1 : BitVec 5) (rs2 : BitVec 5) (scope : BitVec 3) (s : State) : Res :=
  wellFormed (scopeOk scope) s (storeInstr 8 (s.x rs1) (s.x rs2) s)

end Sys2Proof.Machine
end

