-- ==== Sys2Proof/Machine/Priv.lean ====
section
/-!
DEFINITION. Machine/Priv.lean: the privileged instructions (R105 to R107), fences (R100, R101, R216) and `pause`
(R277). The model executes one operation at a time in one order, so a fence orders nothing further.
-/

namespace Sys2Proof.Machine

/-- `fence` (R100); the word with pred = W and no succ is `pause`. -/
def execFence (pred : BitVec 4) (succ : BitVec 4) (s : State) : Res :=
  wellFormed (!(pred = 1 && succ = 0)) s (retire s)

/-- `pause` (R100, R277): under greedy-then-oldest the context moves to the youngest end of the age order and greed
ends. -/
def execPause (s : State) : Res :=
  let c := coreOf s.cur
  if isCtx s.cur && (s.core c).issuepol = 1
  then retire ((s.youngest s.cur).modCore c (fun x => { x with greedy := none }))
  else retire s

/-- `fence.i` (R101): what the core's instruction cache holds is discarded. -/
def execFenceI (s : State) : Res :=
  retire (if isMach s.cur then s else s.modCore (coreOf s.cur) (fun c => { c with icache := [] }))

/-- `ecall` (R105): 0x08, 0x09 or 0x0B by mode. -/
def execEcall (s : State) : Res :=
  match s.me.mode with
  | .u => raise 0x08 0 s
  | .s => raise 0x09 0 s
  | .m => raise 0x0B 0 s

/-- `ebreak` (R105). -/
def execEbreak (s : State) : Res := raise 0x03 s.me.pc s

/-- `sret` (R105, R322): on contexts in S mode. -/
def execSret (s : State) : Res := inS s (.next (s.count.modMe Hart.sret))

/-- `mret` (R105, R322): on Lodestar and Orrery cores. -/
def execMret (s : State) : Res :=
  if isMach s.cur then .next (s.count.modMe Hart.mret) else illegal s

/-- `wfi` (R105, R106): from S mode up; it retires at once when an enabled interrupt is pending, whatever the global
enable. -/
def execWfi (s : State) : Res :=
  if s.me.mode = .u then illegal s
  else if s.enabledPending s.cur ≠ 0 then retire s
  else parkIn .wfi s

/-- `sfence.vma` (R105, R107, R341): on Lodestar and Orrery cores, which are not translated, nothing matches. -/
def execSfenceVma (rs1 : BitVec 5) (rs2 : BitVec 5) (s : State) : Res :=
  if s.me.mode = .u then illegal s
  else if isCtx s.cur then
    retire (s.discard (clusterOf s.cur) (s.partOf s.cur) (if rs1 = 0 then none else some (s.x rs1))
      (if rs2 = 0 then none else some (bits (s.x rs2) 0 16)))
  else retire s

/-- `fence.s` (R216): an empty set or a reserved scope is cause 0x02. -/
def execFenceS (scope : BitVec 3) (pred : BitVec 4) (succ : BitVec 4) (s : State) : Res :=
  wellFormed (scopeOk scope && pred ≠ 0 && succ ≠ 0) s (retire s)

end Sys2Proof.Machine
end

