-- ==== Sys2Proof/Machine/Radiance.lean ====
section
/-!
DEFINITION. Machine/Radiance.lean: the radiance unit at work: loading a model (R173 to R175), evaluating its network
(R176, R177), `rc.q` and `rc.qt` (R178 to R180), Afterglow's steps and publications (R181, R182) and the write-back
(R184).
-/

namespace Sys2Proof.Machine

/-! ### The descriptor (R174, R175) -/

/-- A descriptor's fields. -/
structure RcDesc where
  image  : Word
  levels : Nat
  hidden : Nat
  naux   : Nat
  rel    : Bool
  tlog   : List Nat
  res    : List Nat
  lr     : Rat
  beta1  : Rat
  beta2  : Rat
  eps    : Rat
  batch  : Nat
  gsteps : Nat

/-- The fields of the 64 bytes. -/
def RcDesc.ofBlock (b : BitVec 512) : RcDesc :=
  { image := fieldW b 0, levels := field b 8 1, hidden := field b 9 1, naux := field b 10 1
    rel := bit b 88
    tlog := (upto 8).map (fun l => field b (12 + l) 1)
    res := (upto 8).map (fun l => field b (20 + 2 * l) 2)
    lr := (fieldF b 36).toRat, beta1 := (fieldF b 40).toRat, beta2 := (fieldF b 44).toRat, eps := (fieldF b 48).toRat
    batch := field b 52 2, gsteps := field b 54 2 }

/-- Every field is within its limits (R174). -/
def rcDescOk (b : BitVec 512) : Bool :=
  let d := RcDesc.ofBlock b
  let fin (off : Nat) : Bool := (fieldF b off).finite
  d.image.toNat % 64 = 0 && 1 ≤ d.levels && d.levels ≤ 8 && 1 ≤ d.hidden && d.hidden ≤ 3 && d.naux ≤ 5 &&
    field b 11 1 ≤ 1 && field b 56 8 = 0 &&
    (upto 8).all (fun l =>
      let t := d.tlog[l]?.getD 0
      let n := d.res[l]?.getD 0
      if l < d.levels then 12 ≤ t && t ≤ 16 && 1 ≤ n else t = 0 && n = 0) &&
    fin 36 && 0 < d.lr && fin 48 && 0 < d.eps && fin 40 && 0 ≤ d.beta1 && d.beta1 < 1 && fin 44 && 0 ≤ d.beta2 &&
    d.beta2 < 1 && 1 ≤ d.batch && d.batch ≤ 4096 && 1 ≤ d.gsteps

/-- Inputs of the network, entries of a level's table, and the first parameter of a level, and of layer 1. -/
def RcDesc.nin (d : RcDesc) : Nat := 2 * d.levels + d.naux
def RcDesc.entries (d : RcDesc) (l : Nat) : Nat := 2 ^ (d.tlog[l]?.getD 0)
def RcDesc.table (d : RcDesc) (l : Nat) : Nat := ((upto l).map (fun m => 2 * d.entries m)).foldl (· + ·) 0
def RcDesc.mlp (d : RcDesc) : Nat := d.table d.levels

/-- A layer: its first weight, its first bias, its inputs and its outputs (R175). -/
structure RcLayer where
  wb    : Nat
  bb    : Nat
  width : Nat
  nout  : Nat

/-- The layers in order, the hidden ones and the output. -/
def RcDesc.layers (d : RcDesc) : List RcLayer :=
  let first : RcLayer := ⟨d.mlp, d.mlp + 64 * d.nin, d.nin, 64⟩
  let after (k : Nat) : Nat := first.bb + 64 + 4160 * k
  [first] ++ (upto (d.hidden - 1)).map (fun k => ⟨after k, after k + 4096, 64, 64⟩) ++
    [⟨after (d.hidden - 1), after (d.hidden - 1) + 192, 64, 3⟩]

/-- The number of parameters P, and P rounded up to a multiple of 32. -/
def RcDesc.params (d : RcDesc) : Nat := d.mlp + 64 * d.nin + 64 + (d.hidden - 1) * 4160 + 195
def RcDesc.padded (d : RcDesc) : Nat := ceilDiv d.params 32 * 32

/-- Where a section of the image begins (R175): A, M, m, v. -/
def RcDesc.secA (d : RcDesc) : Word := d.image + 64
def RcDesc.secF (d : RcDesc) (k : Nat) : Word := d.image + BitVec.ofNat 64 (64 + (2 + 4 * k) * d.padded)

/-! ### Loading (R173) -/

/-- The party of a cluster's radiance unit. -/
def State.whoRc (s : State) (g p : Nat) : Who := s.whoAgent p [radianceTlb g]

def State.modRc (s : State) (g : Nat) (f : Radiance → Radiance) : State :=
  s.modCluster g (fun c => { c with rc := f c.rc })

/-- The unit stops in state 3 with an error; a failing access may also be an error of the line read. -/
def State.rcFail (s : State) (g p : Nat) (err : BitVec 4) (cause : BitVec 8) (va : Word) : State :=
  (s.modRc g (fun r => { r with state := 3, err := err, todo := none })).lineError p g cause va

/-- Loads the model `rcbind` names, in the order of R173. `err` of a stop is the code of R172. -/
def rcLoad (g : Nat) (w : Who) : AgM Unit := do
  let at_ := ((← get).cluster g).rc.rcbind
  if at_.toNat % 64 ≠ 0 then agErr 1 at_
  else
    let b ← agBlock w at_ 64
    let d := RcDesc.ofBlock b
    if !rcDescOk b then agErr 2 at_
    else if 1048576 < d.params then agErr 3 at_
    else
      let h ← agWords w d.image 2
      let l ← (upto d.params).mapM (fun p => do
        let v ← agGet w (d.secA + BitVec.ofNat 64 (2 * p)) 2
        pure (BitVec.ofNat 16 v))
      modify (fun s => s.modRc g (fun r => { r with
        state := 2, slot0 := l, slot1 := l, gen0 := h[1]?.getD 0, gen1 := h[1]?.getD 0, cur := 0
        rcsteps := h[0]?.getD 0, since := 0, desc := b }))

/-- RC_LOAD_COMPLETE (R173): the load ends, in state 2 or in state 3 with the slots zeroed. -/
def execRcLoadComplete (cl : Nat) (s : State) : Res :=
  match s.ownerOfCluster cl with
  | none => .next s
  | some p =>
    if (s.cluster cl).rc.state ≠ 1 then .next s
    else
      match rcLoad cl (s.whoRc cl p) s with
      | .ok (_, t) => .next t
      | .error x => .next (s.ifRoom ((x.s.modRc cl Radiance.clearSlots).rcFail cl p
          (if x.err = 3 && x.cause ≠ 0 then 1 else x.err) x.cause x.addr))

/-! ### The network (R176, R177) -/

/-- One rounding to nearest even into FP16. -/
def rne16 (v : FVal) : FVal := fp16.decode (fp16.round 0 false v).1

/-- ReLU: −0 gives +0, and a NaN is kept. -/
def relu (v : FVal) : FVal :=
  match v with
  | .nan _ => .nan false
  | .inf n => if n then .fin false 0 else .inf false
  | .fin n m => if n then .fin false 0 else .fin false m

/-- The present corners of a level for a position: weight and table entry, by ascending corner (R176). -/
def RcDesc.corners (d : RcDesc) (x : List FVal) (l : Nat) : List (Rat × Nat) :=
  let X (a : Nat) : Rat := min (max (x[a]?.getD (.fin false 0)).toRat 0) 1 * (d.res[l]?.getD 0 : Nat)
  let i (a : Nat) : Nat := (X a).floor.toNat
  let f (a : Nat) : Rat := X a - i a
  (upto 8).filterMap (fun c =>
    let w (a : Nat) : Rat := if c.testBit a then f a else 1 - f a
    let co (a : Nat) : W32 := BitVec.ofNat 32 (i a + if c.testBit a then 1 else 0)
    let h := co 0 ^^^ (co 1 * 0x9E3779B1) ^^^ (co 2 * 0x85EBCA77)
    let wt := w 0 * w 1 * w 2
    if wt = 0 then none else some (wt, h.toNat % d.entries l))

/-- The inputs of layer 1: features of each level, then the auxiliary inputs, each narrowed by `nar`. -/
def RcDesc.inputs (d : RcDesc) (wt : Nat → FVal) (nar : FVal → FVal) (x : List FVal) : List FVal :=
  (upto (2 * d.levels)).map (fun k =>
    let l := k / 2
    nar (exactSum 0 ((d.corners x l).map (fun c => FVal.mul (.fin false c.1) (wt (d.table l + 2 * c.2 + k % 2)))))) ++
  (upto d.naux).map (fun j => nar (x[3 + j]?.getD (.fin false 0)))

/-- The sums of a layer, one rounding for each addition. -/
def RcLayer.sums (y : RcLayer) (wt : Nat → FVal) (h : List FVal) : List FVal :=
  (upto y.nout).map (fun k =>
    ((upto y.width).zip h).foldl (fun acc e => rne (exactSum 0 [acc, (wt (y.wb + k * y.width + e.1)).mul e.2]))
      (rne (wt (y.bb + k))))

/-- What a layer took in and its sums. -/
abbrev RcRecord := RcLayer × List FVal × List FVal

/-- The forward pass: a record of each layer, the output layer first. -/
def RcDesc.forward (d : RcDesc) (wt : Nat → FVal) (nar : FVal → FVal) (x : List FVal) : List RcRecord :=
  (d.layers.foldl (fun (r : List RcRecord × List FVal) y =>
    let acc := y.sums wt r.2
    ((y, r.2, acc) :: r.1, acc.map (fun a => nar (relu a)))) ([], d.inputs wt nar x)).1

/-- The network reads only finite inputs. -/
def RcDesc.inputsOk (d : RcDesc) (x : List FVal) : Bool := (x.take (3 + d.naux)).all FVal.finite

/-- `rc_eval`: three FP32 patterns (R177). -/
def RcDesc.eval (d : RcDesc) (slot : Array (BitVec 16)) (x : List FVal) : List Nat :=
  if !d.inputsOk x then [fp32.nanBits, fp32.nanBits, fp32.nanBits]
  else
    match d.forward (fun p => fp16.decode (slot[p]?.getD 0).toNat) rne16 x with
    | r :: _ => r.2.2.map rneBits
    | [] => []

/-! ### Querying (R178 to R180) -/

/-- Adds a training lane's sample to the ring, or counts why not (R179). -/
def Radiance.addSample (r : Radiance) (d : RcDesc) (x tg : List Word) : Radiance :=
  let val (v : Word) : FVal := fp32.decode (ug v 32)
  if !d.inputsOk (x.map val) || !(tg.all (fun v => (val v).finite)) then { r with rcrej := r.rcrej + 1 }
  else if 65536 ≤ r.ring.length then { r with rcdrop := r.rcdrop + 1 }
  else { r with ring := r.ring ++ [{
      x := Vector.ofFn (fun i => (x[i.val]?.getD 0).setWidth 32), tg := Vector.ofFn (fun i => (tg[i.val]?.getD 0).setWidth 32) }] }

/-- One element (R179); `mask` is the training mask of `rc.qt`. -/
def rcElem (mask : Option Nat) (vd vs2 : Nat) (p : Pin) (i : Nat) (s : State) : ElemOut :=
  let g := clusterOf s.cur
  let r := (s.cluster g).rc
  let d := RcDesc.ofBlock r.desc
  let x := (group vs2 8).map (fun q => s.velem q 32 i)
  let y := d.eval (r.slot p.slot).toArray (x.map (fun v => fp32.decode (ug v 32)))
  let train : Bool := match mask with
    | some m => s.mbit m i
    | none => false
  let s := if train then
      let tg := (group vd 3).map (fun q => s.velem q 32 i)
      s.modRc g (fun r => r.addSample d x tg)
    else s
  .done (s.setGroup vd 32 i (y ++ [p.gen.toNat % 2 ^ 32]))

/-- The pin an rc instruction works under (R178 step 4, R180): a new one at `vstart` 0, else the one held. -/
def State.rcPin (s : State) : Option Pin :=
  let g := clusterOf s.cur
  let r := (s.cluster g).rc
  if s.me.vec.vstart = 0 then some ⟨r.epoch, r.cur, r.rcgenNow, g⟩
  else
    match s.me.pin with
    | some p => if p.epoch = r.epoch && p.cluster = g then some p else none
    | none => none

/-- `rc.q` and `rc.qt`. -/
def rcQuery (ok : Bool) (mask : Option Nat) (vd vs2 : BitVec 5) (vm : BitVec 1) (s : State) : Res :=
  let src := group vs2.toNat 8
  let reads := src ++ mask.toList
  vguard false ok (group vd.toNat 4) reads s (
    let r := (s.cluster (clusterOf s.cur)).rc
    if !s.isF32 then illegal s
    else if r.state = 1 then stall .radiance s
    else if r.state ≠ 2 || s.me.rcdesc ≠ r.rcbind then raise 0x73 s.me.rcdesc s
    else
      match s.rcPin with
      | none => raise 0x74 (s.me.vec.vstart.setWidth 64) s
      | some p =>
        vrun vm reads (fun i => src.map (fun q => needElem 32 q i) ++ mask.toList.map (fun q => needBit q i))
          (rcElem mask vd.toNat vs2.toNat p) (s.modMe (fun h => { h with pin := some p })))

/-- `rc.q` (R178, R179). -/
def execRcQ (vd : BitVec 5) (vs2 : BitVec 5) (vm : BitVec 1) (s : State) : Res :=
  rcQuery (gfxWf vd 4 4 vs2 8 8 vm) none vd vs2 vm s

/-- `rc.qt` (R178, R179). -/
def execRcQt (vd : BitVec 5) (vs2 : BitVec 5) (vs1 : BitVec 5) (vm : BitVec 1) (s : State) : Res :=
  rcQuery (gfxWf vd 4 4 vs2 8 8 vm && !groupsMeet vs1 1 vd 4 && !groupsMeet vs1 1 vs2 8) (some vs1.toNat) vd vs2 vm s

/-! ### Afterglow (R181) -/

/-- Gradients of the parameters a step updates, in the order of their list. -/
abbrev Grad := Array FVal

/-- The gradient of one parameter with a contribution added. -/
def Grad.add (g : Grad) (i : Nat) (term : FVal) : Grad := g.modify i (fun a => rne (exactSum 0 [a, term]))

/-- The derivative of the loss with respect to an output. -/
def RcDesc.lossGrad (d : RcDesc) (y tg : FVal) : FVal :=
  let num := FVal.mul (.fin false 2) (fsub y tg)
  let b : FVal := .fin false (3 * d.batch : Nat)
  let den := if d.rel then b.mul (exactSum 0 [y.mul y, rne (.ofRat (1 / 100))]) else b
  rne (FVal.div num den).1

/-- delta of the inputs of a layer: a sum over its outputs. -/
def RcLayer.back (y : RcLayer) (wt : Nat → FVal) (delta : List FVal) : List FVal :=
  (upto y.width).map (fun i =>
    ((upto y.nout).zip delta).foldl (fun t e => rne (exactSum 0 [t, (wt (y.wb + e.1 * y.width + i)).mul e.2])) (.fin false 0))

/-- The contributions of a layer's weights and biases. -/
def RcLayer.grads (y : RcLayer) (at_ : Nat → Nat) (h delta : List FVal) (g : Grad) : Grad :=
  ((upto y.nout).zip delta).foldl (fun g e =>
    Grad.add (((upto y.width).zip h).foldl (fun g f => Grad.add g (at_ (y.wb + e.1 * y.width + f.1)) (e.2.mul f.2)) g)
      (at_ (y.bb + e.1)) e.2) g

/-- The backward pass over the layers, the output layer first: the gradients and delta of the network's inputs. -/
def backward (wt : Nat → FVal) (at_ : Nat → Nat) : List RcRecord → List FVal → Grad → Grad × List FVal
  | [], delta, g => (g, delta)
  | (y, h, _) :: rest, delta, g =>
    let g := y.grads at_ h delta g
    let din := y.back wt delta
    match rest with
    | [] => (g, din)
    | (_, _, a) :: _ =>
      backward wt at_ rest ((din.zip a).map (fun e =>
        if e.2.isNan || FVal.lt (.fin false 0) e.2 then e.1 else .fin false 0)) g

/-- The gradients of one sample added (R181). -/
def RcDesc.sampleGrad (d : RcDesc) (wt : Nat → FVal) (at_ : Nat → Nat) (t : Sample) (g : Grad) : Grad :=
  let x := t.x.toList.map (fun v => fp32.decode v.toNat)
  let recs := d.forward wt rne x
  match recs with
  | [] => g
  | (_, _, y) :: _ =>
    let gy := (y.zip (t.tg.toList.map (fun v => fp32.decode v.toNat))).map (fun e => d.lossGrad e.1 e.2)
    let (g, din) := backward wt at_ recs gy g
    (upto d.levels).foldl (fun g l => (d.corners x l).foldl (fun g c => (upto 2).foldl (fun g f =>
      Grad.add g (at_ (d.table l + 2 * c.2 + f)) (FVal.mul (.fin false c.1) (din[2 * l + f]?.getD (.fin false 0)))) g) g) g

/-- The table parameters that some sample of a step touches, rising. -/
def RcDesc.touched (d : RcDesc) (b : List Sample) : List Nat :=
  b.foldl (fun l t =>
    let x := t.x.toList.map (fun v => fp32.decode v.toNat)
    (upto d.levels).foldl (fun l v => (d.corners x v).foldl (fun l c =>
      insertNat (insertNat l (d.table v + 2 * c.2)) (d.table v + 2 * c.2 + 1)) l) l) []

/-- The root of a rational whose numerator and denominator are squares. -/
def exactRoot (x : Rat) : Option Rat :=
  let n := x.num.natAbs
  let a := isqrt n
  let b := isqrt x.den
  if a * a = n && b * b = x.den then some ((a : Rat) / (b : Rat)) else none

/-- The FP32 pattern of a value f(√x), f monotone, from an enclosure of the root narrowed until both its ends round
alike (assumption log 13). -/
def roundRoot (x : Rat) (f : Rat → Rat) : Nat :=
  let at_ (p : Nat) : Nat × Nat :=
    let r := isqrt (x.num.natAbs * 4 ^ p / x.den)
    (rneBits (.ofRat (f ((r : Rat) / ((2 ^ p : Nat) : Rat)))), rneBits (.ofRat (f (((r + 1 : Nat) : Rat) / ((2 ^ p : Nat) : Rat)))))
  match [256, 512, 1024, 2048, 4096].find? (fun p => (at_ p).1 = (at_ p).2) with
  | some p => (at_ p).1
  | none => (at_ 4096).1

/-- The new weight (R181): w − lr · (m / c1) / (√(v / c2) + eps), rounded once. -/
def adamWeight (lr eps c1 c2 : Rat) (w m v : FVal) : Nat :=
  let num := FVal.mul (.ofRat lr) (FVal.div m (.ofRat c1)).1
  let vh := (FVal.div v (.ofRat c2)).1
  let with_ (root : FVal) : Nat := rneBits (fsub w (FVal.div num (exactSum 0 [root, .ofRat eps])).1)
  match vh, num, w with
  | .fin false x, .fin _ _, .fin _ _ =>
    match exactRoot x with
    | some r => with_ (.fin false r)
    | none =>
      if num.isZero then with_ (.fin false 1) else roundRoot x (fun r => w.toRat - num.toRat / (r + eps))
  | _, _, _ => with_ vh.sqrt

/-- One parameter after a step: its new m, v and w, as patterns. -/
def RcDesc.adam (d : RcDesc) (t : Nat) (w m v g : FVal) : Nat × Nat × Nat :=
  let mix (b : Rat) (a c : FVal) : Nat := rneBits (exactSum 0 [FVal.mul (.ofRat b) a, FVal.mul (.ofRat (1 - b)) c])
  let mb := mix d.beta1 m g
  let vb := mix d.beta2 v (g.mul g)
  (mb, vb, adamWeight d.lr d.eps (1 - d.beta1 ^ t) (1 - d.beta2 ^ t) w (fp32.decode mb) (fp32.decode vb))

/-- The writes a step of cluster g's unit has still to make, in their order; a step that has to wait keeps the rest (R208). -/
def rcPut (g : Nat) (w : Who) (step : Bool) : List (Word × Nat × Nat) → AgM Unit
  | [] => modify (fun s => s.modRc g (fun r => { r with todo := none }))
  | x :: rest => do
    modify (fun s => s.modRc g (fun r => { r with todo := some (step, x :: rest) }))
    agPut w x.1 x.2.1 x.2.2
    rcPut g w step rest

/-- The batch of one Adam step (R181) is taken; the writes it makes on the image in memory. -/
def rcGather (g : Nat) (w : Who) : AgM (List (Word × Nat × Nat)) := do
  let r := ((← get).cluster g).rc
  let d := RcDesc.ofBlock r.desc
  let b := r.ring.take d.batch
  modify (fun s => s.modRc g (fun r => { r with ring := r.ring.drop d.batch }))
  let tab := d.touched b
  let idx := tab ++ (upto (d.params - d.mlp)).map (d.mlp + ·)
  let read (k p : Nat) : AgM FVal := do
    let v ← agGet w (d.secF k + BitVec.ofNat 64 (4 * p)) 4
    pure (fp32.decode v)
  let ws := (← idx.mapM (read 0)).toArray
  let ms := (← idx.mapM (read 1)).toArray
  let vs := (← idx.mapM (read 2)).toArray
  let zero : FVal := .fin false 0
  let at_ (p : Nat) : Nat :=
    if d.mlp ≤ p then tab.length + (p - d.mlp) else ((findIdx (· = p) tab 0).map (·.1)).getD idx.length
  let wt (p : Nat) : FVal := ws[at_ p]?.getD zero
  let grad : Grad := b.foldl (fun g t => d.sampleGrad wt at_ t g) (Array.replicate idx.length zero)
  let t := r.rcsteps + 1
  pure (((upto idx.length).zip idx).flatMap (fun e =>
    let (m, v, x) := d.adam t.toNat (ws[e.1]?.getD zero) (ms[e.1]?.getD zero) (vs[e.1]?.getD zero) (grad[e.1]?.getD zero)
    [(d.secF 1 + BitVec.ofNat 64 (4 * e.2), 4, m), (d.secF 2 + BitVec.ofNat 64 (4 * e.2), 4, v),
     (d.secF 0 + BitVec.ofNat 64 (4 * e.2), 4, x)]))

/-- The writes a step or a write-back goes on with, or those it begins with. -/
def rcWork (g : Nat) (w : Who) (step : Bool) (begin_ : AgM (List (Word × Nat × Nat))) : AgM Unit := do
  let l ← (match ((← get).cluster g).rc.todo with
    | some (_, l) => pure l
    | none => begin_ : AgM (List (Word × Nat × Nat)))
  rcPut g w step l

/-- One Adam step (R181), on the image in memory. -/
def rcStep (g : Nat) (w : Who) : AgM Unit := do
  rcWork g w true (rcGather g w)
  modify (fun s => s.modRc g (fun r => { r with rcsteps := r.rcsteps + 1, since := r.since + 1 }))

/-- The unit is at a step boundary, or within the step or the write-back the event is for. -/
def Radiance.may (r : Radiance) (step : Bool) (ready : Bool) : Bool :=
  match r.todo with
  | some (b, _) => b = step
  | none => ready

/-- A step of the unit on its image; a failing access leaves it in state 3 with `err` 1 and its slots as they were. A step
whose writes find no room in a host-visible window keeps what it has written and waits (R208). -/
def rcRun (g : Nat) (ready : Radiance → Bool) (f : Who → AgM Unit) (s : State) : Res :=
  match s.ownerOfCluster g with
  | none => .next s
  | some p =>
    if (s.cluster g).rc.state ≠ 2 || !ready (s.cluster g).rc then .next s
    else
      match f (s.whoRc g p) s with
      | .ok (_, t) => .next t
      | .error x =>
        if x.err = 0 then .next { x.s with free := s.free, tlb := s.tlb }
        else .next (s.ifRoom (x.s.rcFail g p 1 x.cause x.addr))

/-- AFTERGLOW_STEP (R181): while `train` is 1 and the ring holds a batch; it waits for a write-back (R184). -/
def execAfterglowStep (cl : Nat) (s : State) : Res :=
  rcRun cl (fun r => r.may true (r.train && !r.wb && (RcDesc.ofBlock r.desc).batch ≤ r.ring.length)) (rcStep cl) s

/-! ### Publication and write-back (R182, R184) -/

/-- Some pin of the current epoch names a slot of cluster g: a hart's, or one in a save area (R180). -/
def State.slotPinned (s : State) (g slot : Nat) : Bool :=
  s.harts.any (fun e => match e.2.pin with
    | some p => p.cluster = g && p.epoch = (s.cluster g).rc.epoch && p.slot = slot
    | none => false) ||
  (s.cluster g).rc.away.any (fun e => e.2 = slot)

/-- Writes the narrowed master weights into the other slot and makes it current (R182). -/
def rcPublish (g : Nat) (w : Who) : AgM Unit := do
  let r := ((← get).cluster g).rc
  let d := RcDesc.ofBlock r.desc
  let l ← (upto d.params).mapM (fun p => do
    let v ← agGet w (d.secF 0 + BitVec.ofNat 64 (4 * p)) 4
    pure (BitVec.ofNat 16 (fp16.round 0 false (fp32.decode v)).1))
  let n := r.rcgenNow + 1
  modify (fun s => s.modRc g (fun r =>
    let r := { r with since := r.since - d.gsteps }
    if r.cur = 0 then { r with slot1 := l, gen1 := n, cur := 1 } else { r with slot0 := l, gen0 := n, cur := 0 }))

/-- RC_PUBLISH (R182): after every S steps, once no pin names the slot that is not current. -/
def execRcPublish (cl : Nat) (s : State) : Res :=
  rcRun cl (fun r => r.todo.isNone && !r.wb && (RcDesc.ofBlock r.desc).gsteps ≤ r.since && !s.slotPinned cl (1 - r.cur))
    (rcPublish cl) s

/-- What a write-back writes (R184): the header, section A from the current slot, section M and both moment sections. -/
def rcImage (g : Nat) (w : Who) : AgM (List (Word × Nat × Nat)) := do
  let r := ((← get).cluster g).rc
  let d := RcDesc.ofBlock r.desc
  let l := r.slot r.cur
  let header := ((upto 8).zip ([r.rcsteps, r.rcgenNow] ++ List.replicate 6 0)).map (fun e =>
    (d.image + BitVec.ofNat 64 (8 * e.1), 8, e.2.toNat))
  let secA := ((upto l.length).zip l).map (fun e => (d.secA + BitVec.ofNat 64 (2 * e.1), 2, e.2.toNat))
  let rest ← ((upto 3).flatMap (fun k => (upto d.params).map (fun p => d.secF k + BitVec.ofNat 64 (4 * p)))).mapM
    (fun va => do
      let v ← agGet w va 4
      pure (va, 4, v))
  pure (header ++ secA ++ rest)

/-- Writes the image back; the sections Afterglow works on lie in the image. -/
def rcWriteImage (g : Nat) (w : Who) : AgM Unit := do
  rcWork g w false (rcImage g w)
  modify (fun s => s.modRc g (fun r => { r with wb := false }))

/-- RC_WRITEBACK (R184): at the next step boundary after its request. -/
def execRcWriteback (cl : Nat) (s : State) : Res := rcRun cl (fun r => r.may false r.wb) (rcWriteImage cl) s

end Sys2Proof.Machine
end

