-- ==== Sys2Proof/Machine/RegEvents.lean ====
section
/-!
DEFINITION. Machine/RegEvents.lean: the writes of registers as steps of their own: those of the agents (R244, R248), the
windows (R207), the radiance unit (R172, R173), translation (R342), Lodestar (R27, R33), a core's memories (R34), Orrery
(R304, R306) and a hart (R30, R324), and the effects that follow a write later.
-/

namespace Sys2Proof.Machine

/-! ### Agents -/

/-- AQCTL_ENABLE (R244). -/
def execAqctlEnable (ag : Nat) (q : Nat) (v : BitVec 64) (s : State) : Res := .next (s.queueEnable ag q (v ||| 1))
/-- AQCTL_DISABLE (R244). -/
def execAqctlDisable (ag : Nat) (q : Nat) (v : BitVec 64) (s : State) : Res := .next (s.queueDisable ag q (v &&& ~~~1))
/-- AQHEAD_WRITE (R248). -/
def execAqheadWrite (ag : Nat) (q : Nat) (v : BitVec 64) (s : State) : Res := .next (s.queueHead ag q v)

/-! ### Windows and partitions -/

/-- HW_ENABLE (R207). -/
def execHwEnable (part : Nat) (n : Nat) (v : BitVec 64) (s : State) : Res := .next (s.winEnable part n (v ||| 1))
/-- HW_DISABLE (R207). -/
def execHwDisable (part : Nat) (n : Nat) (v : BitVec 64) (s : State) : Res := .next (s.winDisable part n (v &&& ~~~1))
/-- HWVER_WRITE (R206, R207). -/
def execHwverWrite (part : Nat) (n : Nat) (v : BitVec 64) (s : State) : Res := .next (s.winVer part n v)

/-- WDPET (R361): a store to `wdpet` by a hart; only that of the service hart resets the count. -/
def execWdpet (part : Nat) (hart : Nat) (s : State) : Res := .next ((s.partStore hart part 0x118 0).getD s)

/-! ### The radiance unit -/

/-- RC_BIND (R173). -/
def execRcBind (cl : Nat) (v : BitVec 64) (s : State) : Res := .next (s.rcWriteBind cl v)
/-- RC_UNBIND (R173): a write of 0 to `rcbind`. -/
def execRcUnbind (cl : Nat) (s : State) : Res := .next (s.rcWriteBind cl 0)
/-- RC_WRITEBACK_REQUEST (R184): a write of `rcctl` with `wb` 1. -/
def execRcWritebackRequest (cl : Nat) (v : BitVec 64) (s : State) : Res := .next (s.rcWriteCtl cl (v ||| 0x10))

/-! ### Lodestar's registers -/

/-- TLBINV (R342): a write of `tlbinv`. -/
def execTlbinv (cl : Nat) (v : BitVec 64) (s : State) : Res := .next (s.tlbinvWrite cl v)

/-- VLP_WRITE (R27): Lodestar writes `vlp` of the core `lsel` names, and stalls until the core has drained. -/
def execVlpWrite (cl : Nat) (v : BitVec 64) (s : State) : Res :=
  match s.selected cl with
  | none => .next s
  | some c =>
    match s.writeVlp c v with
    | some s => .next s
    | none => .next (s.awaitVlp c { v := v })

/-- Lodestar hart k goes on after its write of `vlp` took effect; a CSR instruction retires with what it read (R102). -/
def State.endVlp (s : State) (k : Nat) (rd : Option (BitVec 5 × Word)) : State :=
  match rd with
  | some (r, old) => s.modHart k (fun h =>
      { h.setX r old with pc := h.pc + 4, instret := h.instret + 1, stall := none })
  | none => s.modHart k (fun h => { h with stall := none })

/-- VLP_APPLY (R27): the core has drained, and the written value takes effect. -/
def execVlpApply (core : Nat) (s : State) : Res :=
  match (s.core core).vlpWait with
  | none => .next s
  | some w =>
    match s.writeVlp core w.v with
    | none => .next s
    | some t =>
      .next ((t.modCore core (fun x => { x with vlpWait := none })).endVlp (lodeKey (clusterOfCore core)) w.rd)

/-- CFLAGS_CLEAR (R33). -/
def execCflagsClear (cl : Nat) (v : BitVec 64) (s : State) : Res := .next (s.clearCflags cl v)

/-- FLAG_UNION (R33): the flags raised in the cluster reach `cflags`. -/
def execFlagUnion (cl : Nat) (s : State) : Res :=
  .next (s.modCluster cl (fun c => { c with cflags := c.cflags ||| c.flagsDue, flagsDue := 0 }))

/-! ### A core's memories -/

/-- LMSPLIT_WRITE (R34, R192, R232): it waits for the copies of the banks that change role. -/
def execLmsplitWrite (core : Nat) (v : BitVec 64) (s : State) : Res := .next ((s.writeLmsplit core v).getD s)
/-- LMGROUP_WRITE (R193). -/
def execLmgroupWrite (core : Nat) (v : BitVec 64) (s : State) : Res := .next (s.writeLmgroup core v)
/-- LMFMT_WRITE (R152, R232): it waits for the copies of the bank. -/
def execLmfmtWrite (core : Nat) (n : Nat) (v : BitVec 64) (s : State) : Res := .next ((s.writeLmfmt core n v).getD s)

/-! ### Orrery's registers -/

/-- FWKPEND_CLEAR (R303). -/
def execFwkpendClear (iod : Nat) (v : BitVec 64) (s : State) : Res := .next (s.clearKpend iod v)

/-- FWALM_WRITE (R304) by core 0 of the complex: a write-back that fails raises 0x95 there. -/
def execFwalmWrite (iod : Nat) (v : BitVec 64) (s : State) : Res :=
  untilRoomStep s (match State.writeFwalm { s with cur := orrKey iod 0 } iod (legalFwalm v) with
    | (some f, t) => raise 0x95 f.tval t
    | (none, t) => .next { t with cur := s.cur })

/-- FWSMAP_BIND (R306). -/
def execFwsmapBind (iod : Nat) (n : Nat) (v : BitVec 64) (s : State) : Res := .next (s.bindSlot iod n (v ||| 1))
/-- FWSMAP_UNBIND (R306). -/
def execFwsmapUnbind (iod : Nat) (n : Nat) (s : State) : Res := .next (s.unbindSlot iod n)
/-- FWPACE_WRITE (R303) by core 0 of the complex. -/
def execFwpaceWrite (iod : Nat) (v : BitVec 64) (s : State) : Res := .next (s.sendPace (orrKey iod 0) v)

/-! ### A hart's registers -/

/-- SCYCCMP_WRITE (R324); the message hart has none. -/
def execScyccmpWrite (hart : Nat) (v : BitVec 64) (s : State) : Res :=
  .next (if isMsg hart then s else s.writeScyccmp hart v)
/-- SIP_NOTIFY_CLEAR (R324): a write of 1 to `sip`[0] of a context. -/
def execSipNotifyClear (hart : Nat) (v : BitVec 64) (s : State) : Res :=
  .next (if isCtx hart then s.writeSip hart (v ||| 1) else s)
/-- STRMCTL_WRITE (R30, R240). -/
def execStrmctlWrite (hart : Nat) (v : BitVec 64) (s : State) : Res :=
  .next (if isCtx hart then s.writeStrmctl hart v else s)

/-- REGISTER_WRITE (R4): a write by a hart of the CSR with a number below 4,096, or else of the register at a domain
address, kept as its access type has it. -/
def execRegisterWrite (hart : Nat) (addr : Nat) (v : BitVec 64) (s : State) : Res :=
  let t := { s with cur := hart }
  if addr < 4096 then
    if !t.csrOk addr || csrReadOnly addr then .next s
    else
      match t.csrWrite addr v with
      | .done s => .next s
      | .trap x s => takeTrap x s
      | .wait _ _ => .next s
  else .next ((s.regStore hart (s.region none addr) v).getD s)

end Sys2Proof.Machine
end

