-- ==== Sys2Proof/Machine/Scalar.lean ====
section
/-!
DEFINITION. Machine/Scalar.lean: the integer computational instructions, multiply and divide (R92 to R95).
-/

namespace Sys2Proof.Machine

/-- `lui` (R93). -/
def execLui (rd : BitVec 5) (imm : BitVec 20) (s : State) : Res :=
  compute rd (imm20 imm) s

/-- `auipc` (R93). -/
def execAuipc (rd : BitVec 5) (imm : BitVec 20) (s : State) : Res :=
  compute rd (s.me.pc + imm20 imm) s

/-- `addi` (R93). -/
def execAddi (rd : BitVec 5) (rs1 : BitVec 5) (imm : BitVec 12) (s : State) : Res :=
  compute rd (intAdd (s.x rs1) (imm12 imm)) s

/-- `slti` (R93). -/
def execSlti (rd : BitVec 5) (rs1 : BitVec 5) (imm : BitVec 12) (s : State) : Res :=
  compute rd (intSlt (s.x rs1) (imm12 imm)) s

/-- `sltiu` (R93). -/
def execSltiu (rd : BitVec 5) (rs1 : BitVec 5) (imm : BitVec 12) (s : State) : Res :=
  compute rd (intSltu (s.x rs1) (imm12 imm)) s

/-- `xori` (R93). -/
def execXori (rd : BitVec 5) (rs1 : BitVec 5) (imm : BitVec 12) (s : State) : Res :=
  compute rd (intXor (s.x rs1) (imm12 imm)) s

/-- `ori` (R93). -/
def execOri (rd : BitVec 5) (rs1 : BitVec 5) (imm : BitVec 12) (s : State) : Res :=
  compute rd (intOr (s.x rs1) (imm12 imm)) s

/-- `andi` (R93). -/
def execAndi (rd : BitVec 5) (rs1 : BitVec 5) (imm : BitVec 12) (s : State) : Res :=
  compute rd (intAnd (s.x rs1) (imm12 imm)) s

/-- `addiw` (R93). -/
def execAddiw (rd : BitVec 5) (rs1 : BitVec 5) (imm : BitVec 12) (s : State) : Res :=
  compute rd (intAddW (s.x rs1) (imm12 imm)) s

/-- `slli` (R93): the shift amount is the field itself. -/
def execSlli (rd : BitVec 5) (rs1 : BitVec 5) (sh : BitVec 6) (s : State) : Res :=
  compute rd (intSll (s.x rs1) (sh.setWidth 64)) s

/-- `srli` (R93): the shift amount is the field itself. -/
def execSrli (rd : BitVec 5) (rs1 : BitVec 5) (sh : BitVec 6) (s : State) : Res :=
  compute rd (intSrl (s.x rs1) (sh.setWidth 64)) s

/-- `srai` (R93): the shift amount is the field itself. -/
def execSrai (rd : BitVec 5) (rs1 : BitVec 5) (sh : BitVec 6) (s : State) : Res :=
  compute rd (intSra (s.x rs1) (sh.setWidth 64)) s

/-- `slliw` (R93): the shift amount is the field itself. -/
def execSlliw (rd : BitVec 5) (rs1 : BitVec 5) (sh : BitVec 5) (s : State) : Res :=
  compute rd (intSllW (s.x rs1) (sh.setWidth 64)) s

/-- `srliw` (R93): the shift amount is the field itself. -/
def execSrliw (rd : BitVec 5) (rs1 : BitVec 5) (sh : BitVec 5) (s : State) : Res :=
  compute rd (intSrlW (s.x rs1) (sh.setWidth 64)) s

/-- `sraiw` (R93): the shift amount is the field itself. -/
def execSraiw (rd : BitVec 5) (rs1 : BitVec 5) (sh : BitVec 5) (s : State) : Res :=
  compute rd (intSraW (s.x rs1) (sh.setWidth 64)) s

/-- `add` (R93). -/
def execAdd (rd : BitVec 5) (rs1 : BitVec 5) (rs2 : BitVec 5) (s : State) : Res :=
  compute rd (intAdd (s.x rs1) (s.x rs2)) s

/-- `sub` (R93). -/
def execSub (rd : BitVec 5) (rs1 : BitVec 5) (rs2 : BitVec 5) (s : State) : Res :=
  compute rd (intSub (s.x rs1) (s.x rs2)) s

/-- `sll` (R93). -/
def execSll (rd : BitVec 5) (rs1 : BitVec 5) (rs2 : BitVec 5) (s : State) : Res :=
  compute rd (intSll (s.x rs1) (s.x rs2)) s

/-- `slt` (R93). -/
def execSlt (rd : BitVec 5) (rs1 : BitVec 5) (rs2 : BitVec 5) (s : State) : Res :=
  compute rd (intSlt (s.x rs1) (s.x rs2)) s

/-- `sltu` (R93). -/
def execSltu (rd : BitVec 5) (rs1 : BitVec 5) (rs2 : BitVec 5) (s : State) : Res :=
  compute rd (intSltu (s.x rs1) (s.x rs2)) s

/-- `xor` (R93). -/
def execXor (rd : BitVec 5) (rs1 : BitVec 5) (rs2 : BitVec 5) (s : State) : Res :=
  compute rd (intXor (s.x rs1) (s.x rs2)) s

/-- `srl` (R93). -/
def execSrl (rd : BitVec 5) (rs1 : BitVec 5) (rs2 : BitVec 5) (s : State) : Res :=
  compute rd (intSrl (s.x rs1) (s.x rs2)) s

/-- `sra` (R93). -/
def execSra (rd : BitVec 5) (rs1 : BitVec 5) (rs2 : BitVec 5) (s : State) : Res :=
  compute rd (intSra (s.x rs1) (s.x rs2)) s

/-- `or` (R93). -/
def execOr (rd : BitVec 5) (rs1 : BitVec 5) (rs2 : BitVec 5) (s : State) : Res :=
  compute rd (intOr (s.x rs1) (s.x rs2)) s

/-- `and` (R93). -/
def execAnd (rd : BitVec 5) (rs1 : BitVec 5) (rs2 : BitVec 5) (s : State) : Res :=
  compute rd (intAnd (s.x rs1) (s.x rs2)) s

/-- `addw` (R93). -/
def execAddw (rd : BitVec 5) (rs1 : BitVec 5) (rs2 : BitVec 5) (s : State) : Res :=
  compute rd (intAddW (s.x rs1) (s.x rs2)) s

/-- `subw` (R93). -/
def execSubw (rd : BitVec 5) (rs1 : BitVec 5) (rs2 : BitVec 5) (s : State) : Res :=
  compute rd (intSubW (s.x rs1) (s.x rs2)) s

/-- `sllw` (R93). -/
def execSllw (rd : BitVec 5) (rs1 : BitVec 5) (rs2 : BitVec 5) (s : State) : Res :=
  compute rd (intSllW (s.x rs1) (s.x rs2)) s

/-- `srlw` (R93). -/
def execSrlw (rd : BitVec 5) (rs1 : BitVec 5) (rs2 : BitVec 5) (s : State) : Res :=
  compute rd (intSrlW (s.x rs1) (s.x rs2)) s

/-- `sraw` (R93). -/
def execSraw (rd : BitVec 5) (rs1 : BitVec 5) (rs2 : BitVec 5) (s : State) : Res :=
  compute rd (intSraW (s.x rs1) (s.x rs2)) s

/-- `mul` (R94). -/
def execMul (rd : BitVec 5) (rs1 : BitVec 5) (rs2 : BitVec 5) (s : State) : Res :=
  compute rd (intMul (s.x rs1) (s.x rs2)) s

/-- `mulh` (R94). -/
def execMulh (rd : BitVec 5) (rs1 : BitVec 5) (rs2 : BitVec 5) (s : State) : Res :=
  compute rd (intMulh (s.x rs1) (s.x rs2)) s

/-- `mulhsu` (R94). -/
def execMulhsu (rd : BitVec 5) (rs1 : BitVec 5) (rs2 : BitVec 5) (s : State) : Res :=
  compute rd (intMulhsu (s.x rs1) (s.x rs2)) s

/-- `mulhu` (R94). -/
def execMulhu (rd : BitVec 5) (rs1 : BitVec 5) (rs2 : BitVec 5) (s : State) : Res :=
  compute rd (intMulhu (s.x rs1) (s.x rs2)) s

/-- `mulw` (R94). -/
def execMulw (rd : BitVec 5) (rs1 : BitVec 5) (rs2 : BitVec 5) (s : State) : Res :=
  compute rd (intMulW (s.x rs1) (s.x rs2)) s

/-- `div` (R95). -/
def execDiv (rd : BitVec 5) (rs1 : BitVec 5) (rs2 : BitVec 5) (s : State) : Res :=
  compute rd (intDiv (s.x rs1) (s.x rs2)) s

/-- `divu` (R95). -/
def execDivu (rd : BitVec 5) (rs1 : BitVec 5) (rs2 : BitVec 5) (s : State) : Res :=
  compute rd (intDivu (s.x rs1) (s.x rs2)) s

/-- `rem` (R95). -/
def execRem (rd : BitVec 5) (rs1 : BitVec 5) (rs2 : BitVec 5) (s : State) : Res :=
  compute rd (intRem (s.x rs1) (s.x rs2)) s

/-- `remu` (R95). -/
def execRemu (rd : BitVec 5) (rs1 : BitVec 5) (rs2 : BitVec 5) (s : State) : Res :=
  compute rd (intRemu (s.x rs1) (s.x rs2)) s

/-- `divw` (R95). -/
def execDivw (rd : BitVec 5) (rs1 : BitVec 5) (rs2 : BitVec 5) (s : State) : Res :=
  compute rd (intDivW (s.x rs1) (s.x rs2)) s

/-- `divuw` (R95). -/
def execDivuw (rd : BitVec 5) (rs1 : BitVec 5) (rs2 : BitVec 5) (s : State) : Res :=
  compute rd (intDivuW (s.x rs1) (s.x rs2)) s

/-- `remw` (R95). -/
def execRemw (rd : BitVec 5) (rs1 : BitVec 5) (rs2 : BitVec 5) (s : State) : Res :=
  compute rd (intRemW (s.x rs1) (s.x rs2)) s

/-- `remuw` (R95). -/
def execRemuw (rd : BitVec 5) (rs1 : BitVec 5) (rs2 : BitVec 5) (s : State) : Res :=
  compute rd (intRemuW (s.x rs1) (s.x rs2)) s

end Sys2Proof.Machine
end

