-- ==== Sys2Proof/Machine/Task.lean ====
section
/-!
DEFINITION. Machine/Task.lean: `task.spawn`, `task.fork` and their trapping forms (R297), `task.pop` (R295),
`task.join` (R298), `task.exit` (R300), the search of a parked hart, and Lodestar's placing of the continuations it
keeps (R299).
-/

namespace Sys2Proof.Machine

/-! ### Placing a record (R297) -/

/-- What a placing instruction reports (R297): 0 placed, 1 FULL, 2 DEPTH. -/
def placeStatus (h : Hart) (full : Bool) : Nat :=
  if h.task.tmax.toNat ≤ h.task.tdepth.toNat then 2 else if full then 1 else 0

/-- The record as it is placed: a child of the running task (R297). -/
def TaskRec.childOf (r : TaskRec) (t : TaskState) : TaskRec :=
  { r with
    depth := t.tdepth + 1, maxdepth := t.tmax,
    cls := if t.tclass.toNat < r.cls.toNat then t.tclass.setWidth 8 else r.cls }

/-- Copies the record at `a` to its destination (R297): `full` and `put` say which; `rd` is none in a trapping form. -/
def placeTask (full : State → Bool) (put : State → TaskRec → Except Trap State) (rd : Option (BitVec 5))
    (a : Word) (s : State) : Res :=
  if a.toNat % 64 ≠ 0 then raise 0x04 a s
  else
    match s.loadWords a 8 with
    | .error t => takeTrap t s
    | .ok (l, s') =>
      let r := TaskRec.ofWords l
      if !r.ok then raise 0x52 a s
      else
        let st := placeStatus s'.me (full s')
        let out : Except Trap State := if st = 0 then put s' (r.childOf s'.me.task) else .ok s'
        match out with
        | .error t => takeTrap t s
        | .ok s' =>
          match rd with
          | some rd => retireX rd (BitVec.ofNat 64 st) s'
          | none =>
            if st = 2 then raise 0x51 a s else if st = 1 then raise 0x50 a s else retire s'

/-- The store of the current hart's cluster is full; what Lodestar keeps enters it first (R299, R358). -/
def storeFull (s : State) : Bool := 256 ≤ (s.cluster (clusterOf s.cur)).drained.pls.length
/-- Places a record in that store. -/
def putStore (s : State) (r : TaskRec) : Except Trap State := .ok ((s.placeStore (clusterOf s.cur) r).getD s)
/-- The deque of the current hart's core is full. -/
def dequeFull (s : State) : Bool := s.myCore.dqFull
/-- Places a record at the bottom of that deque. -/
def putDeque (s : State) (r : TaskRec) : Except Trap State := s.pushDeque (coreOf s.cur) r

/-- `task.spawn` (R297). -/
def execTaskSpawn (rd : BitVec 5) (rs1 : BitVec 5) (s : State) : Res :=
  onContext s (placeTask storeFull putStore (some rd) (s.x rs1) s)

/-- `task.spawnt` (R297). -/
def execTaskSpawnt (rs1 : BitVec 5) (s : State) : Res :=
  onContext s (placeTask storeFull putStore none (s.x rs1) s)

/-- `task.fork` (R297). -/
def execTaskFork (rd : BitVec 5) (rs1 : BitVec 5) (s : State) : Res :=
  onContext s (untilRoom s <| placeTask dequeFull putDeque (some rd) (s.x rs1) s)

/-- `task.forkt` (R297). -/
def execTaskForkt (rs1 : BitVec 5) (s : State) : Res :=
  onContext s (untilRoom s <| placeTask dequeFull putDeque none (s.x rs1) s)

/-! ### Looking for work (R295, R300) -/

/-- The loop of R295 by the current hart. -/
def lookForWork (rd : BitVec 5) (wait nosteal : Bool) (p : Park) (s : State) : Res :=
  match s.findWork s.cur nosteal with
  | .error t => takeTrap t (s.spillError (coreOf s.cur) t.tval)
  | .ok (some r, s') => .next (s'.beginRec s.cur r)
  | .ok (none, s') =>
    if !wait then retireX rd 0 s'
    else if s'.enabledPending s.cur ≠ 0 then
      match s'.nextInterrupt s.cur with
      | some c => .next (s'.takeInterrupt s.cur c)
      | none => retireX rd 0 s'
    else parkIn p s'

/-- A hart that has taken a record, and waits for its queued matrix instructions, begins it once there are none (R290);
otherwise the instruction goes on as `r`. -/
def orBegun (r : Res) (s : State) : Res :=
  match s.me.begun with
  | some t => if s.hasQueued s.cur then stall .interlock s else .next (s.runRec s.cur t)
  | none => r

/-- `task.pop` (R295). -/
def execTaskPop (rd : BitVec 5) (rs1 : BitVec 5) (s : State) : Res :=
  onContext s (orBegun (untilRoom s <|
    lookForWork rd (bit (s.x rs1) 0) (bit (s.x rs1) 1) (.taskPop rd (bit (s.x rs1) 1)) s) s)

/-- A decrement waits for the capacity of a host-visible window (R208). -/
def State.joinWaits (s : State) (va : Word) : Bool :=
  match s.check s.who .amo .atomic 8 va with
  | .ok pa => s.region s.who.core pa = .tier && s.windowFull pa
  | .error _ => false

/-- `task.join` (R298). -/
def execTaskJoin (rd : BitVec 5) (rs1 : BitVec 5) (scope : BitVec 3) (s : State) : Res :=
  onContext s (wellFormed (scopeOk scope) s (
    let a := s.x rs1
    if a.toNat % 128 = 0 && s.joinWaits a then stall .window s
    else untilRoom s <|
      match s.joinDec s.who (coreOf s.cur) a with
      | .error t => takeTrap t s
      | .ok (old, s) => retireX rd (BitVec.ofNat 64 (old - 1)) s))

/-- What `task.exit` does before it looks for work (R300). -/
def exitTask (s : State) : Except Trap State :=
  let t := s.me.task
  let joined : Except Trap State :=
    if t.tjoin = 0 then .ok s
    else
      match s.joinDec s.who (coreOf s.cur) t.tjoin with
      | .error e => .error e
      | .ok (_, s) => .ok (s.modMe (fun h => { h with task := { h.task with tjoin := 0 } }))
  match joined with
  | .error e => .error e
  | .ok s => .ok (s.leaveGang s.cur)

/-- `task.exit` (R300). -/
def execTaskExit (s : State) : Res :=
  onContext s (orBegun (
    if s.me.bar.bpend then raise 0x56 (s.me.task.tgang.setWidth 64) s
    else if s.me.task.tjoin ≠ 0 && s.joinWaits s.me.task.tjoin then stall .window s
    else untilRoom s <|
      match exitTask s with
      | .error t => takeTrap t s
      | .ok s => lookForWork 0 true false .taskExit s) s)

/-- A search of parked hart k outside the issue slot (R274, R295): it takes a record, or goes on when an interrupt
that cannot be taken waits; otherwise it stays parked, though a Lodestar may have heard of a victim passed over (R292). A
hart of a fenced core does nothing (R356). -/
def State.popWake (s : State) (k : Nat) (rd : BitVec 5) (nosteal : Bool) (p : Park) : Res :=
  if !s.runs k then .next s else
  match untilRoomStep s (lookForWork rd true nosteal p { s with cur := k }) with
  | .next t => if (t.hart k).park = some p && t.clusters = s.clusters then .next s else .next t
  | r => r

/-- TASK_POP_WAKE. -/
def execTaskPopWake (hart : Nat) (s : State) : Res :=
  match (s.hart hart).park with
  | some (.taskPop rd nosteal) => s.popWake hart rd nosteal (.taskPop rd nosteal)
  | some .taskExit => s.popWake hart 0 false .taskExit
  | _ => .next s

/-- CONTINUATION_DEFERRED (R299, R358): Lodestar places a record it keeps as soon as its store has room: the oldest
continuation, and once it keeps none of those, the oldest record of a repaired core. -/
def execContinuationDeferred (cl : Nat) (s : State) : Res :=
  let c := s.cluster cl
  if 256 ≤ c.pls.length then .next s
  else
    match c.held, c.moved with
    | r :: rest, _ => .next (s.setCluster cl { c with pls := c.pls ++ [⟨r, 0⟩], held := rest })
    | [], r :: rest => .next (s.setCluster cl { c with pls := c.pls ++ [⟨r, 0⟩], moved := rest })
    | [], [] => .next s

end Sys2Proof.Machine
end

