-- ==== Sys2Proof/Machine/Dispatch.lean ====
section
/-!
DEFINITION. Machine/Dispatch.lean: the one place where an instruction or an event meets its meaning.
-/

namespace Sys2Proof.Machine

def exec (i : Instr) (s : State) : Host.Outcome State Fault Refusal :=
  match i with
  | .lui rd imm => Sys2Proof.Machine.execLui rd imm s
  | .auipc rd imm => Sys2Proof.Machine.execAuipc rd imm s
  | .addi rd rs1 imm => Sys2Proof.Machine.execAddi rd rs1 imm s
  | .slti rd rs1 imm => Sys2Proof.Machine.execSlti rd rs1 imm s
  | .sltiu rd rs1 imm => Sys2Proof.Machine.execSltiu rd rs1 imm s
  | .xori rd rs1 imm => Sys2Proof.Machine.execXori rd rs1 imm s
  | .ori rd rs1 imm => Sys2Proof.Machine.execOri rd rs1 imm s
  | .andi rd rs1 imm => Sys2Proof.Machine.execAndi rd rs1 imm s
  | .slli rd rs1 sh => Sys2Proof.Machine.execSlli rd rs1 sh s
  | .srli rd rs1 sh => Sys2Proof.Machine.execSrli rd rs1 sh s
  | .srai rd rs1 sh => Sys2Proof.Machine.execSrai rd rs1 sh s
  | .addiw rd rs1 imm => Sys2Proof.Machine.execAddiw rd rs1 imm s
  | .slliw rd rs1 sh => Sys2Proof.Machine.execSlliw rd rs1 sh s
  | .srliw rd rs1 sh => Sys2Proof.Machine.execSrliw rd rs1 sh s
  | .sraiw rd rs1 sh => Sys2Proof.Machine.execSraiw rd rs1 sh s
  | .add rd rs1 rs2 => Sys2Proof.Machine.execAdd rd rs1 rs2 s
  | .sub rd rs1 rs2 => Sys2Proof.Machine.execSub rd rs1 rs2 s
  | .sll rd rs1 rs2 => Sys2Proof.Machine.execSll rd rs1 rs2 s
  | .slt rd rs1 rs2 => Sys2Proof.Machine.execSlt rd rs1 rs2 s
  | .sltu rd rs1 rs2 => Sys2Proof.Machine.execSltu rd rs1 rs2 s
  | .xor rd rs1 rs2 => Sys2Proof.Machine.execXor rd rs1 rs2 s
  | .srl rd rs1 rs2 => Sys2Proof.Machine.execSrl rd rs1 rs2 s
  | .sra rd rs1 rs2 => Sys2Proof.Machine.execSra rd rs1 rs2 s
  | .or rd rs1 rs2 => Sys2Proof.Machine.execOr rd rs1 rs2 s
  | .and rd rs1 rs2 => Sys2Proof.Machine.execAnd rd rs1 rs2 s
  | .mul rd rs1 rs2 => Sys2Proof.Machine.execMul rd rs1 rs2 s
  | .mulh rd rs1 rs2 => Sys2Proof.Machine.execMulh rd rs1 rs2 s
  | .mulhsu rd rs1 rs2 => Sys2Proof.Machine.execMulhsu rd rs1 rs2 s
  | .mulhu rd rs1 rs2 => Sys2Proof.Machine.execMulhu rd rs1 rs2 s
  | .div rd rs1 rs2 => Sys2Proof.Machine.execDiv rd rs1 rs2 s
  | .divu rd rs1 rs2 => Sys2Proof.Machine.execDivu rd rs1 rs2 s
  | .rem rd rs1 rs2 => Sys2Proof.Machine.execRem rd rs1 rs2 s
  | .remu rd rs1 rs2 => Sys2Proof.Machine.execRemu rd rs1 rs2 s
  | .addw rd rs1 rs2 => Sys2Proof.Machine.execAddw rd rs1 rs2 s
  | .subw rd rs1 rs2 => Sys2Proof.Machine.execSubw rd rs1 rs2 s
  | .sllw rd rs1 rs2 => Sys2Proof.Machine.execSllw rd rs1 rs2 s
  | .srlw rd rs1 rs2 => Sys2Proof.Machine.execSrlw rd rs1 rs2 s
  | .sraw rd rs1 rs2 => Sys2Proof.Machine.execSraw rd rs1 rs2 s
  | .mulw rd rs1 rs2 => Sys2Proof.Machine.execMulw rd rs1 rs2 s
  | .divw rd rs1 rs2 => Sys2Proof.Machine.execDivw rd rs1 rs2 s
  | .divuw rd rs1 rs2 => Sys2Proof.Machine.execDivuw rd rs1 rs2 s
  | .remw rd rs1 rs2 => Sys2Proof.Machine.execRemw rd rs1 rs2 s
  | .remuw rd rs1 rs2 => Sys2Proof.Machine.execRemuw rd rs1 rs2 s
  | .beq rs1 rs2 imm => Sys2Proof.Machine.execBeq rs1 rs2 imm s
  | .bne rs1 rs2 imm => Sys2Proof.Machine.execBne rs1 rs2 imm s
  | .blt rs1 rs2 imm => Sys2Proof.Machine.execBlt rs1 rs2 imm s
  | .bge rs1 rs2 imm => Sys2Proof.Machine.execBge rs1 rs2 imm s
  | .bltu rs1 rs2 imm => Sys2Proof.Machine.execBltu rs1 rs2 imm s
  | .bgeu rs1 rs2 imm => Sys2Proof.Machine.execBgeu rs1 rs2 imm s
  | .jal rd imm => Sys2Proof.Machine.execJal rd imm s
  | .jalr rd rs1 imm => Sys2Proof.Machine.execJalr rd rs1 imm s
  | .lb rd rs1 imm => Sys2Proof.Machine.execLb rd rs1 imm s
  | .lh rd rs1 imm => Sys2Proof.Machine.execLh rd rs1 imm s
  | .lw rd rs1 imm => Sys2Proof.Machine.execLw rd rs1 imm s
  | .ld rd rs1 imm => Sys2Proof.Machine.execLd rd rs1 imm s
  | .lbu rd rs1 imm => Sys2Proof.Machine.execLbu rd rs1 imm s
  | .lhu rd rs1 imm => Sys2Proof.Machine.execLhu rd rs1 imm s
  | .lwu rd rs1 imm => Sys2Proof.Machine.execLwu rd rs1 imm s
  | .sb rs1 rs2 imm => Sys2Proof.Machine.execSb rs1 rs2 imm s
  | .sh rs1 rs2 imm => Sys2Proof.Machine.execSh rs1 rs2 imm s
  | .sw rs1 rs2 imm => Sys2Proof.Machine.execSw rs1 rs2 imm s
  | .sd rs1 rs2 imm => Sys2Proof.Machine.execSd rs1 rs2 imm s
  | .fence pred succ => Sys2Proof.Machine.execFence pred succ s
  | .pause => Sys2Proof.Machine.execPause s
  | .fenceI => Sys2Proof.Machine.execFenceI s
  | .csrrw rd rs1 csr => Sys2Proof.Machine.execCsrrw rd rs1 csr s
  | .csrrs rd rs1 csr => Sys2Proof.Machine.execCsrrs rd rs1 csr s
  | .csrrc rd rs1 csr => Sys2Proof.Machine.execCsrrc rd rs1 csr s
  | .csrrwi rd imm csr => Sys2Proof.Machine.execCsrrwi rd imm csr s
  | .csrrsi rd imm csr => Sys2Proof.Machine.execCsrrsi rd imm csr s
  | .csrrci rd imm csr => Sys2Proof.Machine.execCsrrci rd imm csr s
  | .ecall => Sys2Proof.Machine.execEcall s
  | .ebreak => Sys2Proof.Machine.execEbreak s
  | .sret => Sys2Proof.Machine.execSret s
  | .mret => Sys2Proof.Machine.execMret s
  | .wfi => Sys2Proof.Machine.execWfi s
  | .sfenceVma rs1 rs2 => Sys2Proof.Machine.execSfenceVma rs1 rs2 s
  | .lr rd rs1 aq rl ws => Sys2Proof.Machine.execLr rd rs1 aq rl ws s
  | .sc rd rs1 rs2 aq rl ws => Sys2Proof.Machine.execSc rd rs1 rs2 aq rl ws s
  | .amoswap rd rs1 rs2 aq rl ws => Sys2Proof.Machine.execAmoswap rd rs1 rs2 aq rl ws s
  | .amoadd rd rs1 rs2 aq rl ws => Sys2Proof.Machine.execAmoadd rd rs1 rs2 aq rl ws s
  | .amoxor rd rs1 rs2 aq rl ws => Sys2Proof.Machine.execAmoxor rd rs1 rs2 aq rl ws s
  | .amoand rd rs1 rs2 aq rl ws => Sys2Proof.Machine.execAmoand rd rs1 rs2 aq rl ws s
  | .amoor rd rs1 rs2 aq rl ws => Sys2Proof.Machine.execAmoor rd rs1 rs2 aq rl ws s
  | .amomin rd rs1 rs2 aq rl ws => Sys2Proof.Machine.execAmomin rd rs1 rs2 aq rl ws s
  | .amomax rd rs1 rs2 aq rl ws => Sys2Proof.Machine.execAmomax rd rs1 rs2 aq rl ws s
  | .amominu rd rs1 rs2 aq rl ws => Sys2Proof.Machine.execAmominu rd rs1 rs2 aq rl ws s
  | .amomaxu rd rs1 rs2 aq rl ws => Sys2Proof.Machine.execAmomaxu rd rs1 rs2 aq rl ws s
  | .vset rd rs1 z => Sys2Proof.Machine.execVset rd rs1 z s
  | .vsetv rd rs1 rs2 => Sys2Proof.Machine.execVsetv rd rs1 rs2 s
  | .vaddVv vd vs2 vs1 c2 c1 vm => Sys2Proof.Machine.execVaddVv vd vs2 vs1 c2 c1 vm s
  | .vaddVx vd vs2 rs1 c2 vm => Sys2Proof.Machine.execVaddVx vd vs2 rs1 c2 vm s
  | .vaddVi vd vs2 imm c2 vm => Sys2Proof.Machine.execVaddVi vd vs2 imm c2 vm s
  | .vsubVv vd vs2 vs1 c2 c1 vm => Sys2Proof.Machine.execVsubVv vd vs2 vs1 c2 c1 vm s
  | .vsubVx vd vs2 rs1 c2 vm => Sys2Proof.Machine.execVsubVx vd vs2 rs1 c2 vm s
  | .vmulVv vd vs2 vs1 c2 c1 vm => Sys2Proof.Machine.execVmulVv vd vs2 vs1 c2 c1 vm s
  | .vmulVx vd vs2 rs1 c2 vm => Sys2Proof.Machine.execVmulVx vd vs2 rs1 c2 vm s
  | .vmulhVv vd vs2 vs1 c2 c1 vm => Sys2Proof.Machine.execVmulhVv vd vs2 vs1 c2 c1 vm s
  | .vmulhVx vd vs2 rs1 c2 vm => Sys2Proof.Machine.execVmulhVx vd vs2 rs1 c2 vm s
  | .vmulhuVv vd vs2 vs1 c2 c1 vm => Sys2Proof.Machine.execVmulhuVv vd vs2 vs1 c2 c1 vm s
  | .vmulhuVx vd vs2 rs1 c2 vm => Sys2Proof.Machine.execVmulhuVx vd vs2 rs1 c2 vm s
  | .vmaccVv vd vs2 vs1 c2 c1 vm => Sys2Proof.Machine.execVmaccVv vd vs2 vs1 c2 c1 vm s
  | .vmaccVx vd vs2 rs1 c2 vm => Sys2Proof.Machine.execVmaccVx vd vs2 rs1 c2 vm s
  | .vandVv vd vs2 vs1 c2 c1 vm => Sys2Proof.Machine.execVandVv vd vs2 vs1 c2 c1 vm s
  | .vandVx vd vs2 rs1 c2 vm => Sys2Proof.Machine.execVandVx vd vs2 rs1 c2 vm s
  | .vandVi vd vs2 imm c2 vm => Sys2Proof.Machine.execVandVi vd vs2 imm c2 vm s
  | .vorVv vd vs2 vs1 c2 c1 vm => Sys2Proof.Machine.execVorVv vd vs2 vs1 c2 c1 vm s
  | .vorVx vd vs2 rs1 c2 vm => Sys2Proof.Machine.execVorVx vd vs2 rs1 c2 vm s
  | .vorVi vd vs2 imm c2 vm => Sys2Proof.Machine.execVorVi vd vs2 imm c2 vm s
  | .vxorVv vd vs2 vs1 c2 c1 vm => Sys2Proof.Machine.execVxorVv vd vs2 vs1 c2 c1 vm s
  | .vxorVx vd vs2 rs1 c2 vm => Sys2Proof.Machine.execVxorVx vd vs2 rs1 c2 vm s
  | .vxorVi vd vs2 imm c2 vm => Sys2Proof.Machine.execVxorVi vd vs2 imm c2 vm s
  | .vsllVv vd vs2 vs1 c2 c1 vm => Sys2Proof.Machine.execVsllVv vd vs2 vs1 c2 c1 vm s
  | .vsllVx vd vs2 rs1 c2 vm => Sys2Proof.Machine.execVsllVx vd vs2 rs1 c2 vm s
  | .vsllVi vd vs2 imm c2 vm => Sys2Proof.Machine.execVsllVi vd vs2 imm c2 vm s
  | .vsrlVv vd vs2 vs1 c2 c1 vm => Sys2Proof.Machine.execVsrlVv vd vs2 vs1 c2 c1 vm s
  | .vsrlVx vd vs2 rs1 c2 vm => Sys2Proof.Machine.execVsrlVx vd vs2 rs1 c2 vm s
  | .vsrlVi vd vs2 imm c2 vm => Sys2Proof.Machine.execVsrlVi vd vs2 imm c2 vm s
  | .vsraVv vd vs2 vs1 c2 c1 vm => Sys2Proof.Machine.execVsraVv vd vs2 vs1 c2 c1 vm s
  | .vsraVx vd vs2 rs1 c2 vm => Sys2Proof.Machine.execVsraVx vd vs2 rs1 c2 vm s
  | .vsraVi vd vs2 imm c2 vm => Sys2Proof.Machine.execVsraVi vd vs2 imm c2 vm s
  | .vminVv vd vs2 vs1 c2 c1 vm => Sys2Proof.Machine.execVminVv vd vs2 vs1 c2 c1 vm s
  | .vminVx vd vs2 rs1 c2 vm => Sys2Proof.Machine.execVminVx vd vs2 rs1 c2 vm s
  | .vmaxVv vd vs2 vs1 c2 c1 vm => Sys2Proof.Machine.execVmaxVv vd vs2 vs1 c2 c1 vm s
  | .vmaxVx vd vs2 rs1 c2 vm => Sys2Proof.Machine.execVmaxVx vd vs2 rs1 c2 vm s
  | .vminuVv vd vs2 vs1 c2 c1 vm => Sys2Proof.Machine.execVminuVv vd vs2 vs1 c2 c1 vm s
  | .vminuVx vd vs2 rs1 c2 vm => Sys2Proof.Machine.execVminuVx vd vs2 rs1 c2 vm s
  | .vmaxuVv vd vs2 vs1 c2 c1 vm => Sys2Proof.Machine.execVmaxuVv vd vs2 vs1 c2 c1 vm s
  | .vmaxuVx vd vs2 rs1 c2 vm => Sys2Proof.Machine.execVmaxuVx vd vs2 rs1 c2 vm s
  | .vfaddVv vd vs2 vs1 c2 c1 vm => Sys2Proof.Machine.execVfaddVv vd vs2 vs1 c2 c1 vm s
  | .vfaddVf vd vs2 rs1 c2 vm => Sys2Proof.Machine.execVfaddVf vd vs2 rs1 c2 vm s
  | .vfsubVv vd vs2 vs1 c2 c1 vm => Sys2Proof.Machine.execVfsubVv vd vs2 vs1 c2 c1 vm s
  | .vfsubVf vd vs2 rs1 c2 vm => Sys2Proof.Machine.execVfsubVf vd vs2 rs1 c2 vm s
  | .vfmulVv vd vs2 vs1 c2 c1 vm => Sys2Proof.Machine.execVfmulVv vd vs2 vs1 c2 c1 vm s
  | .vfmulVf vd vs2 rs1 c2 vm => Sys2Proof.Machine.execVfmulVf vd vs2 rs1 c2 vm s
  | .vfdivVv vd vs2 vs1 c2 c1 vm => Sys2Proof.Machine.execVfdivVv vd vs2 vs1 c2 c1 vm s
  | .vfdivVf vd vs2 rs1 c2 vm => Sys2Proof.Machine.execVfdivVf vd vs2 rs1 c2 vm s
  | .vfmaccVv vd vs2 vs1 c2 c1 vm => Sys2Proof.Machine.execVfmaccVv vd vs2 vs1 c2 c1 vm s
  | .vfmaccVf vd vs2 rs1 c2 vm => Sys2Proof.Machine.execVfmaccVf vd vs2 rs1 c2 vm s
  | .vfnmaccVv vd vs2 vs1 c2 c1 vm => Sys2Proof.Machine.execVfnmaccVv vd vs2 vs1 c2 c1 vm s
  | .vfnmaccVf vd vs2 rs1 c2 vm => Sys2Proof.Machine.execVfnmaccVf vd vs2 rs1 c2 vm s
  | .vfmsacVv vd vs2 vs1 c2 c1 vm => Sys2Proof.Machine.execVfmsacVv vd vs2 vs1 c2 c1 vm s
  | .vfmsacVf vd vs2 rs1 c2 vm => Sys2Proof.Machine.execVfmsacVf vd vs2 rs1 c2 vm s
  | .vfminVv vd vs2 vs1 c2 c1 vm => Sys2Proof.Machine.execVfminVv vd vs2 vs1 c2 c1 vm s
  | .vfminVf vd vs2 rs1 c2 vm => Sys2Proof.Machine.execVfminVf vd vs2 rs1 c2 vm s
  | .vfmaxVv vd vs2 vs1 c2 c1 vm => Sys2Proof.Machine.execVfmaxVv vd vs2 vs1 c2 c1 vm s
  | .vfmaxVf vd vs2 rs1 c2 vm => Sys2Proof.Machine.execVfmaxVf vd vs2 rs1 c2 vm s
  | .vfsgnjVv vd vs2 vs1 c2 c1 vm => Sys2Proof.Machine.execVfsgnjVv vd vs2 vs1 c2 c1 vm s
  | .vfsgnjVf vd vs2 rs1 c2 vm => Sys2Proof.Machine.execVfsgnjVf vd vs2 rs1 c2 vm s
  | .vfsgnjnVv vd vs2 vs1 c2 c1 vm => Sys2Proof.Machine.execVfsgnjnVv vd vs2 vs1 c2 c1 vm s
  | .vfsgnjnVf vd vs2 rs1 c2 vm => Sys2Proof.Machine.execVfsgnjnVf vd vs2 rs1 c2 vm s
  | .vfsgnjxVv vd vs2 vs1 c2 c1 vm => Sys2Proof.Machine.execVfsgnjxVv vd vs2 vs1 c2 c1 vm s
  | .vfsgnjxVf vd vs2 rs1 c2 vm => Sys2Proof.Machine.execVfsgnjxVf vd vs2 rs1 c2 vm s
  | .vfsqrt vd vs2 c2 vm => Sys2Proof.Machine.execVfsqrt vd vs2 c2 vm s
  | .vfclass vd vs2 c2 vm => Sys2Proof.Machine.execVfclass vd vs2 c2 vm s
  | .vmseqVv vd vs2 vs1 c2 c1 vm => Sys2Proof.Machine.execVmseqVv vd vs2 vs1 c2 c1 vm s
  | .vmseqVx vd vs2 rs1 c2 vm => Sys2Proof.Machine.execVmseqVx vd vs2 rs1 c2 vm s
  | .vmseqVi vd vs2 imm c2 vm => Sys2Proof.Machine.execVmseqVi vd vs2 imm c2 vm s
  | .vmsneVv vd vs2 vs1 c2 c1 vm => Sys2Proof.Machine.execVmsneVv vd vs2 vs1 c2 c1 vm s
  | .vmsneVx vd vs2 rs1 c2 vm => Sys2Proof.Machine.execVmsneVx vd vs2 rs1 c2 vm s
  | .vmsneVi vd vs2 imm c2 vm => Sys2Proof.Machine.execVmsneVi vd vs2 imm c2 vm s
  | .vmsltVv vd vs2 vs1 c2 c1 vm => Sys2Proof.Machine.execVmsltVv vd vs2 vs1 c2 c1 vm s
  | .vmsltVx vd vs2 rs1 c2 vm => Sys2Proof.Machine.execVmsltVx vd vs2 rs1 c2 vm s
  | .vmsltuVv vd vs2 vs1 c2 c1 vm => Sys2Proof.Machine.execVmsltuVv vd vs2 vs1 c2 c1 vm s
  | .vmsltuVx vd vs2 rs1 c2 vm => Sys2Proof.Machine.execVmsltuVx vd vs2 rs1 c2 vm s
  | .vmsleVv vd vs2 vs1 c2 c1 vm => Sys2Proof.Machine.execVmsleVv vd vs2 vs1 c2 c1 vm s
  | .vmsleVx vd vs2 rs1 c2 vm => Sys2Proof.Machine.execVmsleVx vd vs2 rs1 c2 vm s
  | .vmsleVi vd vs2 imm c2 vm => Sys2Proof.Machine.execVmsleVi vd vs2 imm c2 vm s
  | .vmsleuVv vd vs2 vs1 c2 c1 vm => Sys2Proof.Machine.execVmsleuVv vd vs2 vs1 c2 c1 vm s
  | .vmsleuVx vd vs2 rs1 c2 vm => Sys2Proof.Machine.execVmsleuVx vd vs2 rs1 c2 vm s
  | .vmsleuVi vd vs2 imm c2 vm => Sys2Proof.Machine.execVmsleuVi vd vs2 imm c2 vm s
  | .vsaddVv vd vs2 vs1 c2 c1 vm => Sys2Proof.Machine.execVsaddVv vd vs2 vs1 c2 c1 vm s
  | .vsaddVx vd vs2 rs1 c2 vm => Sys2Proof.Machine.execVsaddVx vd vs2 rs1 c2 vm s
  | .vsaddVi vd vs2 imm c2 vm => Sys2Proof.Machine.execVsaddVi vd vs2 imm c2 vm s
  | .vsadduVv vd vs2 vs1 c2 c1 vm => Sys2Proof.Machine.execVsadduVv vd vs2 vs1 c2 c1 vm s
  | .vsadduVx vd vs2 rs1 c2 vm => Sys2Proof.Machine.execVsadduVx vd vs2 rs1 c2 vm s
  | .vsadduVi vd vs2 imm c2 vm => Sys2Proof.Machine.execVsadduVi vd vs2 imm c2 vm s
  | .vssubVv vd vs2 vs1 c2 c1 vm => Sys2Proof.Machine.execVssubVv vd vs2 vs1 c2 c1 vm s
  | .vssubVx vd vs2 rs1 c2 vm => Sys2Proof.Machine.execVssubVx vd vs2 rs1 c2 vm s
  | .vssubuVv vd vs2 vs1 c2 c1 vm => Sys2Proof.Machine.execVssubuVv vd vs2 vs1 c2 c1 vm s
  | .vssubuVx vd vs2 rs1 c2 vm => Sys2Proof.Machine.execVssubuVx vd vs2 rs1 c2 vm s
  | .vdivVv vd vs2 vs1 c2 c1 vm => Sys2Proof.Machine.execVdivVv vd vs2 vs1 c2 c1 vm s
  | .vdivVx vd vs2 rs1 c2 vm => Sys2Proof.Machine.execVdivVx vd vs2 rs1 c2 vm s
  | .vdivuVv vd vs2 vs1 c2 c1 vm => Sys2Proof.Machine.execVdivuVv vd vs2 vs1 c2 c1 vm s
  | .vdivuVx vd vs2 rs1 c2 vm => Sys2Proof.Machine.execVdivuVx vd vs2 rs1 c2 vm s
  | .vremVv vd vs2 vs1 c2 c1 vm => Sys2Proof.Machine.execVremVv vd vs2 vs1 c2 c1 vm s
  | .vremVx vd vs2 rs1 c2 vm => Sys2Proof.Machine.execVremVx vd vs2 rs1 c2 vm s
  | .vremuVv vd vs2 vs1 c2 c1 vm => Sys2Proof.Machine.execVremuVv vd vs2 vs1 c2 c1 vm s
  | .vremuVx vd vs2 rs1 c2 vm => Sys2Proof.Machine.execVremuVx vd vs2 rs1 c2 vm s
  | .vmergeVv vd vs2 vs1 c2 c1 => Sys2Proof.Machine.execVmergeVv vd vs2 vs1 c2 c1 s
  | .vmergeVx vd vs2 rs1 c2 => Sys2Proof.Machine.execVmergeVx vd vs2 rs1 c2 s
  | .vmergeVi vd vs2 imm c2 => Sys2Proof.Machine.execVmergeVi vd vs2 imm c2 s
  | .vmvVv vd vs1 c1 => Sys2Proof.Machine.execVmvVv vd vs1 c1 s
  | .vmvVx vd rs1 => Sys2Proof.Machine.execVmvVx vd rs1 s
  | .vmvVi vd imm => Sys2Proof.Machine.execVmvVi vd imm s
  | .vmfeq vd vs2 vs1 c2 c1 vm => Sys2Proof.Machine.execVmfeq vd vs2 vs1 c2 c1 vm s
  | .vmfne vd vs2 vs1 c2 c1 vm => Sys2Proof.Machine.execVmfne vd vs2 vs1 c2 c1 vm s
  | .vmflt vd vs2 vs1 c2 c1 vm => Sys2Proof.Machine.execVmflt vd vs2 vs1 c2 c1 vm s
  | .vmfle vd vs2 vs1 c2 c1 vm => Sys2Proof.Machine.execVmfle vd vs2 vs1 c2 c1 vm s
  | .vmand vd vs2 vs1 c2 c1 => Sys2Proof.Machine.execVmand vd vs2 vs1 c2 c1 s
  | .vmor vd vs2 vs1 c2 c1 => Sys2Proof.Machine.execVmor vd vs2 vs1 c2 c1 s
  | .vmxor vd vs2 vs1 c2 c1 => Sys2Proof.Machine.execVmxor vd vs2 vs1 c2 c1 s
  | .vmandn vd vs2 vs1 c2 c1 => Sys2Proof.Machine.execVmandn vd vs2 vs1 c2 c1 s
  | .vcpop rd vs2 c2 => Sys2Proof.Machine.execVcpop rd vs2 c2 s
  | .vfirst rd vs2 c2 => Sys2Proof.Machine.execVfirst rd vs2 c2 s
  | .viota vd vs2 c2 vm => Sys2Proof.Machine.execViota vd vs2 c2 vm s
  | .vid vd vm => Sys2Proof.Machine.execVid vd vm s
  | .vredsum vd vs2 vs1 c2 c1 vm => Sys2Proof.Machine.execVredsum vd vs2 vs1 c2 c1 vm s
  | .vredmax vd vs2 vs1 c2 c1 vm => Sys2Proof.Machine.execVredmax vd vs2 vs1 c2 c1 vm s
  | .vredmin vd vs2 vs1 c2 c1 vm => Sys2Proof.Machine.execVredmin vd vs2 vs1 c2 c1 vm s
  | .vredmaxu vd vs2 vs1 c2 c1 vm => Sys2Proof.Machine.execVredmaxu vd vs2 vs1 c2 c1 vm s
  | .vredminu vd vs2 vs1 c2 c1 vm => Sys2Proof.Machine.execVredminu vd vs2 vs1 c2 c1 vm s
  | .vredand vd vs2 vs1 c2 c1 vm => Sys2Proof.Machine.execVredand vd vs2 vs1 c2 c1 vm s
  | .vredor vd vs2 vs1 c2 c1 vm => Sys2Proof.Machine.execVredor vd vs2 vs1 c2 c1 vm s
  | .vredxor vd vs2 vs1 c2 c1 vm => Sys2Proof.Machine.execVredxor vd vs2 vs1 c2 c1 vm s
  | .vfredsum vd vs2 vs1 c2 c1 vm => Sys2Proof.Machine.execVfredsum vd vs2 vs1 c2 c1 vm s
  | .vfredmax vd vs2 vs1 c2 c1 vm => Sys2Proof.Machine.execVfredmax vd vs2 vs1 c2 c1 vm s
  | .vfredmin vd vs2 vs1 c2 c1 vm => Sys2Proof.Machine.execVfredmin vd vs2 vs1 c2 c1 vm s
  | .vslideup vd vs2 rs1 c2 vm => Sys2Proof.Machine.execVslideup vd vs2 rs1 c2 vm s
  | .vslidedown vd vs2 rs1 c2 vm => Sys2Proof.Machine.execVslidedown vd vs2 rs1 c2 vm s
  | .vslide1up vd vs2 rs1 c2 vm => Sys2Proof.Machine.execVslide1up vd vs2 rs1 c2 vm s
  | .vslide1down vd vs2 rs1 c2 vm => Sys2Proof.Machine.execVslide1down vd vs2 rs1 c2 vm s
  | .vrgather vd vs2 vs1 c2 c1 vm => Sys2Proof.Machine.execVrgather vd vs2 vs1 c2 c1 vm s
  | .vcompress vd vs2 vs1 c2 c1 => Sys2Proof.Machine.execVcompress vd vs2 vs1 c2 c1 s
  | .vmvxs rd vs2 c2 => Sys2Proof.Machine.execVmvxs rd vs2 c2 s
  | .vmvsx vd rs1 => Sys2Proof.Machine.execVmvsx vd rs1 s
  | .vcvt vd vs2 w f c2 vm => Sys2Proof.Machine.execVcvt vd vs2 w f c2 vm s
  | .vfrsqrt vd vs2 c2 vm => Sys2Proof.Machine.execVfrsqrt vd vs2 c2 vm s
  | .vfrcp vd vs2 c2 vm => Sys2Proof.Machine.execVfrcp vd vs2 c2 vm s
  | .vfexp2 vd vs2 c2 vm => Sys2Proof.Machine.execVfexp2 vd vs2 c2 vm s
  | .vflog2 vd vs2 c2 vm => Sys2Proof.Machine.execVflog2 vd vs2 c2 vm s
  | .vfsin vd vs2 c2 vm => Sys2Proof.Machine.execVfsin vd vs2 c2 vm s
  | .vfcos vd vs2 c2 vm => Sys2Proof.Machine.execVfcos vd vs2 c2 vm s
  | .vmpush vs1 c1 => Sys2Proof.Machine.execVmpush vs1 c1 s
  | .vmelse => Sys2Proof.Machine.execVmelse s
  | .vmpop => Sys2Proof.Machine.execVmpop s
  | .vfchk vs1 c1 => Sys2Proof.Machine.execVfchk vs1 c1 s
  | .vfmclr => Sys2Proof.Machine.execVfmclr s
  | .vappend vs2 rs1 c2 vm => Sys2Proof.Machine.execVappend vs2 rs1 c2 vm s
  | .vle vd rs1 w vm => Sys2Proof.Machine.execVle vd rs1 w vm s
  | .vleS vd rs1 w => Sys2Proof.Machine.execVleS vd rs1 w s
  | .vlse vd rs1 rs2 w vm => Sys2Proof.Machine.execVlse vd rs1 rs2 w vm s
  | .vlseS vd rs1 rs2 w => Sys2Proof.Machine.execVlseS vd rs1 rs2 w s
  | .vlxe vd vs2 rs1 w vm => Sys2Proof.Machine.execVlxe vd vs2 rs1 w vm s
  | .vlxeS vd vs2 rs1 w => Sys2Proof.Machine.execVlxeS vd vs2 rs1 w s
  | .vse vs3 rs1 w vm => Sys2Proof.Machine.execVse vs3 rs1 w vm s
  | .vsse vs3 rs1 rs2 w vm => Sys2Proof.Machine.execVsse vs3 rs1 rs2 w vm s
  | .vsxe vs3 vs2 rs1 w vm => Sys2Proof.Machine.execVsxe vs3 vs2 rs1 w vm s
  | .mset rd rs1 => Sys2Proof.Machine.execMset rd rs1 s
  | .mrel rs1 => Sys2Proof.Machine.execMrel rs1 s
  | .mzero g => Sys2Proof.Machine.execMzero g s
  | .mopa g vs2 vs1 => Sys2Proof.Machine.execMopa g vs2 vs1 s
  | .mops g vs2 vs1 => Sys2Proof.Machine.execMops g vs2 vs1 s
  | .mopai g vs2 vs1 => Sys2Proof.Machine.execMopai g vs2 vs1 s
  | .mrd vd g rs1 => Sys2Proof.Machine.execMrd vd g rs1 s
  | .mwr g vs2 rs1 => Sys2Proof.Machine.execMwr g vs2 rs1 s
  | .mrdc vd g rs1 => Sys2Proof.Machine.execMrdc vd g rs1 s
  | .mwrc g vs2 rs1 => Sys2Proof.Machine.execMwrc g vs2 rs1 s
  | .mdot vd grp vs2 vs1 => Sys2Proof.Machine.execMdot vd grp vs2 vs1 s
  | .vmaxexp vs2 vm => Sys2Proof.Machine.execVmaxexp vs2 vm s
  | .vqst vs3 rs1 vm => Sys2Proof.Machine.execVqst vs3 rs1 vm s
  | .vqst2 vs3 rs1 vm => Sys2Proof.Machine.execVqst2 vs3 rs1 vm s
  | .vqsave rs1 => Sys2Proof.Machine.execVqsave rs1 s
  | .vqload rs1 => Sys2Proof.Machine.execVqload rs1 s
  | .vscsave rs1 => Sys2Proof.Machine.execVscsave rs1 s
  | .vscload rs1 => Sys2Proof.Machine.execVscload rs1 s
  | .vqclr => Sys2Proof.Machine.execVqclr s
  | .taskSpawn rd rs1 => Sys2Proof.Machine.execTaskSpawn rd rs1 s
  | .taskSpawnt rs1 => Sys2Proof.Machine.execTaskSpawnt rs1 s
  | .taskFork rd rs1 => Sys2Proof.Machine.execTaskFork rd rs1 s
  | .taskForkt rs1 => Sys2Proof.Machine.execTaskForkt rs1 s
  | .taskPop rd rs1 => Sys2Proof.Machine.execTaskPop rd rs1 s
  | .taskJoin rd rs1 scope => Sys2Proof.Machine.execTaskJoin rd rs1 scope s
  | .taskExit => Sys2Proof.Machine.execTaskExit s
  | .gbarArrive rd rs1 n => Sys2Proof.Machine.execGbarArrive rd rs1 n s
  | .gbarMax rd rs1 n => Sys2Proof.Machine.execGbarMax rd rs1 n s
  | .gbarMin rd rs1 n => Sys2Proof.Machine.execGbarMin rd rs1 n s
  | .gbarAdd rd rs1 n => Sys2Proof.Machine.execGbarAdd rd rs1 n s
  | .gbarOr rd rs1 n => Sys2Proof.Machine.execGbarOr rd rs1 n s
  | .msgSend rd rs1 rs2 scope => Sys2Proof.Machine.execMsgSend rd rs1 rs2 scope s
  | .msgSendt rs1 rs2 scope => Sys2Proof.Machine.execMsgSendt rs1 rs2 scope s
  | .msgDone => Sys2Proof.Machine.execMsgDone s
  | .wait rd rs1 rs2 scope => Sys2Proof.Machine.execWait rd rs1 rs2 scope s
  | .fenceS scope pred succ => Sys2Proof.Machine.execFenceS scope pred succ s
  | .pub rs1 => Sys2Proof.Machine.execPub rs1 s
  | .ldaW rd rs1 scope => Sys2Proof.Machine.execLdaW rd rs1 scope s
  | .ldaD rd rs1 scope => Sys2Proof.Machine.execLdaD rd rs1 scope s
  | .stlW rs1 rs2 scope => Sys2Proof.Machine.execStlW rs1 rs2 scope s
  | .stlD rs1 rs2 scope => Sys2Proof.Machine.execStlD rs1 rs2 scope s
  | .aqNotify rs1 rs2 scope => Sys2Proof.Machine.execAqNotify rs1 rs2 scope s
  | .tcopy rd rs1 scope => Sys2Proof.Machine.execTcopy rd rs1 scope s
  | .cmAcq rd rs1 rs2 => Sys2Proof.Machine.execCmAcq rd rs1 rs2 s
  | .strmSet rs1 k => Sys2Proof.Machine.execStrmSet rs1 k s
  | .vtex vd vs2 rs1 vm => Sys2Proof.Machine.execVtex vd vs2 rs1 vm s
  | .vrayq vd vs2 rs1 vm => Sys2Proof.Machine.execVrayq vd vs2 rs1 vm s
  | .vrayo vd vs2 rs1 vm => Sys2Proof.Machine.execVrayo vd vs2 rs1 vm s
  | .vsobol vd vs2 rs1 vm => Sys2Proof.Machine.execVsobol vd vs2 rs1 vm s
  | .vvbmin vd vs2 rs1 vm => Sys2Proof.Machine.execVvbmin vd vs2 rs1 vm s
  | .vblend vd vs2 rs1 vm => Sys2Proof.Machine.execVblend vd vs2 rs1 vm s
  | .rcQ vd vs2 vm => Sys2Proof.Machine.execRcQ vd vs2 vm s
  | .rcQt vd vs2 vs1 vm => Sys2Proof.Machine.execRcQt vd vs2 vs1 vm s
  | .fwRing rd rs1 rs2 => Sys2Proof.Machine.execFwRing rd rs1 rs2 s
  | .fwBext rd rs1 lo len1 => Sys2Proof.Machine.execFwBext rd rs1 lo len1 s
  | .fwSwait rd rs1 => Sys2Proof.Machine.execFwSwait rd rs1 s
  | .fwDisp rd rs1 rs2 => Sys2Proof.Machine.execFwDisp rd rs1 rs2 s
  | .fwQcbld rd rs1 => Sys2Proof.Machine.execFwQcbld rd rs1 s
  | .fwQcbst rs1 rs2 => Sys2Proof.Machine.execFwQcbst rs1 rs2 s
  | .matrixQueueExecute core => Sys2Proof.Machine.execMatrixQueueExecute core s
  | .copyElementMove core n => Sys2Proof.Machine.execCopyElementMove core n s
  | .chunkComplete core n => Sys2Proof.Machine.execChunkComplete core n s
  | .copyComplete core n => Sys2Proof.Machine.execCopyComplete core n s
  | .copyFault core n => Sys2Proof.Machine.execCopyFault core n s
  | .streamRefill hart k el => Sys2Proof.Machine.execStreamRefill hart k el s
  | .deferredException hart => Sys2Proof.Machine.execDeferredException hart s
  | .interrupt hart => Sys2Proof.Machine.execInterrupt hart s
  | .cycleCompare hart => Sys2Proof.Machine.execCycleCompare hart s
  | .wfiWake hart => Sys2Proof.Machine.execWfiWake hart s
  | .waitWake hart => Sys2Proof.Machine.execWaitWake hart s
  | .cmAcqWake hart => Sys2Proof.Machine.execCmAcqWake hart s
  | .taskPopWake hart => Sys2Proof.Machine.execTaskPopWake hart s
  | .gbarWake hart => Sys2Proof.Machine.execGbarWake hart s
  | .fwSwaitWake hart => Sys2Proof.Machine.execFwSwaitWake hart s
  | .preemptionRequest hart => Sys2Proof.Machine.execPreemptionRequest hart s
  | .saveComplete hart => Sys2Proof.Machine.execSaveComplete hart s
  | .ctxSave hart => Sys2Proof.Machine.execCtxSave hart s
  | .ctxRestore cmd => Sys2Proof.Machine.execCtxRestore cmd s
  | .restoreComplete hart => Sys2Proof.Machine.execRestoreComplete hart s
  | .ctxRetire hart => Sys2Proof.Machine.execCtxRetire hart s
  | .retireComplete hart => Sys2Proof.Machine.execRetireComplete hart s
  | .lsevt0Pop cl => Sys2Proof.Machine.execLsevt0Pop cl s
  | .messageArrival n => Sys2Proof.Machine.execMessageArrival n s
  | .messageRun core => Sys2Proof.Machine.execMessageRun core s
  | .messageLimit core => Sys2Proof.Machine.execMessageLimit core s
  | .contextFreeNotice n => Sys2Proof.Machine.execContextFreeNotice n s
  | .uncountedResend hart dest => Sys2Proof.Machine.execUncountedResend hart dest s
  | .notify n => Sys2Proof.Machine.execNotify n s
  | .hostPacing n => Sys2Proof.Machine.execHostPacing n s
  | .lodestarDoorbell n => Sys2Proof.Machine.execLodestarDoorbell n s
  | .presentationReferenceEdge part => Sys2Proof.Machine.execPresentationReferenceEdge part s
  | .agentNop ag q => Sys2Proof.Machine.execAgentNop ag q s
  | .bicubic ag q => Sys2Proof.Machine.execBicubic ag q s
  | .bilinear ag q => Sys2Proof.Machine.execBilinear ag q s
  | .dicingRecordEmit ag => Sys2Proof.Machine.execDicingRecordEmit ag s
  | .grid ag q => Sys2Proof.Machine.execGrid ag q s
  | .triangle ag q => Sys2Proof.Machine.execTriangle ag q s
  | .blend ag q => Sys2Proof.Machine.execBlend ag q s
  | .present ag q => Sys2Proof.Machine.execPresent ag q s
  | .presentSettle ag q => Sys2Proof.Machine.execPresentSettle ag q s
  | .aqctlEnable ag q v => Sys2Proof.Machine.execAqctlEnable ag q v s
  | .aqctlDisable ag q v => Sys2Proof.Machine.execAqctlDisable ag q v s
  | .aqheadWrite ag q v => Sys2Proof.Machine.execAqheadWrite ag q v s
  | .hwEnable part n v => Sys2Proof.Machine.execHwEnable part n v s
  | .hwDisable part n v => Sys2Proof.Machine.execHwDisable part n v s
  | .hwverWrite part n v => Sys2Proof.Machine.execHwverWrite part n v s
  | .rcBind cl v => Sys2Proof.Machine.execRcBind cl v s
  | .rcLoadComplete cl => Sys2Proof.Machine.execRcLoadComplete cl s
  | .rcUnbind cl => Sys2Proof.Machine.execRcUnbind cl s
  | .rcWritebackRequest cl v => Sys2Proof.Machine.execRcWritebackRequest cl v s
  | .rcWriteback cl => Sys2Proof.Machine.execRcWriteback cl s
  | .afterglowStep cl => Sys2Proof.Machine.execAfterglowStep cl s
  | .rcPublish cl => Sys2Proof.Machine.execRcPublish cl s
  | .tlbinv cl v => Sys2Proof.Machine.execTlbinv cl v s
  | .wdpet part hart => Sys2Proof.Machine.execWdpet part hart s
  | .vlpWrite cl v => Sys2Proof.Machine.execVlpWrite cl v s
  | .vlpApply core => Sys2Proof.Machine.execVlpApply core s
  | .lmsplitWrite core v => Sys2Proof.Machine.execLmsplitWrite core v s
  | .lmgroupWrite core v => Sys2Proof.Machine.execLmgroupWrite core v s
  | .lmfmtWrite core n v => Sys2Proof.Machine.execLmfmtWrite core n v s
  | .cflagsClear cl v => Sys2Proof.Machine.execCflagsClear cl v s
  | .flagUnion cl => Sys2Proof.Machine.execFlagUnion cl s
  | .fwkpendClear iod v => Sys2Proof.Machine.execFwkpendClear iod v s
  | .fwalmWrite iod v => Sys2Proof.Machine.execFwalmWrite iod v s
  | .fwsmapBind iod n v => Sys2Proof.Machine.execFwsmapBind iod n v s
  | .fwsmapUnbind iod n => Sys2Proof.Machine.execFwsmapUnbind iod n s
  | .fwpaceWrite iod v => Sys2Proof.Machine.execFwpaceWrite iod v s
  | .scyccmpWrite hart v => Sys2Proof.Machine.execScyccmpWrite hart v s
  | .sipNotifyClear hart v => Sys2Proof.Machine.execSipNotifyClear hart v s
  | .strmctlWrite hart v => Sys2Proof.Machine.execStrmctlWrite hart v s
  | .registerWrite hart addr v => Sys2Proof.Machine.execRegisterWrite hart addr v s
  | .hostKick port addr v => Sys2Proof.Machine.execHostKick port addr v s
  | .kickRestart iod n => Sys2Proof.Machine.execKickRestart iod n s
  | .bitmapStoreRetry iod => Sys2Proof.Machine.execBitmapStoreRetry iod s
  | .schedulingRound iod => Sys2Proof.Machine.execSchedulingRound iod s
  | .launch iod n => Sys2Proof.Machine.execLaunch iod n s
  | .signal iod n => Sys2Proof.Machine.execSignal iod n s
  | .pace iod n => Sys2Proof.Machine.execPace iod n s
  | .nop iod n => Sys2Proof.Machine.execNop iod n s
  | .unservedRecord cl n => Sys2Proof.Machine.execUnservedRecord cl n s
  | .continuationDeferred cl => Sys2Proof.Machine.execContinuationDeferred cl s
  | .svcAttach hart => Sys2Proof.Machine.execSvcAttach hart s
  | .svcReply hart => Sys2Proof.Machine.execSvcReply hart s
  | .qcbWrite hart => Sys2Proof.Machine.execQcbWrite hart s
  | .svcForwarded hart => Sys2Proof.Machine.execSvcForwarded hart s
  | .serviceRingRound cl => Sys2Proof.Machine.execServiceRingRound cl s
  | .watchdogExpiry part => Sys2Proof.Machine.execWatchdogExpiry part s
  | .uncorrectableSramError core addr => Sys2Proof.Machine.execUncorrectableSramError core addr s
  | .registerFileParityError core n => Sys2Proof.Machine.execRegisterFileParityError core n s
  | .uncorrectableTierMemoryError hart addr => Sys2Proof.Machine.execUncorrectableTierMemoryError hart addr s
  | .correctableError n => Sys2Proof.Machine.execCorrectableError n s
  | .coreFenced core => Sys2Proof.Machine.execCoreFenced core s
  | .coreRepair core => Sys2Proof.Machine.execCoreRepair core s
  | .lockInterfaceRequest part => Sys2Proof.Machine.execLockInterfaceRequest part s
  | .startInterfaceRequest part => Sys2Proof.Machine.execStartInterfaceRequest part s
  | .stopInterfaceRequest part => Sys2Proof.Machine.execStopInterfaceRequest part s
  | .hostMemoryRequest port strm wr addr v => Sys2Proof.Machine.execHostMemoryRequest port strm wr addr v s
  | .ownershipFlipToHost page => Sys2Proof.Machine.execOwnershipFlipToHost page s
  | .ownershipFlipToDevice page => Sys2Proof.Machine.execOwnershipFlipToDevice page s
  | .fabricRemoteOperation src seq op addr v => Sys2Proof.Machine.execFabricRemoteOperation src seq op addr v s
  | .flitFailure link part tag => Sys2Proof.Machine.execFlitFailure link part tag s
  | .linkRetrain link lane => Sys2Proof.Machine.execLinkRetrain link lane s
  | .keyUpdate link dir => Sys2Proof.Machine.execKeyUpdate link dir s
  | .coreThrottle die n => Sys2Proof.Machine.execCoreThrottle die n s
  | .deviceReset => Sys2Proof.Machine.execDeviceReset s
  | .boot img => Sys2Proof.Machine.execBoot img s
  | .getMeasurements n => Sys2Proof.Machine.execGetMeasurements n s
  | .mgmtReadIdentity => Sys2Proof.Machine.execMgmtReadIdentity s
  | .mgmtReadTelemetry => Sys2Proof.Machine.execMgmtReadTelemetry s
  | .mgmtResetRequest => Sys2Proof.Machine.execMgmtResetRequest s
  | .illegalInstruction w => Sys2Proof.Machine.execIllegalInstruction w s
  | .instructionFetchFault cause addr => Sys2Proof.Machine.execInstructionFetchFault cause addr s
  | .uncorrectableError kind n addr => Sys2Proof.Machine.execUncorrectableError kind n addr s
  | .coreRailSetting die temp => Sys2Proof.Machine.execCoreRailSetting die temp s
  | .linkKeyInstall part link secret => Sys2Proof.Machine.execLinkKeyInstall part link secret s

end Sys2Proof.Machine
end

