-- ==== Sys2Proof/Machine/Issue.lean ====
section
/-!
DEFINITION. Machine/Issue.lean: how a hart comes to execute an instruction: fetching (R101, R189, R323), what it takes at
an instruction boundary (R326), the issue slot of a core (R274 to R278), and the device's own steps when nothing
else is said to move.
-/

namespace Sys2Proof.Machine

/-! ### Which harts run -/

/-- Time passes for the core of a hart: one cycle, and as many more as the manual leaves open (R279). -/
def State.tick (s : State) (k : Nat) : State :=
  let n := BitVec.ofNat 64 (1 + Config.stall s.free)
  let s := s.bump
  if isMach k then s.modHart k (fun h => { h with cycle := h.cycle + n })
  else s.modCore (coreOf k) (fun c => { c with cycle := c.cycle + n })

/-! ### Fetching -/

/-- The line of a domain address as the instruction cache of core c gives it (R101, R189): as it was when it was fetched, or
as memory has it now; which of the two, where they differ, is left open until `fence.i`. -/
def State.fetchLine (s : State) (c pa : Nat) : BitVec 512 :=
  let now := s.lineAt (s.home (some c) pa / 64)
  match (s.core c).icache.find? (fun e => e.1 = s.home (some c) pa / 64) with
  | some e => if e.2 = now then now else if Config.useFetched s.free then e.2 else now
  | none => now

/-- The core whose instruction cache holds what hart k fetches; Lodestar and Orrery cores have none (R7, R9). -/
def icacheOf (k : Nat) : Option Nat := if isMach k then none else some (coreOf k)

/-- The word at a domain address as hart k fetches it. -/
def State.fetchWord (s : State) (k pa : Nat) : W32 :=
  match icacheOf k with
  | some c => bits (s.fetchLine c pa) (8 * (pa % 64)) 32
  | none => BitVec.ofNat 32 (s.readPa none pa 4)

/-- The cache of core c after a fetch: its 1,024 most recently fetched lines. -/
def State.keepLine (s : State) (c pa : Nat) : State :=
  let a := s.home (some c) pa / 64
  let l := s.fetchLine c pa
  s.modCore c (fun x => { x with icache := ((a, l) :: x.icache.filter (fun e => e.1 ≠ a)).take 1024 })

/-- The word a hart fetches at its `pc`, or the exception of the fetch (R189, R323). -/
def State.fetch (s : State) (k : Nat) : Except Trap W32 :=
  match s.check (s.whoHart k) .fetch .fetch 4 (s.hart k).pc with
  | .error t => .error t
  | .ok pa => .ok (s.fetchWord k pa)

/-- What a fetch leaves in the translation caches and in the instruction cache. -/
def State.keepFetch (s : State) (k : Nat) : State :=
  let w := s.whoHart k
  let va := (s.hart k).pc
  match icacheOf k, s.check w .fetch .fetch 4 va with
  | some c, .ok pa => (s.keepLine c pa).cache w .fetch va
  | _, _ => s.cache w .fetch va

/-- The state in which hart k executes a fetched word. -/
def State.fetched (s : State) (k : Nat) (w : W32) : State := { (s.keepFetch k).tick k with cur := k, ir := w }

/-- Hart k decodes and executes a word, in the state after its fetch. -/
noncomputable def runWord (s : State) (k : Nat) (w : W32) : Res :=
  match decode (isOrr k) w with
  | .error _ => exec (.illegalInstruction w) s
  | .ok i => exec i s

/-- Hart k fetches, decodes and executes its next instruction. An uncorrectable error in the line enters no handler of
Lodestar or Orrery (R329): the word is left open, once there is room for the event. -/
noncomputable def fetchStep (s : State) (k : Nat) : Res :=
  match s.fetch k with
  | .ok w => runWord (s.fetched k w) k w
  | .error t =>
    if isMach k && t.cause = 0xD5 then
      let w := (Config.badLoad s.free).setWidth 32
      if s.eventRoom (s.machEventAt k (s.rangeOwner (localOf t.tval.toNat)))
      then runWord { (s.bump.machError k t.tval).tick k with cur := k, ir := w } k w
      else stall .event { s with cur := k }
    else exec (.instructionFetchFault t.cause t.tval.toNat) { s.tick k with cur := k }

/-! ### The boundary (R326) -/

/-- The event a hart takes at its boundary, if any, in the order of R326. -/
noncomputable def State.boundary (s : State) (k : Nat) : Option Instr :=
  match s.due k with
  | some .save => some (.preemptionRequest k)
  | some .deferred => some (.deferredException k)
  | some .interrupt => some (.interrupt k)
  | none => none

/-- Hart k waits outside its instructions: it is parked, an append's deferred exception waits for room (R325), or it is a
Lodestar whose write of `vlp` waits (R27). -/
def State.idles (s : State) (k : Nat) : Bool :=
  let h := s.hart k
  h.park.isSome || h.waiting.any (fun w => w.src = .append) ||
    (h.stall = some .drain && (upto 8).any (fun n => (s.core (coreAt (clusterOf k) n)).vlpWait.isSome))

/-- The next instruction of hart k, or the end of a message that has run for too long (R266). -/
noncomputable def instrStep (s : State) (k : Nat) : Res :=
  if isMsg k && (match (s.core (coreOf k)).running with
      | some r => 65536 ≤ r.count
      | none => false)
  then exec (.messageLimit (coreOf k)) { s with cur := k }
  else fetchStep s k

/-- One turn of hart k: a boundary event, or its next instruction; time passes while it waits. -/
noncomputable def hartStep (s : State) (k : Nat) : Res :=
  if !s.runs k then .next s
  else
    match s.boundary k with
    | some i => exec i { s with cur := k }
    | none => if s.idles k then .next (s.tick k) else instrStep s k

/-! ### The issue slot (R274 to R278) -/

/-- The stall an attempt of hart k to issue in s ends in with nothing done (R274). -/
def stalledOf (s : State) (k : Nat) (r : Res) : Option Stall :=
  match r with
  | .next t =>
    if (t.hart k).vec.vstart = (s.hart k).vec.vstart && (t.hart k).begun = (s.hart k).begun then (t.hart k).stall else none
  | _ => none

/-- The stall that keeps hart k from issuing its next instruction (R274), if one does. -/
noncomputable def State.heldBy (s : State) (k : Nat) : Option Stall :=
  stalledOf s k (instrStep (s.modHart k (fun h => { h with arrive := none })) k)

/-- Hart k is at an instruction: it runs, waits for nothing, and no boundary event is due, which uses no issue slot
(R279). -/
noncomputable def State.atInstr (s : State) (k : Nat) : Bool := s.runs k && (s.boundary k).isNone && !s.idles k

/-- Hart k's next instruction can issue (R274). -/
noncomputable def State.ready (s : State) (k : Nat) : Bool := s.atInstr k && (s.heldBy k).isNone

/-- The contexts of core c that are ready. -/
noncomputable def State.readyOf (s : State) (c : Nat) : List Nat := (upto 8).filter (fun h => s.ready (ctxKey c h))

/-- The contexts of core c that a stall keeps from issuing are in that stall (R274, R318). -/
noncomputable def State.markStalls (s : State) (c : Nat) : State :=
  (upto 8).foldl (fun t h =>
    let k := ctxKey c h
    if s.atInstr k then
      match s.heldBy k with
      | some w => t.modHart k (fun x => { x with stall := some w })
      | none => t
    else t) s

/-- The context the policy picks among the ready ones (R275, R276). -/
def Core.pick (c : Core) (ready : List Nat) : Option Nat :=
  if c.issuepol = 0 then ((upto 8).map (fun i => (c.rot + i) % 8)).find? (ready.contains ·)
  else
    let count (h : Nat) : Nat := c.passed[h]?.getD 0
    let best := ready.foldl (fun b h =>
      match b with
      | none => if 64 ≤ count h then some h else none
      | some g => if count g < count h then some h else b) none
    match best with
    | some h => some h
    | none =>
      match c.greedy with
      | some g => if ready.contains g then some g else c.age.find? (ready.contains ·)
      | none => c.age.find? (ready.contains ·)

/-- What the slot remembers when it issues from context h (R275, R276); `pause` has ended greed itself. -/
def Core.issued (c : Core) (h : Nat) (ready : List Nat) : Core :=
  if c.issuepol = 0 then { c with rot := (h + 1) % 8 }
  else { c with
    greedy := some h
    passed := c.passed.mapIdx (fun i n => if i = h then 0 else if ready.contains i then n + 1 else n) }

/-- The cycles in a row in which the message hart has been ready without issuing, after one more (R278). -/
def Core.msgWaits (c : Core) (mready : Bool) : Core := { c with msgWait := if mready then c.msgWait + 1 else 0 }

/-- One cycle of the issue slot of core c. -/
noncomputable def issueSlot (s : State) (c : Nat) : Res :=
  let m := msgKey c
  let mready := s.ready m
  let ready := s.readyOf c
  let t := s.markStalls c
  let issueMsg : Res := hartStep (t.modCore c (fun x => { x with msgWait := 0 })) m
  if mready && 64 ≤ (s.core c).msgWait then issueMsg
  else
    match (s.core c).pick ready with
    | some h => hartStep (t.modCore c (fun x => (x.issued h ready).msgWaits mready)) (ctxKey c h)
    | none => if mready then issueMsg else .next ((t.modCore c (fun x => { x with msgWait := 0 })).tick (ctxKey c 0))

/-- The turn of hart k: what is due at its boundary, or, for a hart of a core, a cycle of the core's issue slot. -/
noncomputable def turn (s : State) (k : Nat) : Res :=
  if isMach k || (s.runs k && (s.boundary k).isSome) then hartStep s k else issueSlot s (coreOf k)

/-! ### The device's own steps -/

/-- The wake-up of a parked hart. -/
noncomputable def wakeOf (k : Nat) : Park → Instr
  | .wfi => .wfiWake k
  | .wait _ _ _ _ => .waitWake k
  | .cmAcq _ _ _ _ => .cmAcqWake k
  | .taskPop _ _ | .taskExit => .taskPopWake k
  | .gbar _ _ => .gbarWake k
  | .swait _ _ => .fwSwaitWake k

/-- The steps a hart may be due. -/
noncomputable def State.hartMoves (s : State) (k : Nat) : List Instr :=
  let h := s.hart k
  (if s.runs k then
    (s.boundary k).toList ++ (match h.park with
      | some p => [wakeOf k p]
      | none => [])
    else []) ++
  (if isCtx k && h.ctxState = 2 then [.saveComplete k, .retireComplete k] else []) ++
  (if isCtx k && h.ctxState = 3 then [.restoreComplete k] else []) ++
  (if h.call.isSome then [.svcAttach k, .svcReply k, .qcbWrite k, .svcForwarded k] else [])

/-- The steps a core may be due. -/
noncomputable def State.coreMoves (s : State) (c : Nat) : List Instr :=
  let x := s.core c
  (if x.mq.isEmpty then [] else [.matrixQueueExecute c]) ++
  (if x.vlpWait.isSome then [.vlpApply c] else []) ++
  x.copies.flatMap (fun p =>
    [.copyElementMove c p.id, .chunkComplete c p.id, .copyComplete c p.id, .copyFault c p.id]) ++
  (if x.msgBuf.isEmpty then [] else [.messageRun c]) ++
  (if x.fenced then [.coreFenced c, .coreRepair c] else [])

/-- The steps a cluster may be due. -/
noncomputable def State.clusterMoves (s : State) (g : Nat) : List Instr :=
  let c := s.cluster g
  (if c.flagsDue = 0 then [] else [.flagUnion g]) ++
  (if c.keepsNone then [] else [.continuationDeferred g]) ++
  (if c.rc.state = 1 then [.rcLoadComplete g] else []) ++
  (if c.rc.wb then [.rcWriteback g] else []) ++
  (if c.rc.state = 2 && (c.rc.train || c.rc.todo.isSome) then [.rcPublish g, .afterglowStep g] else [])

/-- The steps an agent may be due for its queues. -/
noncomputable def State.agentMoves (s : State) (a : Nat) : List Instr :=
  (if (s.agent a).emitQ.isNone then [] else [.dicingRecordEmit a]) ++
  (upto 8).flatMap (fun i =>
    if ((s.agent a).q i).state = 1 then
      [.agentNop a i] ++
      (match agentKind a with
        | 0 => [.bicubic a i, .bilinear a i]
        | 1 => [.grid a i, .triangle a i]
        | _ => [.blend a i, .present a i, .presentSettle a i])
    else [])

/-- The steps of comets, messages and bitmap stores on their way. -/
noncomputable def State.fabricMoves (s : State) : List Instr :=
  (match s.flights with
    | [] => []
    | l => (upto l.length).map (fun i => .messageArrival i)) ++
  ((upto s.comets.length).zip s.comets).map (fun e =>
    match e.2 with
    | .free _ _ => .contextFreeNotice e.1
    | .pacing _ _ => .hostPacing e.1
    | .notify _ _ _ => .notify e.1
    | .doorbell _ _ _ => .lodestarDoorbell e.1) ++
  (upto 8).flatMap (fun q =>
    (if (s.part q).attached then [.watchdogExpiry q] else []) ++
      (if (s.part q).stopping then [.stopInterfaceRequest q] else [])) ++
  (upto 2).flatMap (fun d => if (s.complex d).retry.isEmpty then [] else [.bitmapStoreRetry d])

/-- The device's own steps that may be due, in the order the model tries them (assumption log 7). -/
noncomputable def State.moves (s : State) : List Instr :=
  s.fabricMoves ++ s.harts.flatMap (fun e => s.hartMoves e.1) ++ s.cores.flatMap (fun e => s.coreMoves e.1) ++
    s.clusters.flatMap (fun e => s.clusterMoves e.1) ++ s.agents.flatMap (fun e => s.agentMoves e.1)

/-- The state after the first of the device's own steps that changes anything. -/
noncomputable def State.autoMove (s : State) : Option State :=
  s.moves.findSome? (fun i =>
    match exec i s with
    | .next t => if t = s then none else some t
    | _ => none)

/-- The units that issue: the cores, and behind them the Lodestars and the Orrery cores. -/
def unitCount : Nat := 432 + 56
/-- A hart of a unit. -/
def unitHart (u : Nat) : Nat := if u < 432 then ctxKey u 0 else 3888 + (u - 432)
/-- Some hart of a unit can execute. -/
def State.unitRuns (s : State) (u : Nat) : Bool :=
  if u < 432 then (upto 8).any (fun h => s.runs (ctxKey u h)) || s.runs (msgKey u) else s.runs (unitHart u)

/-- The unit whose turn comes after the one in focus: the next that has a hart to run. -/
def State.nextUnit (s : State) : Nat :=
  (((upto unitCount).map (fun i => (s.focus + 1 + i) % unitCount)).find? s.unitRuns).getD s.focus

/-- What moves when nothing is said to: a step of the device's own, or else the next unit that issues. -/
noncomputable def defaultStep (s : State) : Res :=
  match s.autoMove with
  | some t => .next t
  | none => turn { s with focus := s.nextUnit } (unitHart s.nextUnit)

/-- An event of the agenda: one that names hardware of the package; an instruction word is no event. -/
noncomputable def eventStep (s : State) (i : Instr) : Res :=
  if i.wf && (encodeFields i).isNone then exec i s else .fault .noSuchUnit

/-! ### Placing one instruction -/

/-- The hart that fetches a word placed by `withFetchWord`: the message hart of core 0 for `msg.done`, an Orrery
core for `mret` and for words only Orrery cores decode, context 0 of core 0 for the others. -/
noncomputable def fetchHart (w : W32) : Nat :=
  match decode false w with
  | .ok .msgDone => msgKey 0
  | .ok .mret => orrKey 0 0
  | .ok _ => ctxKey 0 0
  | .error _ =>
    match decode true w with
    | .ok _ => orrKey 0 0
    | .error _ => ctxKey 0 0

/-- Where the placed word lies, and the root and second-level table that map the first GiB onto itself. -/
def placedAt : Nat := 0x20000
def placedRoot : Nat := 0x10000
def placedTable : Nat := 0x11000

/-- A running partition 0 that owns the first half-die and 1 GiB of tier 1, with its translation in memory: a
four-level table whose one leaf maps the first GiB, for U mode if `user`. -/
def State.withMap (s : State) (user : Bool) : State :=
  let m := Memory.write s.mem (s.pkg.toNat * 2 ^ 48 + placedRoot)
    ((s.pkg.toNat * 2 ^ 36 + placedTable / 4096) * 1024 + 1) 8
  let m := Memory.write m (s.pkg.toNat * 2 ^ 48 + placedTable)
    (s.pkg.toNat * 2 ^ 36 * 1024 + (if user then 0xDF else 0xCF)) 8
  let s := { s with mem := m }
  s.modPart 0 (fun p => { p with
    pstate := 2, pown := 1, patp := placedAtp s.pkg
    pmrbase := p.pmrbase.set 0 0, pmrsize := p.pmrsize.set 0 0x40000000 })
where
  /-- The root word of the table. -/
  placedAtp (pkg : BitVec 6) : Word := BitVec.ofNat 64 (9 * 2 ^ 60 + pkg.toNat * 2 ^ 36 + placedRoot / 4096)

/-- The message a placed `msg.done` ends. -/
def placedMsg (pkg : BitVec 6) : Msg :=
  { handler := BitVec.ofNat 64 placedAt, cpl := 0, payload := Vector.replicate 5 0, dst := 0, tohart := false,
    gen := 0, src := 0, srcPkg := pkg, srcGen := 0, tr := {}, seq := 0, scope := 3, trapping := false }

/-- The state in which hart k is to fetch at the placed address, and its turn is next. -/
def State.aimed (s : State) (k : Nat) : State :=
  let at_ := BitVec.ofNat 64 placedAt
  let s :=
    match hartKind k with
    | 0 => (s.withMap false).modHart k (fun h =>
        { h with
          pc := at_, mode := .s, ctxState := 1, park := none, stall := none, deferred := [], waiting := [], begun := none,
          saveReq := none, arrive := none, sc := { h.sc with satp := State.withMap.placedAtp s.pkg, sie := 0 } })
    | 1 => ((s.withMap true).modHart k (fun h =>
        { h with pc := at_, mode := .u, park := none, stall := none })).modCore (coreOf k) (fun c =>
        { c with running := some ⟨placedMsg s.pkg, 0⟩ })
    | _ => (State.modHart { s with boot := .running } k (fun h =>
        { h with
          pc := BitVec.ofNat 64 (s.pkg.toNat * 2 ^ 48 + placedAt), park := none, stall := none,
          mc := { h.mc with mie := 0 } }))
  let s := if isMach k then s else s.modCore (coreOf k) (fun c =>
    { c with fenced := false, absent := false, icache := [], issuepol := 0, rot := slotOf k,
             msgWait := if isMsg k then 64 else 0 })
  { s with agenda := [.issue k] }

/-- The word stored where the aimed hart fetches. -/
noncomputable def State.placeWord (s : State) (w : W32) : State :=
  let s := s.aimed (fetchHart w)
  { s with mem := Memory.write s.mem (s.pkg.toNat * 2 ^ 48 + placedAt) w.toNat 4 }

end Sys2Proof.Machine
end

