-- ==== Sys2Proof/Machine/Step.lean ====
section
/-!
DEFINITION. Machine/Step.lean: one step of the package.
-/

namespace Sys2Proof.Machine

/-- One step: what the agenda says moves next, or the model's own default when it says nothing. -/
noncomputable def step (s : State) : Host.Outcome State Fault Refusal :=
  match s.agenda with
  | .event i :: rest => eventStep { s with agenda := rest } i
  | .issue k :: rest => turn { s with agenda := rest } k
  | .issueTo k i :: rest => turn (State.modHart { s with agenda := rest } k (fun h => { h with arrive := some i })) k
  | [] => defaultStep s

/-- `s` with the instruction `w` stored where a hart fetches next, that hart resident and its turn next. -/
noncomputable def State.withFetchWord (s : State) (nbits w : Nat) : State :=
  s.placeWord (BitVec.ofNat 32 (w % 2 ^ nbits))

end Sys2Proof.Machine
end

