-- ==== Sys2Proof/Machine/GydasText.lean ====
section
/-!
DEFINITION. Machine/GydasText.lean: the text of the assembly language gydas (R59, R60, R64, R369): comments,
identifiers, numbers, expressions and their values, decimal literals, and the replacement of parameters in the
body of a user-defined line (`Macros`). Text is a list of characters; what the rules call an error is `none`.
-/

namespace Sys2Proof.Machine.Gydas

abbrev Text := List Char

/-- The text of a string. -/
def txt (s : String) : Text := s.toList

/-- A character that may begin an identifier (R59). -/
def idStart (c : Char) : Bool := c.isAlpha || c = '_' || c = '.'

/-- A character that may continue an identifier (R59). -/
def idChar (c : Char) : Bool := idStart c || c.isDigit

/-- A space between the pieces of a line. -/
def space (c : Char) : Bool := c = ' ' || c = '\t' || c = '\r'

/-- The text without the spaces at both ends. -/
def trim (t : Text) : Text := ((t.dropWhile space).reverse.dropWhile space).reverse

/-- A line without its comment, which runs from `;` or `//` to the end (R59). Inside the quotes of `.ascii` text
neither begins one (log 87); `quoted` says that the text stands inside quotes. -/
def stripComment : Bool → Text → Text
  | _, [] => []
  | true, c :: cs => c :: stripComment (c ≠ '"') cs
  | false, c :: cs =>
    if c = ';' || (c = '/' && cs.head? = some '/') then [] else c :: stripComment (c = '"') cs

/-! ### Numbers and tokens -/

/-- The value of a digit in a base up to 16. -/
def digitVal (base : Nat) (c : Char) : Option Nat :=
  let v := if c.isDigit then c.toNat - 48 else if 'a' ≤ c ∧ c ≤ 'f' then c.toNat - 87
    else if 'A' ≤ c ∧ c ≤ 'F' then c.toNat - 55 else 16
  if v < base then some v else none

/-- The value of digits in a base, after the value `acc` of those before them. -/
def digits (base : Nat) : Nat → Text → Option Nat
  | acc, [] => some acc
  | acc, c :: cs => match digitVal base c with
    | some v => digits base (base * acc + v) cs
    | none => none

/-- A number: decimal, hexadecimal with `0x`, or binary with `0b` (R59); it must fit 64 bits (log 87). -/
def number (t : Text) : Option Word :=
  let v := match t with
    | '0' :: 'x' :: c :: cs => digits 16 0 (c :: cs)
    | '0' :: 'b' :: c :: cs => digits 2 0 (c :: cs)
    | _ => digits 10 0 t
  match v with
  | some n => if n < 2 ^ 64 then some (BitVec.ofNat 64 n) else none
  | none => none

/-- A piece of an operand; `<<` and `>>` are the operators `<` and `>`. -/
inductive Tok where
  | id (name : Text)
  | num (v : Word)
  | op (c : Char)
  deriving DecidableEq, Repr

/-- The tokens of a text; the fuel is a bound on their number. -/
def tokens : Nat → Text → Option (List Tok)
  | _, [] => some []
  | 0, _ => none
  | n + 1, c :: cs =>
    if space c then tokens n cs
    else if idStart c then (tokens n (cs.dropWhile idChar)).map (.id (c :: cs.takeWhile idChar) :: ·)
    else if c.isDigit then do
      let v ← number (c :: cs.takeWhile idChar)
      (tokens n (cs.dropWhile idChar)).map (.num v :: ·)
    else if (c = '<' || c = '>') && cs.head? = some c then (tokens n cs.tail).map (.op c :: ·)
    else if c ∈ ['+', '-', '*', '/', '&', '|', '~', '(', ')', ',', ':'] then (tokens n cs).map (.op c :: ·)
    else none

/-- The tokens of a whole text. -/
def lex (t : Text) : Option (List Tok) := tokens t.length t

/-- A list cut at the elements of which `p` holds. -/
def cutAt {α : Type} (p : α → Bool) : List α → List (List α)
  | [] => [[]]
  | a :: l =>
    if p a then [] :: cutAt p l
    else match cutAt p l with
      | [] => [[a]]
      | h :: r => (a :: h) :: r

/-- Operands, parted by commas; an empty text has none. -/
def operands (t : Text) : Option (List (List Tok)) :=
  match lex t with
  | some [] => some []
  | some l => some (cutAt (· = .op ',') l)
  | none => none

/-! ### Expressions (R59) -/

inductive BinOp where
  | add | sub | mul | div | shl | shr | and | or
  deriving DecidableEq, Repr

inductive Expr where
  | num (v : Word)
  | sym (name : Text)
  | neg (e : Expr)
  | not (e : Expr)
  | bin (o : BinOp) (a b : Expr)
  deriving DecidableEq, Repr

/-- The binary operator of a character, and how tightly it binds in C (R59). -/
def binOp : Char → Option (Nat × BinOp)
  | '|' => some (0, .or)
  | '&' => some (1, .and)
  | '<' => some (2, .shl)
  | '>' => some (2, .shr)
  | '+' => some (3, .add)
  | '-' => some (3, .sub)
  | '*' => some (4, .mul)
  | '/' => some (4, .div)
  | _ => none

/-- Reading an expression: with no operand read yet, its first operand; then every operator that binds at least as
tightly as `lvl`, operators of one level from the left. The fuel bounds the number of tokens read. -/
def parseFrom : Nat → Nat → Option Expr → List Tok → Option (Expr × List Tok)
  | 0, _, _, _ => none
  | f + 1, lvl, none, ts =>
    match ts with
    | .num v :: r => parseFrom f lvl (some (.num v)) r
    | .id n :: r => parseFrom f lvl (some (.sym n)) r
    | .op '-' :: r => do let (e, r) ← parseFrom f 5 none r; parseFrom f lvl (some (.neg e)) r
    | .op '~' :: r => do let (e, r) ← parseFrom f 5 none r; parseFrom f lvl (some (.not e)) r
    | .op '(' :: r => do
      let (e, r) ← parseFrom f 0 none r
      match r with
      | .op ')' :: r => parseFrom f lvl (some e) r
      | _ => none
    | _ => none
  | f + 1, lvl, some a, ts =>
    match ts with
    | .op c :: r => match binOp c with
      | some (l, o) =>
        if lvl ≤ l then do
          let (b, r) ← parseFrom f (l + 1) none r
          parseFrom f lvl (some (.bin o a b)) r
        else some (a, ts)
      | none => some (a, ts)
    | _ => some (a, ts)

/-- The expression that the tokens are. -/
def parse (ts : List Tok) : Option Expr :=
  match parseFrom (2 * ts.length + 2) 0 none ts with
  | some (e, []) => some e
  | _ => none

/-- The value of an expression: absolute, or a label's address plus an absolute value (R96). -/
structure Val where
  base : Option Text := none
  off : Word
  deriving DecidableEq, Repr

/-- The arithmetic of R59, 64-bit two's complement. -/
def BinOp.eval : BinOp → Word → Word → Option Word
  | .add, a, b => some (a + b)
  | .sub, a, b => some (a - b)
  | .mul, a, b => some (a * b)
  | .div, a, b => if b = 0 then none else some (a.sdiv b)
  | .shl, a, b => if b.toNat < 64 then some (a <<< b.toNat) else none
  | .shr, a, b => if b.toNat < 64 then some (a.sshiftRight b.toNat) else none
  | .and, a, b => some (a &&& b)
  | .or, a, b => some (a ||| b)

/-- An operation on values. One label may stand in a sum, or be what an absolute value is taken from (R96); the
difference of two labels is absolute where `apart` knows it (log 87). -/
def BinOp.evalVal (apart : Text → Text → Option Word) (o : BinOp) (a b : Val) : Option Val :=
  match a.base, b.base with
  | none, none => (o.eval a.off b.off).map (⟨none, ·⟩)
  | some l, none => if o = .add || o = .sub then (o.eval a.off b.off).map (⟨some l, ·⟩) else none
  | none, some l => if o = .add then some ⟨some l, a.off + b.off⟩ else none
  | some l, some m => if o = .sub then (apart l m).map (fun d => ⟨none, d + a.off - b.off⟩) else none

/-- The value of an expression where `sym` gives the values of its symbols. -/
def Expr.eval (apart : Text → Text → Option Word) (sym : Text → Option Val) : Expr → Option Val
  | .num v => some ⟨none, v⟩
  | .sym n => sym n
  | .neg e => match e.eval apart sym with
    | some ⟨none, v⟩ => some ⟨none, -v⟩
    | _ => none
  | .not e => match e.eval apart sym with
    | some ⟨none, v⟩ => some ⟨none, ~~~v⟩
    | _ => none
  | .bin o a b => do
    let x ← a.eval apart sym
    let y ← b.eval apart sym
    o.evalVal apart x y

/-- A decimal literal of `.f32` and `.bf16` (R64) as its sign and magnitude: digits, an optional fraction, an
optional power of ten. -/
def decimal (t : Text) : Option (Bool × Rat) :=
  let (neg, t) := match t with
    | '-' :: r => (true, r)
    | _ => (false, t)
  let whole := t.takeWhile Char.isDigit
  let t := t.dropWhile Char.isDigit
  let (frac, t) := match t with
    | '.' :: r => (r.takeWhile Char.isDigit, r.dropWhile Char.isDigit)
    | _ => ([], t)
  let (eneg, ex, t) := match t with
    | 'e' :: '-' :: r => (true, r.takeWhile Char.isDigit, r.dropWhile Char.isDigit)
    | 'e' :: '+' :: r => (false, r.takeWhile Char.isDigit, r.dropWhile Char.isDigit)
    | 'e' :: r => (false, r.takeWhile Char.isDigit, r.dropWhile Char.isDigit)
    | _ => (false, ['0'], t)
  if t ≠ [] || (whole ++ frac) = [] || ex = [] then none
  else do
    let m ← digits 10 0 (whole ++ frac)
    let e ← digits 10 0 ex
    let x : Rat := (m : Rat) / ((10 ^ frac.length : Nat) : Rat)
    let p : Rat := ((10 ^ e : Nat) : Rat)
    some (neg, if eneg then x / p else x * p)

/-! ### User-defined lines (R64, R369) -/

/-- A user-defined line: its name, its parameters and its body. -/
structure UserLine where
  name : Text
  params : List Text
  body : List Text
  deriving DecidableEq, Repr

/-- A line of the body with the arguments put in (R369): after a backslash stands `()`, which is nothing, or the
longest run of identifier characters, which must be a parameter. The fuel is the length of the text. -/
def substitute (args : List (Text × Text)) : Nat → Text → Option Text
  | _, [] => some []
  | 0, _ => none
  | n + 1, '\\' :: '(' :: ')' :: cs => substitute args n cs
  | n + 1, '\\' :: cs => do
    let (_, a) ← args.find? (fun p => p.1 = cs.takeWhile idChar)
    (substitute args n (cs.dropWhile idChar)).map (a ++ ·)
  | n + 1, c :: cs => (substitute args n cs).map (c :: ·)

/-- The label a line begins with, if it has one, and the rest of the line (R59). -/
def cutLabel (t : Text) : Option Text × Text :=
  let t := t.dropWhile space
  let name := t.takeWhile idChar
  match t.head?, (t.dropWhile idChar).dropWhile space with
  | some c, ':' :: r => if idStart c then (some name, r.dropWhile space) else (none, t)
  | _, _ => (none, t)

/-- The word a line begins with, and the rest. -/
def cutWord (t : Text) : Text × Text :=
  (t.takeWhile (fun c => !space c), (t.dropWhile (fun c => !space c)).dropWhile space)

/-- Arguments or parameters: texts parted by commas. -/
def argTexts (t : Text) : List Text := if trim t = [] then [] else (cutAt (· = ',') t).map trim

/-- A line without its comment as the lines it stands for: itself, or, where it names a user-defined line, that
one's body with the arguments put in, each of whose lines is expanded in turn (R369). The fuel is how deep the
nesting may still go (R64). -/
def expandLine (defs : List UserLine) : Nat → Text → Option (List Text)
  | depth, t =>
    let (label, rest) := cutLabel t
    let (w, args) := cutWord rest
    match defs.find? (fun d => d.name = w) with
    | none => some [t]
    | some d =>
      match depth with
      | 0 => none
      | depth + 1 =>
        let args := argTexts args
        if args.length ≠ d.params.length then none
        else do
          let lines ← d.body.mapM (fun l => do
            expandLine defs depth (← substitute (d.params.zip args) l.length l))
          some ((match label with
            | some n => [n ++ [':']]
            | none => []) ++ lines.flatten)

/-- The nesting limit (R64). -/
def nestingLimit : Nat := 16

/-- The state of reading a source: the definitions so far, one being read, and the expanded lines. -/
structure Reading where
  defs : List UserLine := []
  opened : Option UserLine := none
  lines : List Text := []
  deriving DecidableEq, Repr

/-- One line of the source: a definition opens at its head and ends at its last line (R64); any other line is
expanded. A name is defined once, and a definition does not hold another (log 87). -/
def readLine (r : Reading) (line : Text) : Option Reading :=
  let t := trim (stripComment false line)
  let (w, rest) := cutWord t
  match r.opened with
  | some d =>
    if w = txt ".endm" then some ⟨r.defs ++ [d], none, r.lines⟩
    else if w = txt ".macro" then none
    else some { r with opened := some { d with body := d.body ++ [t] } }
  | none =>
    if w = txt ".macro" then
      let (name, params) := cutWord rest
      if name = [] || r.defs.any (fun d => d.name = name) then none
      else some { r with opened := some ⟨name, argTexts params, []⟩ }
    else do
      let l ← expandLine r.defs nestingLimit t
      some { r with lines := r.lines ++ l }

/-- The lines of a source after every user-defined line is expanded. -/
def expandAll (source : List Text) : Option (List Text) :=
  match source.foldlM readLine {} with
  | some r => if r.opened = none then some r.lines else none
  | none => none

end Sys2Proof.Machine.Gydas
end

