-- ==== Sys2Proof/Machine/GydasWords.lean ====
section
/-!
DEFINITION. Machine/GydasWords.lean: from a line of gydas to instruction words: the mnemonics with their operands
(R48 to R56, R92 to R107, R210, R217), the suffixes (R62), the operand forms (R60, R61) and the pseudo-instructions
(R63). A word that does not decode is an error.
-/

namespace Sys2Proof.Machine.Gydas

/-! ### Names of registers (R60) -/

/-- A register number of one or two decimal digits. -/
def smallNum : Text → Option Nat
  | [c] => digitVal 10 c
  | [c, d] => if c = '0' then none else digits 10 0 [c, d]
  | _ => none

/-- The number of a register in a bank of n with this letter before it. -/
def banked (bank : Text) (n : Nat) (t : Text) : Option Nat :=
  if bank.isPrefixOf t then
    match smallNum (t.drop bank.length) with
    | some i => if i < n then some i else none
    | none => none
  else none

/-- The names of the integer registers beside `x0` to `x31`. -/
def intNames : List (String × Nat) :=
  [("zero", 0), ("ra", 1), ("sp", 2), ("gp", 3), ("tp", 4), ("fp", 8)]

/-- An integer register. -/
def intReg (t : Text) : Option Nat :=
  match intNames.find? (fun p => txt p.1 = t) with
  | some p => some p.2
  | none =>
    match banked ['x'] 32 t, banked ['t'] 7 t, banked ['s'] 12 t, banked ['a'] 8 t with
    | some i, _, _, _ => some i
    | _, some i, _, _ => some (if i < 3 then 5 + i else 25 + i)
    | _, _, some i, _ => some (if i < 2 then 8 + i else 16 + i)
    | _, _, _, some i => some (10 + i)
    | _, _, _, _ => none

/-- A vector register: `v0` to `v31`, or `sv0` to `sv15` for `v16` to `v31`. -/
def vecReg (t : Text) : Option Nat :=
  match banked ['v'] 32 t with
  | some i => some i
  | none => (banked ['s', 'v'] 16 t).map (16 + ·)

/-- The CSRs by name (R36, R302). -/
def csrNames : List (String × Nat) :=
  [("fflags", 0x001), ("frm", 0x002), ("fcsr", 0x003), ("vstart", 0x008),
   ("sstatus", 0x100), ("sie", 0x104), ("stvec", 0x105), ("sscratch", 0x140), ("sepc", 0x141),
   ("scause", 0x142), ("stval", 0x143), ("sip", 0x144), ("satp", 0x180)] ++
  [("mstatus", 0x300), ("medeleg", 0x302), ("mideleg", 0x303), ("mie", 0x304), ("mtvec", 0x305),
   ("mscratch", 0x340), ("mepc", 0x341), ("mcause", 0x342), ("mtval", 0x343), ("mip", 0x344),
   ("scyccmp", 0x5C0), ("issuepol", 0x5C1), ("lmsplit", 0x5C2), ("lmgroup", 0x5C3)] ++
  [("lsel", 0x7C0), ("vlp", 0x7C1), ("mgrant", 0x7C2), ("cflags", 0x7C3),
   ("fwalm", 0x7D0), ("fwsel", 0x7D1), ("fwsmap", 0x7D2), ("fwspage", 0x7D3), ("fwscons", 0x7D4),
   ("fwskick", 0x7D5), ("fwkpend", 0x7D6), ("fwsig", 0x7D7), ("fwpace", 0x7D8)] ++
  [("qaxis", 0x800), ("vmsp", 0x801), ("strmctl", 0x802), ("rcdesc", 0x803),
   ("lmfmt0", 0x810), ("lmfmt1", 0x811), ("lmfmt2", 0x812), ("lmfmt3", 0x813), ("lmfmt4", 0x814),
   ("lmfmt5", 0x815), ("lmfmt6", 0x816), ("lmfmt7", 0x817), ("lmfmt8", 0x818), ("lmfmt9", 0x819),
   ("lmfmt10", 0x81A), ("lmfmt11", 0x81B), ("lmfmt12", 0x81C), ("lmfmt13", 0x81D), ("lmfmt14", 0x81E),
   ("lmfmt15", 0x81F)] ++
  [("cycle", 0xC00), ("instret", 0xC02), ("vl", 0xC20), ("vtype", 0xC21), ("vlenb", 0xC22),
   ("hgen", 0xCC0), ("hloc", 0xCC1), ("vlanes", 0xCC2), ("mcfg", 0xCC3), ("stalecnt", 0xCC4),
   ("vmdepth", 0xCC5), ("sform", 0xDC0), ("sstop0", 0xDC4), ("sstop1", 0xDC5), ("sstop2", 0xDC6),
   ("sstop3", 0xDC7), ("mvendorid", 0xF11), ("marchid", 0xF12), ("mimpid", 0xF13), ("mhartid", 0xF14)]

/-- The element widths and formats of a `vset` type (R24, R60). -/
def widthNames : List (String × Nat) := [("e8", 0), ("e16", 1), ("e32", 2), ("e64", 3)]
def formatNames : List (String × Nat) :=
  [("int", 0), ("fp64", 1), ("fp32", 2), ("bf16", 3), ("fp16", 4), ("t8", 5), ("t6", 6), ("fp4", 7)]

/-- The scope suffixes and their codes (R47, R62). -/
def scopeNames : List (String × Nat) := [(".hart", 0), (".core", 1), (".gang", 2), (".dev", 3), (".sys", 4)]

/-- The ordering suffixes with `aq` in bit 1 and `rl` in bit 0 (R54, R62). -/
def orderNames : List (String × Nat) := [(".aqrl", 3), (".aq", 2), (".rl", 1)]

def lookup (l : List (String × Nat)) (t : Text) : Option Nat := (l.find? (fun p => txt p.1 = t)).map (·.2)

/-! ### Rows -/

/-- An operand as written, and where its bits go. -/
inductive Slot where
  /-- An integer register, its field at bit `lo`. -/
  | x (lo : Nat)
  /-- A vector register; `chain` is the chain bit of the field, where it has one (R45). -/
  | v (lo : Nat) (chain : Option Nat)
  /-- `(rs1)`. -/
  | mem
  /-- `imm(rs1)`, its immediate in the I or the S format. -/
  | memI | memS
  /-- The I immediate, −2,048 to 2,047; imm5 of VI, −16 to 15; imm20 of U. -/
  | imm12 | imm5 | imm20
  /-- An unsigned field of n bits. -/
  | uns (lo n : Nat)
  /-- `len`, 1 to 64, held as len − 1 at [25:20] (R56). -/
  | len
  /-- A target in the B or the J format (R96). -/
  | branch | jump
  /-- `acc0` or `acc1`, at bit 12 (R52). -/
  | acc
  /-- A CSR by name or number. -/
  | csr
  /-- The `vset` type of two or three operands (R49), and the `vcvt` source of two (R50). -/
  | vtype | source
  /-- A set of letters from `iorw`; `0` is the empty set where `fence` allows it. -/
  | set (lo : Nat) (empty : Bool)
  deriving DecidableEq, Repr

/-- Which suffixes a row takes (R62): none, a scope at [14:12] (R47), or an ordering and a scope as atomics have
them (R54). -/
inductive Suffix where
  | none | scope | atomic
  deriving DecidableEq, Repr

/-- The extension a row belongs to (R65). -/
inductive Ext where
  | base | lvec | lmat | lgfx | lq | lfw
  deriving DecidableEq, Repr

/-- A mnemonic: its word with every operand 0, its operands in the order written, the bit of its mask, its
suffixes and its extension. -/
structure Row where
  name : Text
  word : Nat
  slots : List Slot
  mask : Option Nat := none
  suffix : Suffix := .none
  ext : Ext := .base
  deriving DecidableEq, Repr

/-- The RISC-V base, the CSR and the system instructions (R92 to R107). -/
def baseRows : List Row :=
  [⟨txt "lui", 0x37, [.x 7, .imm20], none, .none, .base⟩,
   ⟨txt "auipc", 0x17, [.x 7, .imm20], none, .none, .base⟩] ++
  ([("addi", 0), ("slti", 2), ("sltiu", 3), ("xori", 4), ("ori", 6), ("andi", 7)].map fun (n, f) =>
    ⟨txt n, f <<< 12 ||| 0x13, [.x 7, .x 15, .imm12], none, .none, .base⟩) ++
  ([("slli", 0x1013), ("srli", 0x5013), ("srai", 0x40005013)].map fun (n, w) =>
    ⟨txt n, w, [.x 7, .x 15, .uns 20 6], none, .none, .base⟩) ++
  [⟨txt "addiw", 0x1B, [.x 7, .x 15, .imm12], none, .none, .base⟩] ++
  ([("slliw", 0x101B), ("srliw", 0x501B), ("sraiw", 0x4000501B)].map fun (n, w) =>
    ⟨txt n, w, [.x 7, .x 15, .uns 20 5], none, .none, .base⟩) ++
  ([("add", 0, 0), ("sll", 0, 1), ("slt", 0, 2), ("sltu", 0, 3), ("xor", 0, 4), ("srl", 0, 5), ("or", 0, 6),
    ("and", 0, 7), ("sub", 32, 0), ("sra", 32, 5), ("mul", 1, 0), ("mulh", 1, 1), ("mulhsu", 1, 2),
    ("mulhu", 1, 3), ("div", 1, 4), ("divu", 1, 5), ("rem", 1, 6), ("remu", 1, 7)].map fun (n, f7, f3) =>
    ⟨txt n, f7 <<< 25 ||| f3 <<< 12 ||| 0x33, [.x 7, .x 15, .x 20], none, .none, .base⟩) ++
  ([("addw", 0, 0), ("sllw", 0, 1), ("srlw", 0, 5), ("subw", 32, 0), ("sraw", 32, 5), ("mulw", 1, 0),
    ("divw", 1, 4), ("divuw", 1, 5), ("remw", 1, 6), ("remuw", 1, 7)].map fun (n, f7, f3) =>
    ⟨txt n, f7 <<< 25 ||| f3 <<< 12 ||| 0x3B, [.x 7, .x 15, .x 20], none, .none, .base⟩) ++
  ([("beq", 0), ("bne", 1), ("blt", 4), ("bge", 5), ("bltu", 6), ("bgeu", 7)].map fun (n, f) =>
    ⟨txt n, f <<< 12 ||| 0x63, [.x 15, .x 20, .branch], none, .none, .base⟩) ++
  [⟨txt "jal", 0x6F, [.x 7, .jump], none, .none, .base⟩,
   ⟨txt "jalr", 0x67, [.x 7, .memI], none, .none, .base⟩] ++
  ([("lb", 0), ("lh", 1), ("lw", 2), ("ld", 3), ("lbu", 4), ("lhu", 5), ("lwu", 6)].map fun (n, f) =>
    ⟨txt n, f <<< 12 ||| 0x03, [.x 7, .memI], none, .none, .base⟩) ++
  ([("sb", 0), ("sh", 1), ("sw", 2), ("sd", 3)].map fun (n, f) =>
    ⟨txt n, f <<< 12 ||| 0x23, [.x 20, .memS], none, .none, .base⟩) ++
  [⟨txt "fence", 0x0F, [.set 24 true, .set 20 true], none, .none, .base⟩,
   ⟨txt "fence.i", 0x100F, [], none, .none, .base⟩] ++
  ([("csrrw", 1), ("csrrs", 2), ("csrrc", 3)].map fun (n, f) =>
    ⟨txt n, f <<< 12 ||| 0x73, [.x 7, .csr, .x 15], none, .none, .base⟩) ++
  ([("csrrwi", 5), ("csrrsi", 6), ("csrrci", 7)].map fun (n, f) =>
    ⟨txt n, f <<< 12 ||| 0x73, [.x 7, .csr, .uns 15 5], none, .none, .base⟩) ++
  ([("ecall", 0x00000073), ("ebreak", 0x00100073), ("sret", 0x10200073), ("mret", 0x30200073),
    ("wfi", 0x10500073)].map fun (n, w) => ⟨txt n, w, [], none, .none, .base⟩) ++
  [⟨txt "sfence.vma", 0x12000073, [.x 15, .x 20], none, .none, .base⟩]

/-- The atomics at both widths (R54, R210). -/
def atomicRows : List Row :=
  [(".w", 0), (".d", 1)].flatMap fun (s, d) =>
    [⟨txt "lr" ++ txt s, 2 <<< 27 ||| d <<< 12 ||| 0x2F, [.x 7, .mem], none, .atomic, .base⟩] ++
    ([("sc", 3), ("amoswap", 1), ("amoadd", 0), ("amoxor", 4), ("amoand", 12), ("amoor", 8), ("amomin", 16),
      ("amomax", 20), ("amominu", 24), ("amomaxu", 28)].map fun (n, f) =>
      ⟨txt n ++ txt s, f <<< 27 ||| d <<< 12 ||| 0x2F, [.x 7, .x 20, .mem], none, .atomic, .base⟩)

/-- The operands `vs2` and `vs1` of the VV format, with their chain bits. -/
def vs2c : Slot := .v 20 (some 27)
def vs1c : Slot := .v 15 (some 26)

/-- A vector row on OP-V or custom-2. -/
def vecRow (n : String) (form : String) (f4 f3 op : Nat) (slots : List Slot) : Row :=
  ⟨txt n ++ txt form, f4 <<< 28 ||| f3 <<< 12 ||| op, slots, some 25, .none, .lvec⟩

/-- The integer forms of a cell (R48, R50): `vv` and `vx`, and `vi` with its immediate. -/
def intForms (n : String) (f4 op : Nat) (vi : Option Slot) : List Row :=
  [vecRow n ".vv" f4 0 op [.v 7 none, vs2c, vs1c], vecRow n ".vx" f4 1 op [.v 7 none, vs2c, .x 15]] ++
  (match vi with
    | some i => [vecRow n ".vi" f4 2 op [.v 7 none, vs2c, i]]
    | none => [])

/-- OP-V (R48, R49). -/
def opvRows : List Row :=
  ([("vadd", 0, some .imm5), ("vsub", 1, none), ("vmul", 2, none), ("vmulh", 3, none), ("vmulhu", 4, none),
    ("vmacc", 5, none), ("vand", 6, some .imm5), ("vor", 7, some .imm5), ("vxor", 8, some .imm5),
    ("vsll", 9, some (.uns 15 5)), ("vsrl", 10, some (.uns 15 5)), ("vsra", 11, some (.uns 15 5)),
    ("vmin", 12, none), ("vmax", 13, none), ("vminu", 14, none), ("vmaxu", 15, none)].flatMap
    fun (n, f4, vi) => intForms n f4 0x57 vi) ++
  ([("vfadd", 0), ("vfsub", 1), ("vfmul", 2), ("vfdiv", 3), ("vfmacc", 4), ("vfnmacc", 5), ("vfmsac", 6),
    ("vfmin", 7), ("vfmax", 8), ("vfsgnj", 9), ("vfsgnjn", 10), ("vfsgnjx", 11)].flatMap fun (n, f4) =>
    [vecRow n ".vv" f4 3 0x57 [.v 7 none, vs2c, vs1c], vecRow n ".vf" f4 4 0x57 [.v 7 none, vs2c, .x 15]]) ++
  [vecRow "vfsqrt" "" 12 3 0x57 [.v 7 none, vs2c], vecRow "vfclass" "" 13 3 0x57 [.v 7 none, vs2c],
   ⟨txt "vset", 0x7057, [.x 7, .x 15, .vtype], none, .none, .lvec⟩,
   ⟨txt "vsetv", 0x10007057, [.x 7, .x 15, .x 20], none, .none, .lvec⟩]

/-- Custom-2 (R50, R61). -/
def custom2Rows : List Row :=
  ([("vmseq", 0, true), ("vmsne", 1, true), ("vmslt", 2, false), ("vmsltu", 3, false), ("vmsle", 4, true),
    ("vmsleu", 5, true), ("vsadd", 6, true), ("vsaddu", 7, true), ("vssub", 8, false), ("vssubu", 9, false),
    ("vdiv", 10, false), ("vdivu", 11, false), ("vrem", 12, false), ("vremu", 13, false),
    ("vmerge", 14, true)].flatMap fun (n, f4, vi) =>
    intForms n f4 0x5B (if vi then some Slot.imm5 else none)) ++
  [vecRow "vmv" ".vv" 15 0 0x5B [.v 7 none, vs1c], vecRow "vmv" ".vx" 15 1 0x5B [.v 7 none, .x 15],
   vecRow "vmv" ".vi" 15 2 0x5B [.v 7 none, .imm5], vecRow "vcvt" "" 0 6 0x5B [.v 7 none, vs2c, .source]] ++
  ([("vmfeq", 0), ("vmfne", 1), ("vmflt", 2), ("vmfle", 3), ("vmand", 4), ("vmor", 5), ("vmxor", 6),
    ("vmandn", 7)].map fun (n, f4) => vecRow n "" f4 3 0x5B [.v 7 none, vs2c, vs1c]) ++
  [vecRow "vcpop" "" 8 3 0x5B [.x 7, vs2c], vecRow "vfirst" "" 9 3 0x5B [.x 7, vs2c],
   vecRow "viota" "" 10 3 0x5B [.v 7 none, vs2c], vecRow "vid" "" 11 3 0x5B [.v 7 none]] ++
  ([("vredsum", 0), ("vredmax", 1), ("vredmin", 2), ("vredmaxu", 3), ("vredminu", 4), ("vredand", 5),
    ("vredor", 6), ("vredxor", 7), ("vfredsum", 8), ("vfredmax", 9), ("vfredmin", 10)].map fun (n, f4) =>
    vecRow n "" f4 4 0x5B [.v 7 none, vs2c, vs1c]) ++
  ([("vslideup", 0), ("vslidedown", 1), ("vslide1up", 2), ("vslide1down", 3)].map fun (n, f4) =>
    vecRow n "" f4 5 0x5B [.v 7 none, vs2c, .x 15]) ++
  [vecRow "vrgather" "" 4 5 0x5B [.v 7 none, vs2c, vs1c], vecRow "vcompress" "" 5 5 0x5B [.v 7 none, vs2c, vs1c],
   vecRow "vmvxs" "" 6 5 0x5B [.x 7, vs2c], vecRow "vmvsx" "" 7 5 0x5B [.v 7 none, .x 15]] ++
  ([("vfrsqrt", 0), ("vfrcp", 1), ("vfexp2", 2), ("vflog2", 3), ("vfsin", 4), ("vfcos", 5)].map fun (n, f4) =>
    vecRow n "" f4 7 0x5B [.v 7 none, vs2c]) ++
  [vecRow "vmpush" "" 6 7 0x5B [vs1c], vecRow "vmelse" "" 7 7 0x5B [], vecRow "vmpop" "" 8 7 0x5B [],
   vecRow "vfchk" "" 9 7 0x5B [vs1c], vecRow "vfmclr" "" 10 7 0x5B [], vecRow "vappend" "" 11 7 0x5B [vs2c, .mem]]

/-- A vector memory row of one opcode and mode. -/
def vmRow (n s : String) (mode width op : Nat) (spec : Bool) (more : List Slot) : Row :=
  ⟨txt n ++ txt s ++ (if spec then txt ".s" else []),
    (if spec then 1 <<< 28 else 0) ||| mode <<< 26 ||| width <<< 12 ||| op, .v 7 none :: .mem :: more, some 25,
    .none, .lvec⟩

/-- The vector loads and stores (R46, R51, R217). -/
def vmRows : List Row :=
  ([("8", 0), ("16", 1), ("32", 2), ("64", 3), ("4p", 4), ("6p", 5)].flatMap fun (s, w) =>
    [vmRow "vle" s 0 w 0x07 false [], vmRow "vle" s 0 w 0x07 true [], vmRow "vse" s 0 w 0x27 false []]) ++
  ([("8", 0), ("16", 1), ("32", 2), ("64", 3)].flatMap fun (s, w) =>
    [vmRow "vlse" s 1 w 0x07 false [.x 20], vmRow "vlse" s 1 w 0x07 true [.x 20],
     vmRow "vsse" s 1 w 0x27 false [.x 20], vmRow "vlxe" s 2 w 0x07 false [.v 20 none],
     vmRow "vlxe" s 2 w 0x07 true [.v 20 none], vmRow "vsxe" s 2 w 0x27 false [.v 20 none]])

/-- Custom-1 (R52). -/
def matRows : List Row :=
  let row (n : String) (f7 f3 : Nat) (slots : List Slot) (mask : Option Nat) : Row :=
    ⟨txt n, f7 <<< 25 ||| f3 <<< 12 ||| 0x2B, slots, mask, .none, .lmat⟩
  [row "mset" 0x00 0 [.x 7, .x 15] none, row "mrel" 0x01 0 [.x 15] none, row "mzero" 0x02 0 [.acc] none,
   row "mopa" 0x08 0 [.acc, .v 15 none, .v 20 none] none, row "mops" 0x09 0 [.acc, .v 15 none, .v 20 none] none,
   row "mopai" 0x0A 0 [.acc, .v 15 none, .v 20 none] none, row "mrd" 0x10 0 [.v 7 none, .acc, .x 15] none,
   row "mwr" 0x11 0 [.acc, .v 20 none, .x 15] none, row "mrdc" 0x12 0 [.v 7 none, .acc, .x 15] none,
   row "mwrc" 0x13 0 [.acc, .v 20 none, .x 15] none] ++
  ([("mdot.4", 0), ("mdot.8", 1), ("mdot.16", 2), ("mdot.32", 3)].map fun (n, f3) =>
    row n 0x18 f3 [.v 7 none, .v 20 none, .v 15 none] none) ++
  [row "vmaxexp" 0x20 0 [.v 20 none] (some 12), row "vqst" 0x21 0 [.v 7 none, .mem] (some 12),
   row "vqst2" 0x21 2 [.v 7 none, .mem] (some 12), row "vqsave" 0x28 0 [.mem] none,
   row "vqload" 0x29 0 [.mem] none, row "vscsave" 0x2A 0 [.mem] none, row "vscload" 0x2B 0 [.mem] none,
   row "vqclr" 0x2C 0 [] none]

/-- Custom-0 (R53). -/
def qRows : List Row :=
  let row (n : String) (f7 : Nat) (slots : List Slot) (sc : Bool) : Row :=
    ⟨txt n, f7 <<< 25 ||| 0x0B, slots, none, if sc then .scope else .none, .lq⟩
  [row "task.spawn" 0x00 [.x 7, .x 15] false, row "task.spawnt" 0x01 [.x 15] false,
   row "task.fork" 0x02 [.x 7, .x 15] false, row "task.forkt" 0x03 [.x 15] false,
   row "task.pop" 0x04 [.x 7, .x 15] false, row "task.join" 0x05 [.x 7, .x 15] true,
   row "task.exit" 0x06 [] false] ++
  ([("gbar.arrive", 0x10), ("gbar.max", 0x11), ("gbar.min", 0x12), ("gbar.add", 0x13), ("gbar.or", 0x14)].map
    fun (n, f7) => row n f7 [.x 7, .x 15, .uns 20 4] false) ++
  [row "msg.send" 0x20 [.x 7, .x 15, .x 20] true, row "msg.sendt" 0x21 [.x 15, .x 20] true,
   row "msg.done" 0x22 [] false, row "wait" 0x30 [.x 7, .x 15, .x 20] true,
   row "fence.s" 0x31 [.set 20 false, .set 15 false] true, row "pub" 0x32 [.x 15] false,
   row "lda.w" 0x33 [.x 7, .mem] true, row "lda.d" 0x34 [.x 7, .mem] true,
   row "stl.w" 0x35 [.x 20, .mem] true, row "stl.d" 0x36 [.x 20, .mem] true] ++
  [row "aq.notify" 0x40 [.x 15, .x 20] true, row "tcopy" 0x48 [.x 7, .x 15] true,
   row "cm.acq" 0x49 [.x 7, .x 15, .x 20] false, row "strm.set" 0x50 [.uns 20 2, .mem] false]

/-- Custom-3 (R55, R56). -/
def custom3Rows : List Row :=
  let gfx (n : String) (f6 : Nat) (slots : List Slot) : Row :=
    ⟨txt n, f6 <<< 26 ||| 0x7B, slots, some 25, .none, .lgfx⟩
  let fw (n : String) (f3 : Nat) (slots : List Slot) : Row := ⟨txt n, f3 <<< 12 ||| 0x7B, slots, none, .none, .lfw⟩
  [gfx "vtex" 0x00 [.v 7 none, .v 20 none, .x 15], gfx "vrayq" 0x04 [.v 7 none, .v 20 none, .x 15],
   gfx "vrayo" 0x05 [.v 7 none, .v 20 none, .x 15], gfx "vsobol" 0x08 [.v 7 none, .v 20 none, .x 15],
   gfx "vvbmin" 0x0C [.v 7 none, .v 20 none, .mem], gfx "vblend" 0x10 [.v 7 none, .v 20 none, .x 15],
   gfx "rc.q" 0x20 [.v 7 none, .v 20 none], gfx "rc.qt" 0x21 [.v 7 none, .v 20 none, .v 15 none]] ++
  [fw "fw.ring" 0 [.x 7, .x 15, .x 20], fw "fw.bext" 1 [.x 7, .x 15, .uns 26 6, .len],
   fw "fw.swait" 2 [.x 7, .x 15], fw "fw.disp" 3 [.x 7, .x 15, .x 20], fw "fw.qcbld" 4 [.x 7, .x 15],
   fw "fw.qcbst" 5 [.x 15, .x 20]]

/-- Every mnemonic. -/
def rows : List Row :=
  baseRows ++ atomicRows ++ opvRows ++ custom2Rows ++ vmRows ++ matRows ++ qRows ++ custom3Rows

/-- The suffix that ends a text, if one of the list does: the text before it and its code. -/
def cutSuffix (l : List (String × Nat)) (t : Text) : Option (Text × Nat) :=
  match l.find? (fun p => (txt p.1).isSuffixOf t) with
  | some p => some (t.take (t.length - p.1.length), p.2)
  | none => none

/-- The row of a mnemonic with its suffixes, and the bits these put into the word (R47, R54, R62). -/
def rowOf (m : Text) : Option (Row × Nat) :=
  let named (n : Text) : Option Row := rows.find? (fun r => r.name = n)
  let (m, scope) := match named m, cutSuffix scopeNames m with
    | none, some (n, c) => (n, some c)
    | _, _ => (m, none)
  match named m with
  | some r => match r.suffix, scope with
    | .none, none => some (r, 0)
    | .none, some _ => none
    | .scope, c => some (r, c.getD 4 <<< 12)
    | .atomic, c => (atomicScope (c.getD 4)).map (r, ·)
  | none => match cutSuffix orderNames m with
    | some (n, o) => match named n with
      | some r =>
        if r.suffix = .atomic then (atomicScope (scope.getD 4)).map (fun s => (r, o <<< 25 ||| s)) else none
      | none => none
    | none => none
where
  /-- The scope of an atomic in bits [14:13]; no atomic has hart scope (R54). -/
  atomicScope (c : Nat) : Option Nat :=
    if c = 1 then some 0 else if c = 4 then some (1 <<< 13) else if c = 2 then some (2 <<< 13)
    else if c = 3 then some (3 <<< 13) else none

/-! ### Operands -/

/-- The relocation types (R68). -/
inductive Rel where
  | none | abs64 | abs32 | branch | jal | call | pcrelHi20 | pcrelLo12I | pcrelLo12S | hi20 | lo12I | lo12S | task64
  deriving DecidableEq, Repr

/-- What a relocation stands against: a symbol, or the place `back` bytes before its own field, which gydas labels
itself for the second word of `la`. -/
inductive Against where
  | sym (name : Text)
  | back (n : Nat)
  deriving DecidableEq, Repr

/-- A relocation of a word: its type, its symbol and its addend. -/
structure WordRel where
  rel : Rel
  against : Against
  addend : Word
  deriving DecidableEq, Repr

/-- What an operand gives: bits of the word, and perhaps a relocation. -/
abbrev Bits := Nat × Option WordRel

/-- An integer in a signed field of n bits. -/
def signedField (n : Nat) (v : Int) : Option Nat :=
  if -2 ^ (n - 1) ≤ v ∧ v < 2 ^ (n - 1) then some (v % 2 ^ n).toNat else none

/-- The B immediate of an offset, whose bit 0 is 0. -/
def branchBits (v : Nat) : Nat :=
  (v >>> 12 % 2) <<< 31 ||| (v >>> 5 % 64) <<< 25 ||| (v >>> 1 % 16) <<< 8 ||| (v >>> 11 % 2) <<< 7

/-- The J immediate of an offset, whose bit 0 is 0. -/
def jumpBits (v : Nat) : Nat :=
  (v >>> 20 % 2) <<< 31 ||| (v >>> 1 % 1024) <<< 21 ||| (v >>> 11 % 2) <<< 20 ||| (v >>> 12 % 256) <<< 12

/-- An absolute value of an operand. -/
def absolute (ev : Expr → Option Val) (o : List Tok) : Option Int :=
  match parse o with
  | some e => match ev e with
    | some ⟨none, v⟩ => some v.toInt
    | _ => none
  | none => none

/-- `(rs1)` after the tokens of an immediate: these, and the register. -/
def memOperand (o : List Tok) : Option (List Tok × Nat) :=
  match o.reverse with
  | .op ')' :: .id r :: .op '(' :: imm => (intReg r).map (imm.reverse, ·)
  | _ => none

/-- A set of `fence`: letters from `iorw` in that order, or `0` for none (R60, R100). -/
def setBitsOf (empty : Bool) : List Tok → Option Nat
  | [.num v] => if empty && v = 0 then some 0 else none
  | [.id t] => if t = [] then none else letters 8 ['i', 'o', 'r', 'w'] t
  | _ => none
where
  letters : Nat → List Char → Text → Option Nat
    | _, _, [] => some 0
    | _, [], _ :: _ => none
    | b, l :: ls, c :: cs => if c = l then (letters (b / 2) ls cs).map (b + ·) else letters (b / 2) ls (c :: cs)

/-- A target (R96): a label gives a relocation, an absolute expression is the offset, a multiple of 4 in range. -/
def target (ev : Expr → Option Val) (rel : Rel) (n : Nat) (place : Nat → Nat) (o : List Tok) : Option Bits :=
  match parse o with
  | some e => match ev e with
    | some ⟨some l, a⟩ => some (0, some ⟨rel, .sym l, a⟩)
    | some ⟨none, v⟩ => if v.toInt % 4 = 0 then (signedField n v.toInt).map (fun w => (place w, none)) else none
    | none => none
  | none => none

/-- The bits of one operand, or of the operands that a `vset` type takes; with what is left of the operands. -/
def Slot.fill (ev : Expr → Option Val) : Slot → List (List Tok) → Option (Bits × List (List Tok))
  | _, [] => none
  | .x lo, [.id t] :: os => (intReg t).map (fun i => ((i <<< lo, none), os))
  | .v lo _, [.id t] :: os => (vecReg t).map (fun i => ((i <<< lo, none), os))
  | .v lo (some c), [.id t, .op ':', .id k] :: os =>
    if k = ['c'] then (vecReg t).map (fun i => ((1 <<< c ||| i <<< lo, none), os)) else none
  | .mem, o :: os => do
    let (i, r) ← memOperand o
    if i = [] then some ((r <<< 15, none), os) else none
  | .memI, o :: os => do
    let (i, r) ← memOperand o
    let v ← signedField 12 (← absolute ev i)
    some ((v <<< 20 ||| r <<< 15, none), os)
  | .memS, o :: os => do
    let (i, r) ← memOperand o
    let v ← signedField 12 (← absolute ev i)
    some (((v >>> 5) <<< 25 ||| (v % 32) <<< 7 ||| r <<< 15, none), os)
  | .imm12, o :: os => do some (((← signedField 12 (← absolute ev o)) <<< 20, none), os)
  | .imm5, o :: os => do some (((← signedField 5 (← absolute ev o)) <<< 15, none), os)
  | .imm20, o :: os => do
    let v ← absolute ev o
    if -524288 ≤ v ∧ v ≤ 1048575 then some (((v % 1048576).toNat <<< 12, none), os) else none
  | .uns lo n, o :: os => do
    let v ← absolute ev o
    if 0 ≤ v ∧ v < 2 ^ n then some ((v.toNat <<< lo, none), os) else none
  | .len, o :: os => do
    let v ← absolute ev o
    if 1 ≤ v ∧ v ≤ 64 then some (((v.toNat - 1) <<< 20, none), os) else none
  | .branch, o :: os => (target ev .branch 13 branchBits o).map (·, os)
  | .jump, o :: os => (target ev .jal 21 jumpBits o).map (·, os)
  | .acc, [.id t] :: os =>
    if t = txt "acc0" then some ((0, none), os) else if t = txt "acc1" then some ((1 <<< 12, none), os) else none
  | .csr, [.id t] :: os => match lookup csrNames t with
    | some n => some ((n <<< 20, none), os)
    | none => do
      let v ← absolute ev [.id t]
      if 0 ≤ v ∧ v < 4096 then some ((v.toNat <<< 20, none), os) else none
  | .csr, o :: os => do
    let v ← absolute ev o
    if 0 ≤ v ∧ v < 4096 then some ((v.toNat <<< 20, none), os) else none
  | .vtype, [.id w] :: [.id f] :: os => do
    let t := (← lookup widthNames w) ||| (← lookup formatNames f) <<< 4
    match os with
    | [.id z] :: os => if z = txt "fz" then some (((t ||| 1 <<< 7) <<< 20, none), os) else none
    | _ => some ((t <<< 20, none), os)
  | .source, [.id w] :: [.id f] :: os => do
    some (((← lookup widthNames w) <<< 18 ||| (← lookup formatNames f) <<< 15, none), os)
  | .set lo e, o :: os => do some (((← setBitsOf e o) <<< lo, none), os)
  | _, _ => none

/-- All operands of a row; none may be left over. -/
def fillAll (ev : Expr → Option Val) : List Slot → List (List Tok) → Option Bits
  | [], [] => some (0, none)
  | [], _ :: _ => none
  | s :: ss, os => do
    let ((b, r), os) ← s.fill ev os
    let (b', r') ← fillAll ev ss os
    some (b ||| b', r.or r')

/-- The operands without a trailing `v0.t`, and whether it stood there (R60). -/
def cutMask (os : List (List Tok)) : List (List Tok) × Bool :=
  match os.reverse with
  | [.id t] :: r => if t = txt "v0.t" then (r.reverse, true) else (os, false)
  | _ => (os, false)

/-- An instruction word with its relocation and extension. -/
structure Coded where
  word : W32
  rel : Option WordRel := none
  ext : Ext := .base
  deriving DecidableEq, Repr

/-- The word of a row's mnemonic with its operands. It must decode, on an Orrery core if it belongs to Xlfw: an
encoding that R40 to R56 do not assign is an error. -/
noncomputable def codeRow (ev : Expr → Option Val) (m : Text) (os : List (List Tok)) : Option Coded := do
  let (r, s) ← rowOf m
  let (os, masked) := cutMask os
  let vm ← match r.mask, masked with
    | some b, true => some (1 <<< b)
    | none, true => none
    | _, false => some 0
  let (b, rel) ← fillAll ev r.slots os
  let w : W32 := BitVec.ofNat 32 (r.word ||| s ||| vm ||| b)
  match decode (r.ext = .lfw) w with
  | .ok _ => some ⟨w, rel, r.ext⟩
  | .error _ => none

/-! ### Pseudo-instructions (R63) -/

/-- `li rd, imm`: one `addi`, or `lui` and `addiw`; a value outside signed 32 bits is an error. -/
def liWords (rd : Nat) (imm : Int) : Option (List W32) :=
  if -2048 ≤ imm ∧ imm ≤ 2047 then some [BitVec.ofNat 32 ((imm % 4096).toNat <<< 20 ||| rd <<< 7 ||| 0x13)]
  else if -2 ^ 31 ≤ imm ∧ imm < 2 ^ 31 then
    let hi := (imm + 0x800) / 4096
    let lo := imm - hi * 4096
    some [BitVec.ofNat 32 ((hi % 1048576).toNat <<< 12 ||| rd <<< 7 ||| 0x37),
      BitVec.ofNat 32 ((lo % 4096).toNat <<< 20 ||| rd <<< 15 ||| rd <<< 7 ||| 0x1B)]
  else none

/-- The symbol that `la` or `call` names, with its addend. -/
def symbolOf (ev : Expr → Option Val) (o : List Tok) : Option (Text × Word) :=
  match parse o with
  | some e => match e, ev e with
    | _, some ⟨some l, a⟩ => some (l, a)
    | .sym n, some ⟨none, _⟩ => some (n, 0)
    | _, _ => none
  | none => none

/-- The words of one instruction or pseudo-instruction. -/
noncomputable def code (ev : Expr → Option Val) (m : Text) (os : List (List Tok)) : Option (List Coded) :=
  let one (m : String) (os : List (List Tok)) : Option (List Coded) := (codeRow ev (txt m) os).map ([·])
  let zero : List Tok := [.id (txt "x0")]
  let ra : List Tok := [.id (txt "ra")]
  if m = txt "nop" then (if os = [] then one "addi" [zero, zero, [.num 0]] else none)
  else if m = txt "mv" then
    match os with
    | [rd, rs] => one "addi" [rd, rs, [.num 0]]
    | _ => none
  else if m = txt "li" then
    match os with
    | [[.id rd], o] => do
      some ((← liWords (← intReg rd) (← absolute ev o)).map (fun w => ⟨w, none, .base⟩))
    | _ => none
  else if m = txt "la" then
    match os with
    | [[.id rd], o] => do
      let r ← intReg rd
      let (n, a) ← symbolOf ev o
      some [⟨BitVec.ofNat 32 (r <<< 7 ||| 0x17), some ⟨.pcrelHi20, .sym n, a⟩, .base⟩,
        ⟨BitVec.ofNat 32 (r <<< 15 ||| r <<< 7 ||| 0x13), some ⟨.pcrelLo12I, .back 4, 0⟩, .base⟩]
    | _ => none
  else if m = txt "call" then
    match os with
    | [o] => do
      let (n, a) ← symbolOf ev o
      some [⟨0x00000097, some ⟨.call, .sym n, a⟩, .base⟩, ⟨0x000080E7, none, .base⟩]
    | _ => none
  else if m = txt "ret" then (if os = [] then one "jalr" [zero, [.num 0, .op '('] ++ ra ++ [.op ')']] else none)
  else if m = txt "j" then
    match os with
    | [o] => one "jal" [zero, o]
    | _ => none
  else if m = txt "bnez" then
    match os with
    | [rs, o] => one "bne" [rs, zero, o]
    | _ => none
  else if m = txt "beqz" then
    match os with
    | [rs, o] => one "beq" [rs, zero, o]
    | _ => none
  else if m = txt "pause" then (if os = [] then one "fence" [[.id ['w']], [.num 0]] else none)
  else if m = txt "fence" && os = [] then one "fence" [[.id (txt "iorw")], [.id (txt "iorw")]]
  else (codeRow ev m os).map ([·])

/-- How many bytes an instruction takes, which only `li` decides by its value. -/
def codeSize (ev : Expr → Option Val) (m : Text) (os : List (List Tok)) : Option Nat :=
  if m = txt "la" || m = txt "call" then some 8
  else if m = txt "li" then
    match os with
    | [_, o] => do some (4 * (← liWords 0 (← absolute ev o)).length)
    | _ => none
  else some 4

end Sys2Proof.Machine.Gydas
end

