-- ==== Sys2Proof/Machine/GydasObject.lean ====
section
/-!
DEFINITION. Machine/GydasObject.lean: the assembler gydas from source lines to an object (R59, R64 to R67), and the
linker gydld from objects to bytes at addresses (R65, R68, R69).
-/

namespace Sys2Proof.Machine.Gydas

/-! ### Items -/

/-- What a line holds (R59, R64). -/
inductive Item where
  | label (name : Text)
  /-- `.section name`, with `code` where `, code` is given, and the four sections that always stand. -/
  | select (name : Text) (code : Bool)
  | align (n : List Tok)
  /-- `.byte` to `.dword`: the bytes of each value. -/
  | data (width : Nat) (vs : List (List Tok))
  /-- `.f32` and `.bf16`. -/
  | floats (f : Ieee) (vs : List Text)
  | zero (n : List Tok)
  | ascii (t : Text)
  | bind (name : Text) (everywhere : Bool)
  | equ (name : Text) (e : Expr)
  | task (name : Text) (queue : Bool)
  | lanes (n : List Tok)
  | scratch (n : List Tok)
  | ins (m : Text) (os : List (List Tok))
  deriving DecidableEq, Repr

/-- An identifier alone (R59). -/
def isIdent (t : Text) : Bool :=
  match t with
  | [] => false
  | c :: cs => idStart c && cs.all idChar

/-- A directive (R64); one that is not listed is an error. -/
def directive (w rest : Text) : Option Item :=
  let name (f : Text → Item) : Option Item := if isIdent rest then some (f rest) else none
  let value (f : List Tok → Item) : Option Item :=
    match operands rest with
    | some [o] => some (f o)
    | _ => none
  let values (n : Nat) : Option Item :=
    match operands rest with
    | some (o :: os) => some (.data n (o :: os))
    | _ => none
  let plain (t : String) : Option Item := if rest = [] then some (.select (txt t) false) else none
  if w = txt ".text" then plain ".text"
  else if w = txt ".data" then plain ".data"
  else if w = txt ".rodata" then plain ".rodata"
  else if w = txt ".bss" then plain ".bss"
  else if w = txt ".section" then
    match argTexts rest with
    | [n] => if isIdent n then some (.select n false) else none
    | [n, c] => if isIdent n && c = txt "code" then some (.select n true) else none
    | _ => none
  else if w = txt ".align" then value .align
  else if w = txt ".byte" then values 1
  else if w = txt ".half" then values 2
  else if w = txt ".word" then values 4
  else if w = txt ".dword" then values 8
  else if w = txt ".f32" then (if rest = [] then none else some (.floats fp32 (argTexts rest)))
  else if w = txt ".bf16" then (if rest = [] then none else some (.floats bf16 (argTexts rest)))
  else if w = txt ".zero" then value .zero
  else if w = txt ".ascii" then
    match rest, rest.reverse with
    | '"' :: t, '"' :: _ => if t ≠ [] && !(t.dropLast.contains '"') then some (.ascii t.dropLast) else none
    | _, _ => none
  else if w = txt ".global" then name (.bind · true)
  else if w = txt ".local" then name (.bind · false)
  else if w = txt ".equ" then
    match operands rest with
    | some [[.id n], o] => (parse o).map (.equ n)
    | _ => none
  else if w = txt ".task" then name (.task · false)
  else if w = txt ".qentry" then name (.task · true)
  else if w = txt ".lanes" then value .lanes
  else if w = txt ".scratch" then value .scratch
  else none

/-- The items of an expanded line: at most one label, and one instruction or directive (R59). -/
def lineItems (t : Text) : Option (List Item) :=
  let (label, rest) := cutLabel t
  let l : List Item := match label with
    | some n => [.label n]
    | none => []
  let (w, rest) := cutWord rest
  if w = [] then some l
  else if w.head? = some '.' then (directive w rest).map (fun i => l ++ [i])
  else (operands rest).map (fun os => l ++ [.ins w os])

/-! ### Objects -/

/-- What a relocation or a symbol stands for: a place in a section, or a name. -/
inductive SymRef where
  | named (name : Text)
  | place (sec : Text) (off : Nat)
  deriving DecidableEq, Repr

/-- A relocation record (R68): its field, its type, its symbol and its addend. -/
structure ObjRel where
  sec : Text
  off : Nat
  rel : Rel
  sym : SymRef
  addend : Word
  deriving DecidableEq, Repr

/-- What a symbol is: a place in a section, or an absolute value (R64). -/
inductive SymDef where
  | place (sec : Text) (off : Nat)
  | abs (v : Word)
  deriving DecidableEq, Repr

structure Sym where
  name : Text
  is : SymDef
  everywhere : Bool
  deriving DecidableEq, Repr

/-- A section: executable if it is `.text` or a code section (R64). -/
structure Sect where
  name : Text
  exec : Bool
  align : Nat
  bytes : List Byte
  deriving DecidableEq, Repr

/-- The ELF header values that every object carries (R65): EI_DATA little-endian, and the machine. -/
def eiData : Nat := 1
def eMachine : Nat := 0x4B4C

/-- An object (R65): the extension bits of `e_flags`, the sections, the symbols, the relocations, and the names
that `.task` or `.qentry` marked. -/
structure Object where
  eFlags : Nat
  sects : List Sect
  syms : List Sym
  rels : List ObjRel
  marked : List Text
  deriving DecidableEq, Repr

/-- The bit of an extension in `e_flags` (R65). -/
def Ext.flag : Ext → Nat
  | .base => 0
  | .lvec => 1
  | .lmat => 2
  | .lgfx => 4
  | .lq => 8
  | .lfw => 16

/-- An entry of the task table (R66, R67): its symbol, the lane request, the scratchpad banks, and whether it is a
queue entry. -/
structure TaskEntry where
  name : Text
  lanes : Nat
  banks : Nat
  queue : Bool
  deriving DecidableEq, Repr

/-- The 16 bytes of an entry, its address left to KL_TASK64 (R66). -/
def TaskEntry.bytes (t : TaskEntry) : List Byte :=
  List.replicate 8 0 ++ [BitVec.ofNat 8 t.lanes, BitVec.ofNat 8 t.banks, if t.queue then 1 else 0] ++
    List.replicate 5 0

/-- The section of the task table. -/
def tasksName : Text := txt ".krylas.tasks"

/-- What a runtime reads from an entry for the record it builds (R67, R288): `code`, `lanes` and `spad`. -/
def recordOf (entry : List Byte) : Word × Byte × Byte :=
  (BitVec.ofNat 64 (ofBytes (entry.take 8)), entry.getD 8 0, entry.getD 9 0)

/-! ### Assembly -/

/-- A section being filled: its bytes with the last one first. -/
structure Filling where
  name : Text
  exec : Bool
  align : Nat := 1
  size : Nat := 0
  rev : List Byte := []
  deriving DecidableEq, Repr

/-- The assembler's state: the current section, the sections, the labels with their places, the relocations,
the bindings, the task table, and the lane and scratchpad requests for the next entry. -/
structure Asm where
  cur : Text
  parts : List Filling
  labels : List (Text × Text × Nat) := []
  rels : List ObjRel := []
  binds : List (Text × Bool) := []
  tasks : List TaskEntry := []
  lanes : Nat := 0
  banks : Nat := 0
  eFlags : Nat := 0
  deriving DecidableEq, Repr

/-- The start of a source: the four sections stand, and `.text` is current (log 87). -/
def Asm.start : Asm :=
  { cur := txt ".text"
    parts := [⟨txt ".text", true, 1, 0, []⟩, ⟨txt ".data", false, 1, 0, []⟩, ⟨txt ".rodata", false, 1, 0, []⟩,
      ⟨txt ".bss", false, 1, 0, []⟩] }

/-- The current section. -/
def Asm.part (a : Asm) : Filling := (a.parts.find? (fun p => p.name = a.cur)).getD ⟨a.cur, false, 1, 0, []⟩

/-- The current section changed. -/
def Asm.onPart (a : Asm) (f : Filling → Filling) : Asm :=
  { a with parts := a.parts.map (fun p => if p.name = a.cur then f p else p) }

/-- Bytes at the end of the current section. -/
def Asm.emit (a : Asm) (bs : List Byte) : Asm :=
  a.onPart (fun p => { p with size := p.size + bs.length, rev := bs.reverse ++ p.rev })

/-- The padding of `.align n` in a section of this size (R64): zero bytes, or in a code section zero bytes up to a
multiple of 4 (of 2^n when n < 2) and then `nop` words. -/
def padding (exec : Bool) (size n : Nat) : List Byte :=
  let upTo (m k : Nat) : Nat := (m - k % m) % m
  if exec then
    let z := upTo (if n < 2 then 2 ^ n else 4) size
    List.replicate z 0 ++
      (List.replicate ((upTo (2 ^ n) size - z) / 4) [(0x13 : Byte), 0, 0, 0]).flatten
  else List.replicate (upTo (2 ^ n) size) 0

/-- What expressions are read with: the `.equ` symbols, and the labels whose places are known. -/
structure Env where
  equs : List (Text × Expr)
  labels : List (Text × Text × Nat)
  deriving DecidableEq, Repr

/-- How far apart two labels of one section stand. -/
def Env.apart (env : Env) (l m : Text) : Option Word :=
  match env.labels.find? (fun p => p.1 = l), env.labels.find? (fun p => p.1 = m) with
  | some (_, s, i), some (_, t, j) => if s = t then some (BitVec.ofNat 64 i - BitVec.ofNat 64 j) else none
  | _, _ => none

/-- The value of a symbol: of its expression where `.equ` defines it, else a label's address. The fuel bounds how
many definitions lead to one another. -/
def Env.symVal (env : Env) : Nat → Text → Option Val
  | 0, _ => none
  | f + 1, n => match env.equs.find? (fun p => p.1 = n) with
    | some (_, e) => e.eval env.apart (env.symVal f)
    | none => some ⟨some n, 0⟩

/-- The value of an expression. -/
def Env.ev (env : Env) (e : Expr) : Option Val := e.eval env.apart (env.symVal (env.equs.length + 1))

/-- The bytes of one value of `.byte` to `.dword`, and the relocation where it is a label's (R64, R68). -/
def dataBytes (env : Env) (width : Nat) (o : List Tok) : Option (List Byte × Option (Rel × Text × Word)) :=
  match parse o with
  | some e => match env.ev e with
    | some ⟨none, v⟩ =>
      if width = 8 ∨ (-2 ^ (8 * width - 1) ≤ v.toInt ∧ v.toInt < 2 ^ (8 * width)) then
        some (toBytes v.toNat width, none)
      else none
    | some ⟨some l, a⟩ =>
      if width = 8 then some (List.replicate 8 0, some (.abs64, l, a))
      else if width = 4 then some (List.replicate 4 0, some (.abs32, l, a))
      else none
    | none => none
  | none => none

/-- A value that the layout depends on. Before the last reading one that is not known yet counts as 0. -/
def Env.now (env : Env) (final : Bool) (o : List Tok) : Option Int :=
  match absolute env.ev o with
  | some v => some v
  | none => if final then none else some 0

/-- Values emitted one after another. -/
def Asm.emitData (env : Env) (width : Nat) : Asm → List (List Tok) → Option Asm
  | a, [] => some a
  | a, o :: os => do
    let (bs, r) ← dataBytes env width o
    let rels := match r with
      | some (k, l, v) => [(⟨a.cur, a.part.size, k, .named l, v⟩ : ObjRel)]
      | none => []
    Asm.emitData env width ({ a with rels := a.rels ++ rels }.emit bs) os

/-- Instruction words emitted one after another. -/
def Asm.emitCode : Asm → List Coded → Asm
  | a, [] => a
  | a, c :: cs =>
    let at_ := a.part.size
    let rels := match c.rel with
      | some r => [(⟨a.cur, at_, r.rel, match r.against with
        | .sym n => .named n
        | .back n => .place a.cur (at_ - n), r.addend⟩ : ObjRel)]
      | none => []
    Asm.emitCode ({ a with rels := a.rels ++ rels, eFlags := a.eFlags ||| c.ext.flag }.emit
      (toBytes c.word.toNat 4)) cs

/-- One item, read with the places that the labels had in the reading before. The last reading emits bytes and
relocations; before it only sizes count, and a value that is not known yet is no error. -/
noncomputable def Asm.item (env : Env) (final : Bool) (a : Asm) : Item → Option Asm
  | .label n => some { a with labels := a.labels ++ [(n, a.cur, a.part.size)] }
  | .select n code =>
    match a.parts.find? (fun p => p.name = n) with
    | some p => if code && !p.exec then none else some { a with cur := n }
    | none => some { a with cur := n, parts := a.parts ++ [⟨n, code, 1, 0, []⟩] }
  | .align o => do
    let n ← env.now final o
    if 0 ≤ n ∧ n ≤ 12 then
      some ((a.emit (padding a.part.exec a.part.size n.toNat)).onPart
        (fun p => { p with align := max p.align (2 ^ n.toNat) }))
    else none
  | .data w os => if final then a.emitData env w os else some (a.emit (List.replicate (w * os.length) 0))
  | .floats f ts => do
    let vs ← ts.mapM decimal
    some (a.emit (vs.flatMap (fun (s, m) => toBytes (f.round 0 false (.fin s m)).1 (f.width / 8))))
  | .zero o => do
    let n ← env.now final o
    if 0 ≤ n then some (a.emit (List.replicate n.toNat 0)) else none
  | .ascii t => some (a.emit ((t.flatMap String.utf8EncodeChar).map (fun b => BitVec.ofNat 8 b.toNat)))
  | .bind n g => some { a with binds := (n, g) :: a.binds }
  | .equ _ _ => some a
  | .task n q => some { a with tasks := a.tasks ++ [⟨n, a.lanes, a.banks, q⟩], lanes := 0, banks := 0 }
  | .lanes o => do
    let n ← env.now final o
    if n ∈ [0, 4, 8, 16, 32] then some { a with lanes := n.toNat } else none
  | .scratch o => do
    let n ← env.now final o
    if 0 ≤ n ∧ n ≤ 2 * 1024 * 1024 then some { a with banks := (n.toNat + 131071) / 131072 } else none
  | .ins m os =>
    if !a.part.exec then none
    else if final then (code env.ev m os).map a.emitCode
    else some (a.emit (List.replicate ((codeSize env.ev m os).getD 8) 0))

/-- The places of the labels: the items are read again until no label moves. -/
noncomputable def settle (is : List Item) (equs : List (Text × Expr)) :
    Nat → List (Text × Text × Nat) → Option (List (Text × Text × Nat))
  | 0, _ => none
  | f + 1, known => do
    let a ← is.foldlM (Asm.item ⟨equs, known⟩ false) Asm.start
    if a.labels = known then some known else settle is equs f a.labels

/-- How often the items may be read before the labels stand (log 87). -/
def readings : Nat := 16

/-- The `.equ` definitions among items. -/
def equsOf (is : List Item) : List (Text × Expr) :=
  is.filterMap fun i => match i with
    | .equ n e => some (n, e)
    | _ => none

/-- The symbols: the labels, and the `.equ` symbols with a value of their own or a label's. -/
def symsOf (env : Env) (binds : List (Text × Bool)) : Option (List Sym) := do
  let everywhere (n : Text) : Bool := ((binds.find? (fun b => b.1 = n)).map (·.2)).getD false
  let ls := env.labels.map (fun (n, s, i) => (⟨n, .place s i, everywhere n⟩ : Sym))
  let es ← env.equs.mapM fun (n, e) => do
    let v ← env.ev e
    match v.base with
    | none => some [(⟨n, .abs v.off, everywhere n⟩ : Sym)]
    | some l => match env.labels.find? (fun p => p.1 = l) with
      | some (_, s, i) => some [⟨n, .place s (BitVec.ofNat 64 i + v.off).toNat, everywhere n⟩]
      | none => some []
  some (ls ++ es.flatten)

/-- Every name stands once. -/
def distinct : List Text → Bool
  | [] => true
  | n :: l => !l.contains n && distinct l

/-- A task entry's symbol must lie at a multiple of 4 in an executable section (R64). -/
def taskOk (parts : List Filling) (syms : List Sym) (t : TaskEntry) : Bool :=
  match syms.find? (fun s => s.name = t.name) with
  | some ⟨_, .place sec off, _⟩ => off % 4 = 0 && parts.any (fun p => p.name = sec && p.exec)
  | _ => false

/-- gydas: from the lines of a source to an object, or an error. -/
noncomputable def assemble (source : List Text) : Option Object := do
  let is := (← (← expandAll source).mapM lineItems).flatten
  let equs := equsOf is
  let labels ← settle is equs readings []
  if !distinct (labels.map (·.1) ++ equs.map (·.1)) then none
  else
    let a ← is.foldlM (Asm.item ⟨equs, labels⟩ true) Asm.start
    let syms ← symsOf ⟨equs, a.labels⟩ a.binds
    if !a.tasks.all (taskOk a.parts syms) then none
    else
      let sects := a.parts.map (fun p => (⟨p.name, p.exec, p.align, p.rev.reverse⟩ : Sect))
      let table : List Sect := if a.tasks = [] then [] else
        [⟨tasksName, false, 8, a.tasks.flatMap TaskEntry.bytes⟩]
      let trels := a.tasks.zipIdx.map (fun (t, i) => (⟨tasksName, 16 * i, .task64, .named t.name, 0⟩ : ObjRel))
      some ⟨a.eFlags, sects ++ table, syms, a.rels ++ trels, a.tasks.map (·.name)⟩

/-! ### Linking (R68, R69) -/

/-- Where a value fits its field, by the last column of R68. `x` is S + A, or S + A − P where the type takes the
address of the field away. -/
def Rel.fits : Rel → Int → Bool
  | .none, _ | .abs64, _ | .lo12I, _ | .lo12S, _ | .pcrelLo12I, _ | .pcrelLo12S, _ | .task64, _ => true
  | .abs32, x => -2 ^ 31 ≤ x && x < 2 ^ 32
  | .branch, x => -4096 ≤ x && x ≤ 4092 && x % 4 = 0
  | .jal, x => -2 ^ 20 ≤ x && x ≤ 2 ^ 20 - 4 && x % 4 = 0
  | .call, x => -2 ^ 31 - 2 ^ 11 ≤ x && x < 2 ^ 31 - 2 ^ 11 && x % 4 = 0
  | .pcrelHi20, x | .hi20, x => -2 ^ 31 - 2 ^ 11 ≤ x && x < 2 ^ 31 - 2 ^ 11

/-- How many bytes a field spans: the pair of KL_CALL is two words. -/
def Rel.size : Rel → Nat
  | .none => 0
  | .abs64 | .call | .task64 => 8
  | _ => 4

/-- Types whose value is taken from the address of the field. -/
def Rel.relative : Rel → Bool
  | .branch | .jal | .call | .pcrelHi20 => true
  | _ => false

/-- The upper 20 bits of a value that its lower 12 complete as a signed immediate. -/
def upper20 (x : Int) : Nat := ((x + 0x800) / 4096 % 1048576).toNat

/-- A word with its U, I, S, B or J immediate replaced. -/
def putU (w : Nat) (v : Nat) : Nat := w % 4096 ||| v <<< 12
def putI (w : Nat) (v : Nat) : Nat := w % 1048576 ||| v <<< 20
def putS (w : Nat) (v : Nat) : Nat := w % 128 ||| (v % 32) <<< 7 ||| (w >>> 12 % 8192) <<< 12 ||| v >>> 5 <<< 25
def putB (w : Nat) (v : Nat) : Nat := w % 128 ||| (w >>> 12 % 8192) <<< 12 ||| branchBits v
def putJ (w : Nat) (v : Nat) : Nat := w % 4096 ||| jumpBits v

/-- A field with the value put in (R68). -/
def Rel.patch (r : Rel) (x : Int) (old : Nat) : Nat :=
  match r with
  | .none => old
  | .abs64 | .task64 => (x % 2 ^ 64).toNat
  | .abs32 => (x % 2 ^ 32).toNat
  | .branch => putB old (x % 2 ^ 13).toNat
  | .jal => putJ old (x % 2 ^ 21).toNat
  | .call => putU (old % 2 ^ 32) (upper20 x) ||| putI (old >>> 32) (x % 4096).toNat <<< 32
  | .pcrelHi20 | .hi20 => putU old (upper20 x)
  | .pcrelLo12I | .lo12I => putI old (x % 4096).toNat
  | .pcrelLo12S | .lo12S => putS old (x % 4096).toNat

/-- The types' names (R68). -/
def Rel.name : Rel → String
  | .none => "KL_NONE"
  | .abs64 => "KL_ABS64"
  | .abs32 => "KL_ABS32"
  | .branch => "KL_BRANCH"
  | .jal => "KL_JAL"
  | .call => "KL_CALL"
  | .pcrelHi20 => "KL_PCREL_HI20"
  | .pcrelLo12I => "KL_PCREL_LO12_I"
  | .pcrelLo12S => "KL_PCREL_LO12_S"
  | .hi20 => "KL_HI20"
  | .lo12I => "KL_LO12_I"
  | .lo12S => "KL_LO12_S"
  | .task64 => "KL_TASK64"

/-- Why gydld rejects an object (R65, R69). -/
inductive LinkError where
  /-- Xlfw together with Xlgfx. -/
  | flags
  /-- A section that has no address, or a field outside its section. -/
  | unplaced (sec : Text)
  /-- A relocation: its type, its section and offset, its symbol, and its value; an undefined symbol has none. -/
  | reloc (rel : Rel) (sec : Text) (off : Nat) (sym : SymRef) (value : Option Int)
  deriving DecidableEq, Repr

/-- An object and the addresses given to its sections. -/
structure Placed where
  obj : Object
  base : List (Text × Word)
  deriving DecidableEq, Repr

/-- The address of a place in a section. -/
def Placed.addr (p : Placed) (sec : Text) (off : Nat) : Option Word :=
  (p.base.find? (fun b => b.1 = sec)).map (fun b => b.2 + BitVec.ofNat 64 off)

/-- The definition of a name: its own object's, or a global one of another object (R64). -/
def resolve (all : List Placed) (p : Placed) (n : Text) : Option (Placed × SymDef) :=
  match p.obj.syms.find? (fun s => s.name = n) with
  | some s => some (p, s.is)
  | none => all.findSome? (fun q =>
      (q.obj.syms.find? (fun s => s.name = n && s.everywhere)).map (fun s => (q, s.is)))

/-- What a symbol is, and in which object. -/
def refDef (all : List Placed) (p : Placed) : SymRef → Option (Placed × SymDef)
  | .named n => resolve all p n
  | .place s i => some (p, .place s i)

/-- The value S of a symbol. -/
def symAddr (d : Placed × SymDef) : Option Word :=
  match d.2 with
  | .place s i => d.1.addr s i
  | .abs v => some v

/-- S + A, less P for the relative types, as a signed 64-bit value (log 87); `none` for an undefined symbol. -/
def relValue (all : List Placed) (p : Placed) (r : ObjRel) : Option Int := do
  let s ← symAddr (← refDef all p r.sym)
  let at_ ← p.addr r.sec r.off
  some (if r.rel.relative then (s + r.addend - at_).toInt else (s + r.addend).toInt)

/-- The value that is put into the field, where the type's condition holds (R68): for the lower halves of a pair
that of the KL_PCREL_HI20 at the instruction that S labels. -/
def fieldValue (all : List Placed) (p : Placed) (r : ObjRel) : Except (Option Int) Int :=
  match relValue all p r with
  | none => .error none
  | some x =>
    match r.rel with
    | .pcrelLo12I | .pcrelLo12S =>
      match refDef all p r.sym with
      | some (q, .place s i) =>
        match q.obj.rels.find? (fun h => h.rel = .pcrelHi20 && h.sec = s && h.off = i) with
        | some h => match relValue all q h with
          | some y => .ok y
          | none => .error none
        | none => .error (some x)
      | _ => .error (some x)
    | .task64 =>
      match r.sym, refDef all p r.sym with
      | .named n, some (q, _) => if q.obj.marked.contains n && r.addend = 0 then .ok x else .error (some x)
      | _, _ => .error (some x)
    | _ => if r.rel.fits x then .ok x else .error (some x)

/-- The bytes of a section with one relocation put in. -/
def applyRel (all : List Placed) (p : Placed) (bytes : List Byte) (r : ObjRel) : Except LinkError (List Byte) :=
  if bytes.length < r.off + r.rel.size then .error (.unplaced r.sec)
  else match fieldValue all p r with
    | .error v => .error (.reloc r.rel r.sec r.off r.sym v)
    | .ok x =>
      let old := ofBytes ((bytes.drop r.off).take r.rel.size)
      .ok (bytes.take r.off ++ toBytes (r.rel.patch x old) r.rel.size ++ bytes.drop (r.off + r.rel.size))

/-- A section of a placed object as bytes at an address. -/
def linkSect (all : List Placed) (p : Placed) (s : Sect) : Except LinkError (Word × List Byte) :=
  match p.addr s.name 0 with
  | none => .error (.unplaced s.name)
  | some a => do
    let bs ← (p.obj.rels.filter (fun r => r.sec = s.name && r.rel ≠ .none)).foldlM (applyRel all p) s.bytes
    .ok (a, bs)

/-- gydld: every section of every object as bytes at its address. Any failing relocation, and an object that sets
Xlfw together with Xlgfx, rejects the whole (R65, R69). -/
def link (all : List Placed) : Except LinkError (List (Word × List Byte)) :=
  if all.any (fun p => p.obj.eFlags &&& 20 = 20) then .error .flags
  else do
    let l ← all.mapM (fun p => p.obj.sects.mapM (linkSect all p))
    .ok l.flatten

/-- A hexadecimal number as R2 writes it, without grouping. -/
def hex (v : Int) : Text :=
  (if v < 0 then ['-'] else []) ++ txt "0x" ++ (Nat.toDigits 16 v.natAbs).map Char.toUpper

/-- The message of R69. -/
def LinkError.message : LinkError → Text
  | .flags => txt "gydld: Xlfw together with Xlgfx"
  | .unplaced s => txt "gydld: " ++ s ++ txt " is not placed"
  | .reloc r s o n v =>
    txt "gydld: " ++ txt r.name ++ txt " at " ++ s ++ txt "+" ++ hex o ++ txt " against " ++
      (match n with
        | .named n => n
        | .place s i => s ++ txt "+" ++ hex i) ++
      (match v with
        | some v => txt ": value " ++ hex v ++ txt " does not fit"
        | none => txt ": undefined")

end Sys2Proof.Machine.Gydas
end

