-- ==== Sys2Proof/Machine/GydasElf.lean ====
section
/-!
DEFINITION. Machine/GydasElf.lean: the ELF64 files that gydas and gydld write (R65, R68), laid out as the ELF standard has
them (log 87).
-/

namespace Sys2Proof.Machine.Gydas

/-! ### Relocation records (R68) -/

/-- The number of a relocation type (R68). -/
def Rel.number : Rel → Nat
  | .none => 0
  | .abs64 => 1
  | .abs32 => 2
  | .branch => 3
  | .jal => 4
  | .call => 5
  | .pcrelHi20 => 6
  | .pcrelLo12I => 7
  | .pcrelLo12S => 8
  | .hi20 => 9
  | .lo12I => 10
  | .lo12S => 11
  | .task64 => 12

/-- An Elf64_Rela record: the offset of the field, the symbol's index above the type, the addend. -/
def ObjRel.record (r : ObjRel) (sym : Nat) : List Byte :=
  toBytes r.off 8 ++ toBytes (r.rel.number + 2 ^ 32 * sym) 8 ++ toBytes r.addend.toNat 8

/-! ### Sections -/

/-- A section of a file with what its header says: type, flags, address, link, info, alignment, entry size. -/
structure ElfSect where
  name  : Text
  type  : Nat
  flags : Nat := 0
  addr  : Nat := 0
  link  : Nat := 0
  info  : Nat := 0
  align : Nat := 1
  entry : Nat := 0
  bytes : List Byte := []
  deriving DecidableEq, Repr

/-- Strings one after another, each ended by a zero byte. -/
def strings (l : List Text) : List Byte :=
  l.flatMap (fun t => (t.flatMap String.utf8EncodeChar).map (fun b => BitVec.ofNat 8 b.toNat) ++ [0])

/-- Where string n of a list begins. -/
def stringAt (l : List Text) (n : Nat) : Nat := (strings (l.take n)).length

/-- The 64 bytes of the file header (R65): ELF64, little-endian, the machine, `e_flags`, and `n` section headers at `at_`,
the last of which holds the section names. -/
def elfHeader (type flags at_ n : Nat) : List Byte :=
  [0x7F, 0x45, 0x4C, 0x46, 2, BitVec.ofNat 8 eiData, 1] ++ List.replicate 9 0 ++ toBytes type 2 ++ toBytes eMachine 2 ++
    toBytes 1 4 ++ toBytes 0 8 ++ toBytes 0 8 ++ toBytes at_ 8 ++ toBytes flags 4 ++ toBytes 64 2 ++ toBytes 0 2 ++
    toBytes 0 2 ++ toBytes 64 2 ++ toBytes n 2 ++ toBytes (n - 1) 2

/-- The 64 bytes of a section's header. -/
def ElfSect.header (x : ElfSect) (name at_ : Nat) : List Byte :=
  toBytes name 4 ++ toBytes x.type 4 ++ toBytes x.flags 8 ++ toBytes x.addr 8 ++ toBytes at_ 8 ++
    toBytes x.bytes.length 8 ++ toBytes x.link 4 ++ toBytes x.info 4 ++ toBytes x.align 8 ++ toBytes x.entry 8

/-- A file of a type with its `e_flags` and sections: the header, the contents, the section headers. -/
def elfFile (type flags : Nat) (l : List ElfSect) : List Byte :=
  let names := [[]] ++ l.map (·.name) ++ [txt ".shstrtab"]
  let all : List ElfSect := [{ name := [], type := 0, align := 0 }] ++ l ++
    [{ name := txt ".shstrtab", type := 3, bytes := strings names }]
  let at_ (n : Nat) : Nat := 64 + ((all.take n).map (fun x => x.bytes.length)).sum
  elfHeader type flags (at_ all.length) all.length ++ all.flatMap (fun x => x.bytes) ++
    (numbers all).flatMap (fun e => e.2.header (stringAt names e.1) (at_ e.1))
where
  /-- A list with its places. -/
  numbers (l : List ElfSect) : List (Nat × ElfSect) := (upto l.length).zip l

/-- A section's flags: in memory, writable unless it is code or `.rodata`, executable if it is code (R64). -/
def Sect.flags (x : Sect) : Nat := 2 + (if x.exec || x.name = txt ".rodata" then 0 else 1) + (if x.exec then 4 else 0)

/-! ### gydas -/

/-- A symbol of the file: its name, none for a place, whether it is global, and what it is, nothing if undefined. -/
structure ElfSym where
  ref : SymRef
  everywhere : Bool
  is : Option SymDef
  deriving DecidableEq, Repr

/-- The symbols of an object, the local ones first: those it defines, the places its relocations mean, and the names it
does not define. -/
def Object.symbols (o : Object) : List ElfSym :=
  let defined (g : Bool) : List ElfSym :=
    (o.syms.filter (fun s => s.everywhere = g)).map (fun s => ⟨.named s.name, g, some s.is⟩)
  let used := (o.rels.map (·.sym)).eraseDups
  let places := used.filterMap (fun r => match r with
    | .place s i => some (⟨r, false, some (.place s i)⟩ : ElfSym)
    | .named _ => none)
  let absent := used.filterMap (fun r => match r with
    | .named n => if o.syms.any (fun s => s.name = n) then none else some (⟨r, true, none⟩ : ElfSym)
    | .place _ _ => none)
  defined false ++ places ++ defined true ++ absent

/-- The name of a symbol. -/
def ElfSym.name (x : ElfSym) : Text :=
  match x.ref with
  | .named n => n
  | .place _ _ => []

/-- The number of a section, from 1. -/
def Object.sectNo (o : Object) (name : Text) : Nat := 1 + (o.sects.takeWhile (fun s => s.name ≠ name)).length

/-- An Elf64_Sym record. -/
def Object.symRecord (o : Object) (x : ElfSym) (name : Nat) : List Byte :=
  let (sec, v) : Nat × Nat := match x.is with
    | some (.place s i) => (o.sectNo s, i)
    | some (.abs v) => (0xFFF1, v.toNat)
    | none => (0, 0)
  toBytes name 4 ++ toBytes (if x.everywhere then 16 else 0) 1 ++ [0] ++ toBytes sec 2 ++ toBytes v 8 ++ toBytes 0 8

/-- The relocation section of each section that has relocations; the symbol table stands behind them. -/
def Object.relaSects (o : Object) (symtab : Nat) : List ElfSect :=
  let syms := o.symbols
  o.sects.filterMap (fun s =>
    let rs := o.rels.filter (fun r => r.sec = s.name)
    if rs.isEmpty then none
    else some {
      name := txt ".rela" ++ s.name, type := 4, link := symtab, info := o.sectNo s.name, align := 8, entry := 24
      bytes := rs.flatMap (fun r => r.record (1 + (syms.takeWhile (fun x => x.ref ≠ r.sym)).length)) })

/-- The object file of gydas (R65). -/
def Object.elf (o : Object) : List Byte :=
  let body : List ElfSect := o.sects.map (fun s =>
    { name := s.name, type := 1, flags := s.flags, align := s.align, bytes := s.bytes })
  let count := (o.relaSects 0).length
  let symtab := 1 + body.length + count
  let syms := o.symbols
  let names := [[]] ++ syms.map ElfSym.name
  let table : ElfSect := {
    name := txt ".symtab", type := 2, link := symtab + 1, info := 1 + (syms.filter (fun x => !x.everywhere)).length
    align := 8, entry := 24
    bytes := List.replicate 24 0 ++
      ((upto syms.length).zip syms).flatMap (fun e => o.symRecord e.2 (stringAt names (1 + e.1))) }
  elfFile 1 o.eFlags (body ++ o.relaSects symtab ++ [table, { name := txt ".strtab", type := 3, bytes := strings names }])

/-- gydas (R59 to R65): from the lines of a source to the bytes of an object file, or an error. -/
noncomputable def gydas (source : List Text) : Option (List Byte) := (assemble source).map Object.elf

/-! ### gydld -/

/-- The extensions a linked file uses: those of its objects (R65). -/
def linkedFlags (all : List Placed) : Nat := all.foldl (fun f p => f ||| p.obj.eFlags) 0

/-- gydld (R65, R68, R69): from placed objects to the bytes of a linked file. -/
def gydld (all : List Placed) : Except LinkError (List Byte) := do
  let parts ← link all
  let sects := all.flatMap (fun p => p.obj.sects)
  pure (elfFile 2 (linkedFlags all) ((sects.zip parts).map (fun e =>
    { name := e.1.name, type := 1, flags := e.1.flags, addr := e.2.1.toNat, align := e.1.align, bytes := e.2.2 })))

end Sys2Proof.Machine.Gydas
end

