-- ==== Sys2Proof/Safety.lean ====
section
/-!
DEFINITION. Safety.lean: what counts as a safe step of the package, and the ways an instruction ends as statements say
them: it retires, takes its exception, stalls or parks.
-/

namespace Sys2Proof.Machine

/-- The step goes on: neither a fault nor a refusal ends the run. -/
def goesOn (s : State) : Prop := ∃ t, step s = .next t

end Sys2Proof.Machine

namespace Sys2Proof.Spec

open Sys2Proof.Machine

/-! ### How an instruction ends -/

/-- A hart with `x[rd]` written; a write of x0 is discarded (R91). -/
def wrote (h : Hart) (rd : BitVec 5) (v : Word) : Hart := if rd = 0 then h else { h with x := h.x.set rd.toNat v }

/-- `s` once the current hart, holding `h`, has retired its instruction and goes on at `pc`: `instret` counts it
(R104), a message hart's running message too (R266), and nothing else of the package changes. -/
def retired (s : State) (h : Hart) (pc : Word) : State :=
  let t := s.setHart s.cur { h with pc := pc, instret := h.instret + 1, stall := none, park := none }
  if isMsg s.cur then
    t.setCore (coreOf s.cur) { s.core (coreOf s.cur) with
      running := (s.core (coreOf s.cur)).running.map (fun r => { r with count := r.count + 1 }) }
  else t

/-- `s` once the current hart has retired with `x[rd]` written and gone on to the next instruction. -/
def wentOn (s : State) (rd : BitVec 5) (v : Word) : State := retired s (wrote s.me rd v) (s.me.pc + 4)

/-- `s` once the current hart has retired an instruction that writes no register. -/
def wentOnly (s : State) : State := retired s s.me (s.me.pc + 4)

/-- `s` with the current hart waiting to issue (R274). -/
def stalled (s : State) (w : Stall) : State := s.setHart s.cur { s.me with stall := some w }

/-- `s` with the current hart parked. -/
def parked (s : State) (p : Park) : State := s.setHart s.cur { s.me with park := some p, stall := none }

/-- A context's trap entry (R322). Of `sstatus`, spie [5] takes sie [1], sie is cleared, spp [8] says whether the mode
was S, dh [9] is set, and the rest stays. -/
def sEntry (h : Hart) (intr : Bool) (cause : BitVec 8) (tval : Word) : Hart :=
  { h with
    sc := { h.sc with
      sepc := h.pc
      scause := (if intr then 0x8000000000000000 else 0) ||| cause.setWidth 64
      stval := tval
      sstatus := (h.sc.sstatus &&& ~~~0x322) ||| (if h.sc.sstatus.getLsbD 1 then 0x20 else 0) |||
        (if h.mode = .s then 0x100 else 0) ||| 0x200 }
    mode := .s, resv := none, park := none, stall := none
    pc := h.sc.stvec &&& 0xFFFFFFFFFFFFFFFC }

/-- The M-mode entry of Lodestar and Orrery cores (R322): mpie [7] takes mie [3], mie is cleared, mpp reads 11. -/
def mEntry (h : Hart) (intr : Bool) (cause : BitVec 8) (tval : Word) : Hart :=
  { h with
    mc := { h.mc with
      mepc := h.pc
      mcause := (if intr then 0x8000000000000000 else 0) ||| cause.setWidth 64
      mtval := tval
      mstatus := 0x1800 ||| (if h.mc.mstatus.getLsbD 3 then 0x80 else 0) }
    resv := none, park := none, stall := none
    pc := h.mc.mtvec &&& 0xFFFFFFFFFFFFFFFC }

end Sys2Proof.Spec
end

