-- ==== Sys2Proof/Certificates/Slice0/Obligations.lean ====
section
/-!
DEFINITION. Certificates/Slice0/Obligations.lean: what the manual says of the machine, as statements for proof. The
namespace `Sys2Proof.Spec` holds what the statements are written with: the results of the rules in the rules' own
arithmetic, and the state an instruction leaves when it retires, takes its exception, stalls or parks.
-/

namespace Sys2Proof.Spec

open Sys2Proof.Machine

/-! ### Integer instructions in exact arithmetic (R93 to R96) -/

/-- The low 32 bits of an integer, sign-extended. -/
def low32 (x : Int) : Word := (BitVec.ofInt 32 x).signExtend 64
/-- The low 32 bits of a word, unsigned and signed. -/
def u32 (a : Word) : Nat := a.toNat % 2 ^ 32
def s32 (a : Word) : Int := (a.setWidth 32).toInt

/-- Quotient and remainder of R95 of two's complement numbers of n bits. -/
def sdiv (n : Nat) (a b : Int) : Int × Int :=
  if b = 0 then (-1, a)
  else if a = -(2 ^ (n - 1) : Nat) ∧ b = -1 then (a, 0)
  else (a.tdiv b, a - b * a.tdiv b)
/-- Quotient and remainder of R95 of unsigned numbers of n bits. -/
def udiv (n a b : Nat) : Nat × Nat := if b = 0 then (2 ^ n - 1, a) else (a / b, a % b)

/-- The destination and the result of a computational instruction (R93, R94, R95). -/
def aluValue (s : State) : Instr → Option (BitVec 5 × Word)
  | .lui rd i => some (rd, BitVec.ofInt 64 (i.toInt * 2 ^ 12))
  | .auipc rd i => some (rd, BitVec.ofInt 64 (s.me.pc.toNat + i.toInt * 2 ^ 12))
  | .addi rd a i => some (rd, BitVec.ofInt 64 ((s.x a).toInt + i.toInt))
  | .slti rd a i => some (rd, if (s.x a).toInt < i.toInt then 1 else 0)
  | .sltiu rd a i => some (rd, if (s.x a).toNat < (i.signExtend 64).toNat then 1 else 0)
  | .xori rd a i => some (rd, s.x a ^^^ i.signExtend 64)
  | .ori rd a i => some (rd, s.x a ||| i.signExtend 64)
  | .andi rd a i => some (rd, s.x a &&& i.signExtend 64)
  | .slli rd a n => some (rd, BitVec.ofNat 64 ((s.x a).toNat * 2 ^ n.toNat))
  | .srli rd a n => some (rd, BitVec.ofNat 64 ((s.x a).toNat / 2 ^ n.toNat))
  | .srai rd a n => some (rd, BitVec.ofInt 64 ((s.x a).toInt / 2 ^ n.toNat))
  | .addiw rd a i => some (rd, low32 (s32 (s.x a) + i.toInt))
  | .slliw rd a n => some (rd, low32 (u32 (s.x a) * 2 ^ n.toNat))
  | .srliw rd a n => some (rd, low32 ((u32 (s.x a) / 2 ^ n.toNat : Nat)))
  | .sraiw rd a n => some (rd, low32 (s32 (s.x a) / 2 ^ n.toNat))
  | .add rd a b => some (rd, BitVec.ofInt 64 ((s.x a).toInt + (s.x b).toInt))
  | .sub rd a b => some (rd, BitVec.ofInt 64 ((s.x a).toInt - (s.x b).toInt))
  | .sll rd a b => some (rd, BitVec.ofNat 64 ((s.x a).toNat * 2 ^ ((s.x b).toNat % 64)))
  | .slt rd a b => some (rd, if (s.x a).toInt < (s.x b).toInt then 1 else 0)
  | .sltu rd a b => some (rd, if (s.x a).toNat < (s.x b).toNat then 1 else 0)
  | .xor rd a b => some (rd, s.x a ^^^ s.x b)
  | .srl rd a b => some (rd, BitVec.ofNat 64 ((s.x a).toNat / 2 ^ ((s.x b).toNat % 64)))
  | .sra rd a b => some (rd, BitVec.ofInt 64 ((s.x a).toInt / 2 ^ ((s.x b).toNat % 64)))
  | .or rd a b => some (rd, s.x a ||| s.x b)
  | .and rd a b => some (rd, s.x a &&& s.x b)
  | .mul rd a b => some (rd, BitVec.ofInt 64 ((s.x a).toInt * (s.x b).toInt))
  | .mulh rd a b => some (rd, BitVec.ofInt 64 ((s.x a).toInt * (s.x b).toInt / 2 ^ 64))
  | .mulhsu rd a b => some (rd, BitVec.ofInt 64 ((s.x a).toInt * (s.x b).toNat / 2 ^ 64))
  | .mulhu rd a b => some (rd, BitVec.ofNat 64 ((s.x a).toNat * (s.x b).toNat / 2 ^ 64))
  | .div rd a b => some (rd, BitVec.ofInt 64 (sdiv 64 (s.x a).toInt (s.x b).toInt).1)
  | .divu rd a b => some (rd, BitVec.ofNat 64 (udiv 64 (s.x a).toNat (s.x b).toNat).1)
  | .rem rd a b => some (rd, BitVec.ofInt 64 (sdiv 64 (s.x a).toInt (s.x b).toInt).2)
  | .remu rd a b => some (rd, BitVec.ofNat 64 (udiv 64 (s.x a).toNat (s.x b).toNat).2)
  | .addw rd a b => some (rd, low32 (s32 (s.x a) + s32 (s.x b)))
  | .subw rd a b => some (rd, low32 (s32 (s.x a) - s32 (s.x b)))
  | .sllw rd a b => some (rd, low32 (u32 (s.x a) * 2 ^ ((s.x b).toNat % 32)))
  | .srlw rd a b => some (rd, low32 ((u32 (s.x a) / 2 ^ ((s.x b).toNat % 32) : Nat)))
  | .sraw rd a b => some (rd, low32 (s32 (s.x a) / 2 ^ ((s.x b).toNat % 32)))
  | .mulw rd a b => some (rd, low32 (s32 (s.x a) * s32 (s.x b)))
  | .divw rd a b => some (rd, low32 (sdiv 32 (s32 (s.x a)) (s32 (s.x b))).1)
  | .divuw rd a b => some (rd, low32 (udiv 32 (u32 (s.x a)) (u32 (s.x b))).1)
  | .remw rd a b => some (rd, low32 (sdiv 32 (s32 (s.x a)) (s32 (s.x b))).2)
  | .remuw rd a b => some (rd, low32 (udiv 32 (u32 (s.x a)) (u32 (s.x b))).2)
  | _ => none

/-- Whether a branch is taken (R96), and its offset. -/
def branchOf (s : State) : Instr → Option (Bool × Int)
  | .beq a b i => some (s.x a = s.x b, 2 * i.toInt)
  | .bne a b i => some (s.x a ≠ s.x b, 2 * i.toInt)
  | .blt a b i => some ((s.x a).toInt < (s.x b).toInt, 2 * i.toInt)
  | .bge a b i => some ((s.x b).toInt ≤ (s.x a).toInt, 2 * i.toInt)
  | .bltu a b i => some ((s.x a).toNat < (s.x b).toNat, 2 * i.toInt)
  | .bgeu a b i => some ((s.x b).toNat ≤ (s.x a).toNat, 2 * i.toInt)
  | _ => none

/-- The link register and the target of a jump (R96); `jalr` clears bit 0. -/
def jumpOf (s : State) : Instr → Option (BitVec 5 × Word)
  | .jal rd i => some (rd, BitVec.ofInt 64 (s.me.pc.toInt + 2 * i.toInt))
  | .jalr rd a i => some (rd, BitVec.ofNat 64 ((s.x a + i.signExtend 64).toNat / 2 * 2))
  | _ => none

/-! ### Scalar memory (R97, R98, R211 to R215) -/

/-- A load: its destination, address and width in bytes, and what it makes of the value read (R97, R215). -/
def loadForm (s : State) : Instr → Option (BitVec 5 × Word × Nat × (Word → Word))
  | .lb rd a i => some (rd, s.x a + i.signExtend 64, 1, fun v => (v.setWidth 8).signExtend 64)
  | .lh rd a i => some (rd, s.x a + i.signExtend 64, 2, fun v => (v.setWidth 16).signExtend 64)
  | .lw rd a i => some (rd, s.x a + i.signExtend 64, 4, fun v => (v.setWidth 32).signExtend 64)
  | .ld rd a i => some (rd, s.x a + i.signExtend 64, 8, fun v => v)
  | .lbu rd a i => some (rd, s.x a + i.signExtend 64, 1, fun v => (v.setWidth 8).setWidth 64)
  | .lhu rd a i => some (rd, s.x a + i.signExtend 64, 2, fun v => (v.setWidth 16).setWidth 64)
  | .lwu rd a i => some (rd, s.x a + i.signExtend 64, 4, fun v => (v.setWidth 32).setWidth 64)
  | .ldaW rd a _ => some (rd, s.x a, 4, fun v => (v.setWidth 32).signExtend 64)
  | .ldaD rd a _ => some (rd, s.x a, 8, fun v => v)
  | _ => none

/-- A store: its address, the register stored and its width in bytes (R97, R215). -/
def storeForm (s : State) : Instr → Option (Word × Word × Nat)
  | .sb a b i => some (s.x a + i.signExtend 64, s.x b, 1)
  | .sh a b i => some (s.x a + i.signExtend 64, s.x b, 2)
  | .sw a b i => some (s.x a + i.signExtend 64, s.x b, 4)
  | .sd a b i => some (s.x a + i.signExtend 64, s.x b, 8)
  | .stlW a b _ => some (s.x a, s.x b, 4)
  | .stlD a b _ => some (s.x a, s.x b, 8)
  | _ => none

/-- The width of an AMO in bytes and its scope code (R54). -/
def amoWidth (ws : BitVec 3) : Nat := if ws.toNat % 2 = 1 then 8 else 4
def amoScopeCode (ws : BitVec 3) : Nat :=
  match ws.toNat / 2 with
  | 0 => 1
  | 1 => 4
  | 2 => 2
  | _ => 3

/-- The low 8 × n bits of a word as a signed number. -/
def sOf (n : Nat) (v : Word) : Int := if n = 8 then v.toInt else (v.setWidth 32).toInt
/-- The low 8 × n bits of a word as an unsigned number. -/
def uOf (n : Nat) (v : Word) : Nat := v.toNat % 2 ^ (8 * n)

/-- An AMO: its registers, width code, and the value it stores for the old value and its operand at n bytes (R210). -/
def amoForm : Instr → Option (BitVec 5 × BitVec 5 × BitVec 5 × BitVec 3 × (Nat → Word → Word → Word))
  | .amoswap rd a b _ _ ws => some (rd, a, b, ws, fun _ _ y => y)
  | .amoadd rd a b _ _ ws => some (rd, a, b, ws, fun _ x y => x + y)
  | .amoxor rd a b _ _ ws => some (rd, a, b, ws, fun _ x y => x ^^^ y)
  | .amoand rd a b _ _ ws => some (rd, a, b, ws, fun _ x y => x &&& y)
  | .amoor rd a b _ _ ws => some (rd, a, b, ws, fun _ x y => x ||| y)
  | .amomin rd a b _ _ ws => some (rd, a, b, ws, fun n x y => if sOf n y < sOf n x then y else x)
  | .amomax rd a b _ _ ws => some (rd, a, b, ws, fun n x y => if sOf n x < sOf n y then y else x)
  | .amominu rd a b _ _ ws => some (rd, a, b, ws, fun n x y => if uOf n y < uOf n x then y else x)
  | .amomaxu rd a b _ _ ws => some (rd, a, b, ws, fun n x y => if uOf n x < uOf n y then y else x)
  | _ => none

/-- The value of n bytes at an address, the byte at the lowest address in bits [7:0] (R97). -/
def bytesAt (s : State) (a : Nat) : Nat → Nat
  | 0 => 0
  | n + 1 => bytesAt s a n + (Memory.get s.mem (a + n)).toNat * 256 ^ n

/-- The address under which memory keeps the byte that the current hart's domain address names: a core's own
scratchpad lies at its global address (R188). -/
def keptAt (s : State) (pa : Nat) : Nat := s.home s.who.core pa

/-- The byte of the pending bitmap a store to a page of the command window that no slot watches may also mark, and the
mark (R306): through the first complex that has an Almanac, which is the model's choice (assumption log 33). -/
def bitmapMark (s : State) (a n : Nat) : Option (Nat × Byte) :=
  if pkgOf a = s.pkg.toNat ∧ 0 < n ∧ localOf a % 4096 < 8 ∧ 0x2FFC000000 ≤ localOf a ∧ localOf a < 0x3000000000 then
    let q := (localOf a - 0x2FFC000000) / 4096
    ((s.complex 0).bitmap <|> (s.complex 1).bitmap).map (fun b =>
      (s.pkg.toNat * 2 ^ 48 + b.1 + q / 8, BitVec.ofNat 8 (2 ^ (q % 8))))
  else none

/-- Memory `m'` is `m` but for the low bytes of `v` stored in the `n` bytes from `a`, and for a mark of the pending
bitmap where the store makes one. -/
def storedAt (s : State) (m' : List Host.Cell) (a n v : Nat) : Prop :=
  ∀ x, let b : Byte := if a ≤ x ∧ x < a + n then BitVec.ofNat 8 (v / 256 ^ (x - a)) else Memory.get s.mem x
    Memory.get m' x = b ∨ ∃ k, bitmapMark s a n = some (x, k) ∧ Memory.get m' x = b ||| k

end Sys2Proof.Spec

open Sys2Proof Sys2Proof.Machine Sys2Proof.Spec

/-- R93, R94, R95: a computational instruction writes `x[rd]` with its result, advances `pc` by 4, and changes nothing
else (`Spec.wentOn`). -/
def Obligations.ComputationalInstructionsWriteTheirResult : Prop :=
  ∀ (s : State) (i : Instr) (rd : BitVec 5) (v : Word), aluValue s i = some (rd, v) → exec i s = .next (wentOn s rd v)

/-- R96: a branch that is not taken goes on; one that is goes to its target, or raises 0x00 with the target where the
target's bit 1 is set. A jump links and goes to its target, or raises 0x00 and leaves `rd` as it was. -/
def Obligations.BranchesAndJumpsGoToTheirTarget : Prop :=
  (∀ (s : State) (i : Instr) (taken : Bool) (d : Int), branchOf s i = some (taken, d) →
    let target := BitVec.ofInt 64 (s.me.pc.toInt + d)
    (taken = false → exec i s = .next (wentOnly s)) ∧
    (taken = true → target.getLsbD 1 = false → exec i s = .next (retired s s.me target)) ∧
    (taken = true → target.getLsbD 1 = true → exec i s = takeTrap ⟨0x00, target⟩ s)) ∧
  (∀ (s : State) (i : Instr) (rd : BitVec 5) (target : Word), jumpOf s i = some (rd, target) →
    (target.getLsbD 1 = false → exec i s = .next (retired s (wrote s.me rd (s.me.pc + 4)) target)) ∧
    (target.getLsbD 1 = true → exec i s = takeTrap ⟨0x00, target⟩ s))

/-- R97, R98, R215: a load that passes its checks writes `x[rd]` with what its width and sign make of the bytes at its
address, or of the register of register space there, and memory keeps every byte; a load that fails a check takes the
exception of the first that fails. -/
def Obligations.LoadsReadTheirBytes : Prop :=
  ∀ (s : State) (i : Instr) (rd : BitVec 5) (a : Word) (n : Nat) (f : Word → Word),
    i.wf = true → loadForm s i = some (rd, a, n, f) →
    (∀ t, s.check s.who .load (.scalar n) n a = .error t → exec i s = takeTrap t s) ∧
    (∀ pa, s.check s.who .load (.scalar n) n a = .ok pa →
      let c := s.cache s.who .load a
      ((s.region s.who.core pa).isBlock = false →
        ∃ t, exec i s = .next t ∧ t = wentOn c rd (f (BitVec.ofNat 64 (bytesAt s (keptAt s pa) n))) ∧ t.mem = s.mem) ∧
      ((s.region s.who.core pa).isBlock = true →
        (∀ v t, c.regLoad s.cur (s.region s.who.core pa) = some (v, t) → exec i s = .next (wentOn t rd (f v))) ∧
        (c.regLoad s.cur (s.region s.who.core pa) = none → exec i s = takeTrap ⟨0x05, a⟩ s)))

/-- R97, R98, R208, R215: a store that passes its checks puts the low bytes of `x[rs2]` at its address and goes on; every
other byte of memory stays (but for a mark of the Almanac's pending bitmap, R306). A store to a window line that must
wait for a publication stalls; a store that fails a check takes the exception of the first that fails. -/
def Obligations.StoresWriteTheirBytes : Prop :=
  ∀ (s : State) (i : Instr) (a v : Word) (n : Nat), i.wf = true → storeForm s i = some (a, v, n) →
    (∀ t, s.check s.who .store (.scalar n) n a = .error t → exec i s = takeTrap t s) ∧
    (∀ pa, s.check s.who .store (.scalar n) n a = .ok pa →
      let c := s.cache s.who .store a
      let r := s.region s.who.core pa
      (r.isBlock = false → (r = .tier ∧ s.windowFull pa = true) → exec i s = .next (stalled s .window)) ∧
      (r.isBlock = false → ¬ (r = .tier ∧ s.windowFull pa = true) →
        exec i s = .next (wentOnly (c.writePa s.who pa v.toNat n)) ∧
        (Memory.wf s.mem = true → storedAt s (c.writePa s.who pa v.toNat n).mem (keptAt s pa) n v.toNat)) ∧
      (r.isBlock = true →
        (∀ t, c.regStore s.cur r v = some t → exec i s = .next (wentOnly t)) ∧
        (c.regStore s.cur r v = none → exec i s = takeTrap ⟨0x07, a⟩ s)))

/-- R210, R211, R212: an AMO stores its operation's result over the old value, the low bytes of its width, and writes
`x[rd]` with the old value sign-extended; every other byte of memory stays (but for a mark of R306). -/
def Obligations.AmosUpdateTheirBytes : Prop :=
  ∀ (s : State) (i : Instr) (rd rs1 rs2 : BitVec 5) (ws : BitVec 3) (f : Nat → Word → Word → Word),
    amoForm i = some (rd, rs1, rs2, ws, f) →
    let n := amoWidth ws
    let a := s.x rs1
    (∀ t, s.check s.who .amo .atomic n a = .error t → exec i s = takeTrap t s) ∧
    (∀ pa, s.check s.who .amo .atomic n a = .ok pa →
      ((s.region s.who.core pa = .tier ∧ s.windowFull pa = true) → exec i s = .next (stalled s .window)) ∧
      (¬ (s.region s.who.core pa = .tier ∧ s.windowFull pa = true) →
        let old := BitVec.ofNat 64 (bytesAt s (keptAt s pa) n)
        let c := (s.cache s.who .amo a).writePa s.who pa (f n old (s.x rs2)).toNat n
        exec i s = .next (wentOn c rd (BitVec.ofInt 64 (sOf n old))) ∧
        (Memory.wf s.mem = true → storedAt s c.mem (keptAt s pa) n (f n old (s.x rs2)).toNat)))

/-- R213: `lr` reads, and reserves its line at its scope; `sc` stores and writes 0 when the reservation holds at its line
and scope, and otherwise writes 1 and stores nothing; either way no reservation is left. That no `sc` fails without one
of R213's reasons is the model's choice (assumption log 11). -/
def Obligations.LrReservesAndScStoresOnlyUnderIt : Prop :=
  (∀ (s : State) (rd rs1 : BitVec 5) (aq rl : BitVec 1) (ws : BitVec 3) (pa : Nat),
    let n := amoWidth ws
    let a := s.x rs1
    s.check s.who .lr .resv n a = .ok pa →
    let c := s.cache s.who .lr a
    exec (.lr rd rs1 aq rl ws) s = .next (wentOn (c.setHart s.cur { c.me with resv := some ⟨pa / 64, amoScopeCode ws⟩ }) rd
      (BitVec.ofInt 64 (sOf n (BitVec.ofNat 64 (bytesAt s (keptAt s pa) n)))))) ∧
  (∀ (s : State) (rd rs1 rs2 : BitVec 5) (aq rl : BitVec 1) (ws : BitVec 3) (pa : Nat),
    let n := amoWidth ws
    let a := s.x rs1
    s.check s.who .sc .resv n a = .ok pa →
    (s.me.resv = some ⟨pa / 64, amoScopeCode ws⟩ → ¬ (s.region s.who.core pa = .tier ∧ s.windowFull pa = true) →
      ∃ t, exec (.sc rd rs1 rs2 aq rl ws) s = .next t ∧ t.me.resv = none ∧ (rd ≠ 0 → t.x rd = 0) ∧
        (∀ r, r ≠ rd → t.x r = s.x r) ∧ t.me.pc = s.me.pc + 4 ∧
        (Memory.wf s.mem = true → storedAt s t.mem (keptAt s pa) n (s.x rs2).toNat)) ∧
    (s.me.resv ≠ some ⟨pa / 64, amoScopeCode ws⟩ →
      exec (.sc rd rs1 rs2 aq rl ws) s = .next (wentOn (s.setHart s.cur { s.me with resv := none }) rd 1)) ∧
    (s.me.resv = some ⟨pa / 64, amoScopeCode ws⟩ → (s.region s.who.core pa = .tier ∧ s.windowFull pa = true) →
      exec (.sc rd rs1 rs2 aq rl ws) s = .next (stalled s .window))) ∧
  (∀ (s : State) (rd rs1 rs2 : BitVec 5) (aq rl : BitVec 1) (ws : BitVec 3) (t : Trap),
    (s.check s.who .lr .resv (amoWidth ws) (s.x rs1) = .error t → exec (.lr rd rs1 aq rl ws) s = takeTrap t s) ∧
    (s.check s.who .sc .resv (amoWidth ws) (s.x rs1) = .error t → exec (.sc rd rs1 rs2 aq rl ws) s = takeTrap t s))

namespace Sys2Proof.Spec

/-! ### Exceptions, interrupts and returns (R105, R106, R322 to R327) -/

/-- The exception a word raises at issue: cause 0x02 with the fetched bits (R40, R323). -/
def illegalTrap (s : State) : Trap := ⟨0x02, s.ir.setWidth 64⟩

/-- The hart of an interrupt or exception taken at its boundary, entered for its kind. -/
def entered (k : Nat) (h : Hart) (intr : Bool) (cause : BitVec 8) (tval : Word) : Hart :=
  if isMach k then mEntry h intr cause tval else sEntry h intr cause tval

/-- The interrupt that is taken first of those pending and enabled (R324). -/
def firstInterrupt (p : Word) : BitVec 8 :=
  if p.getLsbD 4 then 0xF4 else if p.getLsbD 1 then 0xF1 else if p.getLsbD 0 then 0xF0 else 0xF3

/-! ### CSRs (R35, R36, R102, R103) -/

/-- A CSR instruction: what it does, its destination, its source field, its source value and its CSR (R102). -/
def csrForm (s : State) : Instr → Option (CsrOp × BitVec 5 × BitVec 5 × Word × BitVec 12)
  | .csrrw rd a c => some (.write, rd, a, s.x a, c)
  | .csrrs rd a c => some (.set, rd, a, s.x a, c)
  | .csrrc rd a c => some (.clear, rd, a, s.x a, c)
  | .csrrwi rd z c => some (.write, rd, z, z.setWidth 64, c)
  | .csrrsi rd z c => some (.set, rd, z, z.setWidth 64, c)
  | .csrrci rd z c => some (.clear, rd, z, z.setWidth 64, c)
  | _ => none

/-- Whether the instruction writes (R102): by the field, not by the value. -/
def csrWrites (op : CsrOp) (field : BitVec 5) : Bool := op = .write || field ≠ 0

/-- Whether it reads (R102). -/
def csrReads (op : CsrOp) (rd : BitVec 5) : Bool := op ≠ .write || rd ≠ 0

/-- The value it writes (R102); `cflags` and `fwkpend` take the bits to clear (R103). -/
def csrNew (op : CsrOp) (n : Nat) (old src : Word) : Word :=
  if n = 0x7C3 ∨ n = 0x7D6 then src
  else match op with
    | .write => src
    | .set => old ||| src
    | .clear => old &&& ~~~src

/-- The instruction passes the checks of R35 and R103. -/
def csrAllowed (s : State) (op : CsrOp) (field : BitVec 5) (n : Nat) : Prop :=
  s.csrOk n = true ∧ (csrWrites op field = true → csrReadOnly n = false) ∧
    (csrWrites op field = true → op = .clear → n ≠ 0x7C3 ∧ n ≠ 0x7D6)

/-- What a CSR reads as once a value has been written to it, for those that keep what is written, legalised field by
field (R4, R24, R32, R36, R321, R334): the others are registers with an effect of their own. -/
def csrKept (s : State) (n : Nat) (v : Word) : Option Word :=
  match n with
  | 0x001 => some (v &&& 0x1F)
  | 0x002 => some (if v.toNat % 8 ≤ 4 then v &&& 7 else 0)
  | 0x003 => some (if v.toNat / 32 % 8 ≤ 4 then v &&& 0xFF else v &&& 0x1F)
  | 0x008 => some (v &&& 0x7FF)
  | 0x100 => some (v &&& 0x40322)
  | 0x104 => some (v &&& 0xD)
  | 0x105 | 0x305 => some (v &&& 0xFFFFFFFFFFFFFFFC)
  | 0x140 | 0x141 | 0x143 | 0x340 | 0x341 | 0x343 | 0x5C0 | 0x801 => some v
  | 0x142 | 0x342 => some (v &&& 0x80000000000000FF)
  | 0x180 => some (if v.toNat / 2 ^ 60 = 0 ∨ v.toNat / 2 ^ 60 = 9 then v &&& 0xFFFFF3FFFFFFFFFF
      else v &&& 0x0FFFF3FFFFFFFFFF)
  | 0x300 => some ((v &&& 0x88) ||| 0x1800)
  | 0x304 => some (if isOrr s.cur then v &&& 0x8 else v &&& 0x1A)
  | 0x5C1 => some (v &&& 1)
  | 0x5C3 => some (v &&& 0xF)
  | 0x7C0 => some (if v.toNat % 16 ≤ 8 then v &&& 0xF else 8)
  | 0x7D1 => some (v &&& 0x3F)
  | 0x803 => some (v &&& 0xFFFFFFFFFFFFFFC0)
  | _ => none

/-! ### Translations discarded (R107, R341, R342) -/

/-- A cached translation that an invalidation for cluster `g` and partition `q` selects: of the caches of the cluster, of
its cores and of its radiance unit, and of the agents of its half-die, of the page that holds `va` or of every page, and of
one identifier (global entries keep apart) or of all. -/
def selects (g q : Nat) (va : Option Word) (asid : Option (BitVec 16)) (t : TlbEntry) : Prop :=
  (t.unit = clusterTlb g ∨ t.unit = radianceTlb g ∨ (∃ c, t.unit = coreTlb c ∧ clusterOfCore c = g) ∨
      (∃ a < 24, t.unit = agentTlb a ∧ halfOfAgent a = halfOfCluster g)) ∧ t.part = q ∧
    (∀ v, va = some v → v.toNat / 2 ^ t.lg = t.vpage) ∧ (∀ i, asid = some i → t.glob = false ∧ t.asid = i)

end Sys2Proof.Spec

/-- R320, R322, R323, R266: an exception. A context saves its `pc`, the cause and the trap value, sets spie, sie, spp and
dh, goes to S mode and to its vector, and loses its reservation; Lodestar and Orrery cores do the same with the machine
registers; a message hart ends its message with FAULT and the cause, once the window that holds its completion word has
room (R208). (What the service call 0x09 and the memory errors 0xB0 and 0xD5 do more is said apart.) -/
def Sys2Proof.Spec.TrapEntrySavesAndVectors : Prop :=
  ∀ (s : State) (t : Trap),
    (isCtx s.cur = true → t.cause ≠ 0x09 → t.cause ≠ 0xB0 → t.cause ≠ 0xD5 →
      takeTrap t s = .next (s.setHart s.cur (sEntry s.me false t.cause t.tval))) ∧
    (isMach s.cur = true → t.cause ≠ 0xB0 → t.cause ≠ 0xD5 →
      takeTrap t s = .next (s.setHart s.cur (mEntry s.me false t.cause t.tval))) ∧
    (isMsg s.cur = true → t.cause ≠ 0xB0 → t.cause ≠ 0xD5 →
      takeTrap t s = .next (s.untilWindowRoom (s.endMessage (coreOf s.cur) 4 t.cause)))

/-- R105, R323, R40: `ecall` from U mode raises 0x08 and from M mode 0x0B with trap value 0, `ebreak` 0x03 with its own
address, an undecodable word 0x02 with its bits, a failing fetch its cause with the fetch address. -/
def Sys2Proof.Spec.SystemInstructionsRaise : Prop :=
  ∀ (s : State),
    (isCtx s.cur = true → s.me.mode = .u →
      exec .ecall s = .next (s.setHart s.cur (sEntry s.me false 0x08 0))) ∧
    (isMach s.cur = true → s.me.mode = .m →
      exec .ecall s = .next (s.setHart s.cur (mEntry s.me false 0x0B 0))) ∧
    (isCtx s.cur = true → exec .ebreak s = .next (s.setHart s.cur (sEntry s.me false 0x03 s.me.pc))) ∧
    (isMach s.cur = true → exec .ebreak s = .next (s.setHart s.cur (mEntry s.me false 0x03 s.me.pc))) ∧
    (∀ w : BitVec 32, isCtx s.cur = true →
      exec (.illegalInstruction w) s = .next (s.setHart s.cur (sEntry s.me false 0x02 (w.setWidth 64)))) ∧
    (∀ (c : BitVec 8) (a : Nat), (c = 0x00 ∨ c = 0x01 ∨ c = 0x0C ∨ c = 0xB2) → isCtx s.cur = true →
      exec (.instructionFetchFault c a) s =
        .next (s.setHart s.cur (sEntry s.me false c (BitVec.ofNat 64 a))))

/-- R326: an S-mode `ecall` of a context is a service call: the hart enters no handler, and stops where it is to be saved
with `why` 0x09. -/
def Sys2Proof.Spec.ServiceCallSavesTheHart : Prop :=
  ∀ (s : State), isCtx s.cur = true → s.me.mode = .s →
    exec .ecall s = .next (s.setHart s.cur { s.me with
      saveReq := some (.save 0x09), stopped := true, ctxState := 2, resv := none, park := none, stall := none })

/-- R105, R322: `sret` in S mode restores the mode from spp and sie from spie, sets spie, clears spp and dh, and goes to
`sepc`; `mret` on Lodestar and Orrery cores does the same with `mstatus` and stays in M. Anywhere else each is 0x02. -/
def Sys2Proof.Spec.ReturnsRestoreWhatTheTrapSaved : Prop :=
  ∀ (s : State),
    (isCtx s.cur = true → s.me.mode = .s →
      exec .sret s = .next (retired s
        { s.me with
          mode := if s.me.sc.sstatus.getLsbD 8 then .s else .u
          sc := { s.me.sc with
            sstatus := (s.me.sc.sstatus &&& ~~~0x322) ||| (if s.me.sc.sstatus.getLsbD 5 then 0x2 else 0) ||| 0x20 } }
        s.me.sc.sepc)) ∧
    (isMach s.cur = true →
      exec .mret s = .next (retired s
        { s.me with mc := { s.me.mc with mstatus := 0x1880 ||| (if s.me.mc.mstatus.getLsbD 7 then 0x8 else 0) } }
        s.me.mc.mepc)) ∧
    (¬ (isCtx s.cur = true ∧ s.me.mode = .s) → exec .sret s = takeTrap (illegalTrap s) s) ∧
    (isMach s.cur = false → exec .mret s = takeTrap (illegalTrap s) s)

/-- R102, R103, R35, R90: a CSR instruction that fails a check is 0x02 and changes nothing; one that does not write reads;
one that writes gives `x[rd]` the old value and the CSR the new one; a read of `fflags` or `fcsr` waits for the hart's
queued matrix instructions, and a `csrrw` or `csrrwi` with `rd` = `x0` does not read. A write of `vlp` that must wait (R27)
keeps its value and, for `x[rd]`, what it read. -/
def Sys2Proof.Spec.CsrInstructionsReadAndWrite : Prop :=
  ∀ (s : State) (i : Instr) (op : CsrOp) (rd field : BitVec 5) (src : Word) (csr : BitVec 12),
    csrForm s i = some (op, rd, field, src, csr) →
    let n := csr.toNat
    let old := s.csrRead s.cur n
    (¬ csrAllowed s op field n → exec i s = takeTrap (illegalTrap s) s) ∧
    (csrAllowed s op field n → csrReads op rd = true → (n = 0x001 ∨ n = 0x003) → s.hasQueued s.cur = true →
      exec i s = .next (stalled s .flags)) ∧
    (csrAllowed s op field n → ¬ (csrReads op rd = true ∧ (n = 0x001 ∨ n = 0x003) ∧ s.hasQueued s.cur = true) →
      (csrWrites op field = false → exec i s = .next (wentOn s rd old)) ∧
      (csrWrites op field = true →
        (∀ t, s.csrWrite n (csrNew op n old src) = .done t → exec i s = .next (wentOn t rd old)) ∧
        (∀ x t, s.csrWrite n (csrNew op n old src) = .trap x t → exec i s = takeTrap x t) ∧
        (∀ w t, n ≠ 0x7C1 → s.csrWrite n (csrNew op n old src) = .wait w t → exec i s = .next (stalled t w)) ∧
        (∀ w t, n = 0x7C1 → s.csrWrite n (csrNew op n old src) = .wait w t →
          ∃ c u x, s.selected (clusterOf s.cur) = some c ∧ exec i s = .next u ∧
            (u.core c).vlpWait = some ⟨csrNew op n old src, some (rd, x)⟩ ∧ (rd ≠ 0 → x = old) ∧
            u.me = { s.me with stall := some .drain })))

/-- R4, R24, R32, R36, R321, R334: a write of a CSR that keeps its value leaves it reading as its fields allow, and
changes no general register, no `pc` and no byte of memory. Which bits `sie` and `mie` keep (0xD; 0x8 on an Orrery core and
0x1A on Lodestar) is the model's reading (assumption log 32). -/
def Sys2Proof.Spec.CsrWritesKeepTheirLegalValue : Prop :=
  ∀ (s : State) (n : Nat) (v w : Word), csrKept s n v = some w →
    ∃ t, s.csrWrite n v = .done t ∧ t.csrRead s.cur n = w ∧ t.mem = s.mem ∧ t.cur = s.cur ∧
      (∀ k, (t.hart k).x = (s.hart k).x ∧ (t.hart k).pc = (s.hart k).pc ∧ (t.hart k).mode = (s.hart k).mode)

/-- R100, R101, R216, R277: a fence retires and changes nothing more in this model of one order of steps (assumption log
3), but `fence.i` discards what the core's instruction cache holds; `fence.s` with a reserved scope or an empty set is 0x02. `pause` retires; under greedy-then-oldest its context
becomes the youngest and greed ends. -/
def Sys2Proof.Spec.FencesAndPauseRetire : Prop :=
  ∀ (s : State),
    (∀ p q : BitVec 4, ¬ (p = 1 ∧ q = 0) → exec (.fence p q) s = .next (wentOnly s)) ∧
    (isMach s.cur = false →
      exec .fenceI s = .next (wentOnly (s.setCore (coreOf s.cur) { s.myCore with icache := [] }))) ∧
    (isMach s.cur = true → exec .fenceI s = .next (wentOnly s)) ∧
    (∀ (c : BitVec 3) (p q : BitVec 4), c.toNat ≤ 4 → p ≠ 0 → q ≠ 0 → exec (.fenceS c p q) s = .next (wentOnly s)) ∧
    (∀ (c : BitVec 3) (p q : BitVec 4), (4 < c.toNat ∨ p = 0 ∨ q = 0) →
      exec (.fenceS c p q) s = takeTrap (illegalTrap s) s) ∧
    ((isCtx s.cur = false ∨ s.myCore.issuepol ≠ 1) → exec .pause s = .next (wentOnly s)) ∧
    (isCtx s.cur = true → s.myCore.issuepol = 1 →
      exec .pause s = .next (wentOnly (s.setCore (coreOf s.cur) { s.myCore with
        greedy := none, age := s.myCore.age.filter (· ≠ slotOf s.cur) ++ [slotOf s.cur] })))

/-- R105, R107, R341: `sfence.vma` in S mode discards from the caches exactly the translations its operands select of the
hart's partition, and retires; in U mode it is 0x02. R342: a store of `tlbinv` does the same for the partition that owns
the cluster. -/
def Sys2Proof.Spec.InvalidationsDiscardTheSelectedTranslations : Prop :=
  (∀ (s : State) (rs1 rs2 : BitVec 5), isCtx s.cur = true → s.me.mode = .s →
    ∃ l, exec (.sfenceVma rs1 rs2) s = .next (wentOnly { s with tlb := l }) ∧
      ∀ e, e ∈ l ↔ e ∈ s.tlb ∧ ¬ selects (clusterOf s.cur) (s.partOf s.cur)
        (if rs1 = 0 then none else some (s.x rs1)) (if rs2 = 0 then none else some ((s.x rs2).setWidth 16)) e) ∧
  (∀ (s : State) (rs1 rs2 : BitVec 5), s.me.mode = .u → exec (.sfenceVma rs1 rs2) s = takeTrap (illegalTrap s) s) ∧
  (∀ (s : State) (g : Nat) (v : Word), g < 48 →
    ∃ l, exec (.tlbinv g v) s = .next { s with tlb := l } ∧
      ∀ e, e ∈ l ↔ e ∈ s.tlb ∧ ¬ selects g ((s.ownerOfCluster g).getD 0)
        (if v.getLsbD 0 then none else some ((v.extractLsb' 12 36 ++ 0#12).signExtend 64))
        (if v.getLsbD 1 then none else some (v.extractLsb' 48 16)) e)

/-- R105, R106: `wfi` retires at once when an interrupt is pending and enabled, parks otherwise, and is 0x02 in U mode; a
parked `wfi` retires when such an interrupt comes, while its hart can run (R356). -/
def Sys2Proof.Spec.WfiParksUntilAnInterruptPends : Prop :=
  (∀ (s : State), s.me.mode ≠ .u → s.enabledPending s.cur ≠ 0 → exec .wfi s = .next (wentOnly s)) ∧
  (∀ (s : State), s.me.mode ≠ .u → s.enabledPending s.cur = 0 → exec .wfi s = .next (parked s .wfi)) ∧
  (∀ (s : State), s.me.mode = .u → exec .wfi s = takeTrap (illegalTrap s) s) ∧
  (∀ (s : State) (k : Nat), s.runs k = true → (s.hart k).park = some .wfi → s.enabledPending k ≠ 0 →
    exec (.wfiWake k) s = .next (wentOnly { s with cur := k }))

/-- R324 to R327: of what is ready together at one boundary the hart takes the request to be saved first, then a deferred
exception (while `dh` is clear), then an interrupt (but not in a parked `wfi`, which retires first, R106, nor in a write of
`vlp`, R27); and none while it waits with a record it has taken (R290). What it takes: the first interrupt of 0xF4, 0xF1, 0xF0, 0xF3 that is pending and enabled,
with its `pc` saved and trap value 0; the oldest entry of its deferred queue, the oldest waiting one moving up; the request
to be saved, which stops it where it is. The cycle-compare interrupt becomes pending when `cycle` reaches
`scyccmp`. -/
def Obligations.BoundaryEventsAreTakenAsTheirRulesSay : Prop :=
  ∀ (s : State) (k : Nat),
  (let h := s.hart k
    let save := isCtx k = true ∧ h.saveReq ≠ none ∧ h.stopped = false ∧ h.savable = true
    let deferred := isCtx k = true ∧ h.deferred ≠ [] ∧ h.sc.sstatus.getLsbD 9 = false
    let interrupt := s.enabledPending k ≠ 0 ∧ h.globally = true ∧ h.park ≠ some .wfi ∧ h.stall ≠ some .drain
    (h.begun ≠ none → s.due k = none) ∧
    (h.begun = none → save → s.due k = some .save) ∧
    (h.begun = none → ¬ save → deferred → s.due k = some .deferred) ∧
    (h.begun = none → ¬ save → ¬ deferred → interrupt → s.due k = some .interrupt) ∧
    (¬ save → ¬ deferred → ¬ interrupt → s.due k = none)) ∧
  (s.runs k = true →
    (s.due k = some .interrupt →
      exec (.interrupt k) s =
        .next (s.setHart k (entered k (s.hart k) true (firstInterrupt (s.enabledPending k)) 0))) ∧
    (∀ d ds, s.due k = some .deferred → (s.hart k).deferred = d :: ds →
      ((s.hart k).waiting = [] →
        exec (.deferredException k) s =
          .next (s.setHart k (sEntry { s.hart k with deferred := ds } false d.cause d.tval))) ∧
      (∀ w ws, (s.hart k).waiting = w :: ws →
        ∃ t, exec (.deferredException k) s = .next t ∧ (t.hart k).deferred = ds ++ [w.d] ∧ (t.hart k).waiting = ws ∧
          (t.hart k).sc = (sEntry (s.hart k) false d.cause d.tval).sc ∧ (t.hart k).mode = .s ∧ t.mem = s.mem)) ∧
    (s.due k = some .save →
      exec (.preemptionRequest k) s = .next (s.setHart k { s.hart k with stopped := true, stall := none }))) ∧
  (isCtx k = true → (s.core (coreOf k)).cycle.toNat < (s.hart k).scyccmp.toNat →
    ∃ t, exec (.cycleCompare k) s = .next t ∧
      t = s.setCore (coreOf k) { s.core (coreOf k) with cycle := (s.hart k).scyccmp } ∧
      (t.pending k).getLsbD 3 = true)

/-- R322: a trap saves and vectors; a return restores what it saved. -/
def Obligations.TrapsAreEnteredAndLeft : Prop :=
  Sys2Proof.Spec.TrapEntrySavesAndVectors ∧ Sys2Proof.Spec.ReturnsRestoreWhatTheTrapSaved

/-- R105, R323, R326: the exception of each system instruction, and the service call. -/
def Obligations.SystemInstructionsTakeTheirException : Prop :=
  Sys2Proof.Spec.SystemInstructionsRaise ∧ Sys2Proof.Spec.ServiceCallSavesTheHart

/-- R35, R102, R103: CSR accesses, and what a written CSR reads as. -/
def Obligations.CsrInstructionsReadAndWriteWhatIsLegal : Prop :=
  Sys2Proof.Spec.CsrInstructionsReadAndWrite ∧ Sys2Proof.Spec.CsrWritesKeepTheirLegalValue

/-- R100, R101, R105 to R107, R216, R341, R342: fences, `pause`, `wfi` and the discarding of translations. -/
def Obligations.FencesWaitsAndInvalidations : Prop :=
  Sys2Proof.Spec.FencesAndPauseRetire ∧ Sys2Proof.Spec.WfiParksUntilAnInterruptPends ∧ Sys2Proof.Spec.InvalidationsDiscardTheSelectedTranslations

namespace Sys2Proof.Spec

/-! ### Whole steps -/

/-- A message hart has not reached the limit of its message (R266). -/
def underLimit (s : State) (k : Nat) : Prop :=
  isMsg k = true → ∀ r, (s.core (coreOf k)).running = some r → r.count < 65536

/-- In a turn of hart `j` at `s`, hart `k` fetches and executes its next instruction, in the state `t`. A Lodestar or an
Orrery core executes its own. A hart of a core takes what is due at its boundary first; else its turn is a cycle of the
core's issue slot (R274 to R278), which goes to the message hart when it has been ready for 64 cycles in a row, or when no
context is ready, and else to the context the policy picks; the slot remembers what R275, R276 and R278 need. -/
def issues (s : State) (j k : Nat) (t : State) : Prop :=
  underLimit s k ∧
  if isMach j then k = j ∧ t = s ∧ s.runs k = true ∧ s.due k = none ∧ s.idles k = false
  else
    let c := coreOf j
    let message := s.ready (msgKey c)
    let slot := s.markStalls c
    ¬ (s.runs j = true ∧ s.due j ≠ none) ∧
    ((k = msgKey c ∧ message = true ∧ (64 ≤ (s.core c).msgWait ∨ (s.core c).pick (s.readyOf c) = none) ∧
        t = slot.setCore c { slot.core c with msgWait := 0 }) ∨
     (¬ (message = true ∧ 64 ≤ (s.core c).msgWait) ∧ ∃ h, (s.core c).pick (s.readyOf c) = some h ∧ k = ctxKey c h ∧
        t = slot.setCore c (((slot.core c).issued h (s.readyOf c)).msgWaits message)))

/-- The event of the table for what is due at the boundary of hart `k` (R326). -/
noncomputable def dueEvent (k : Nat) : Due → Instr
  | .save => .preemptionRequest k
  | .deferred => .deferredException k
  | .interrupt => .interrupt k

/-- Nothing moves at `s` by itself: each step the device may be due changes nothing or cannot be made. -/
def quiet (s : State) : Prop := ∀ i ∈ s.moves, ∀ t, exec i s = .next t → t = s

/-- The instruction cache of core `c` holds the line of domain address `a` as memory has it, or does not hold it. -/
def freshLine (s : State) (c a : Nat) : Prop := ∀ e ∈ (s.core c).icache, e.1 = a / 64 → e.2 = s.lineAt (a / 64)

/-- The registers R20 zeroes hold what it gives them. -/
def zeroed (h : Hart) : Prop :=
  (∀ r, h.getX r = 0) ∧ h.vec.v = Vector.replicate 16 0 ∧ h.vec.vtype = 0x8000000000000000 ∧ h.vec.vl = 0 ∧
    h.vec.vstart = 0 ∧ h.vec.mstack = [] ∧ h.vec.spilled = 0 ∧ h.vec.vmsp = 0 ∧ h.vec.vfm = 0 ∧ h.fcsr = 0 ∧
    h.quant = {} ∧ h.strmctl = 0 ∧ h.mvl = 0 ∧ h.rcdesc = 0 ∧ h.scyccmp = 0 ∧ h.instret = 0 ∧ h.resv = none ∧
    h.pin = none ∧ h.sc = {}

/-- The instruction words of the manual's worked encodings that the statement below decodes. -/
def workedWords : List (W32 × Instr) :=
  [(0x02C5C53B, .divw 10 11 12), (0x00102573, .csrrs 10 0 1), (0x12000073, .sfenceVma 0 0), (0x0000100F, .fenceI),
   (0x0100000F, .pause), (0x00000073, .ecall), (0x00100073, .ebreak), (0x10200073, .sret), (0x30200073, .mret),
   (0x10500073, .wfi)]

end Sys2Proof.Spec

/-- R42 to R56: no bit of an encoding is dropped. Every well-formed instruction that has a word is read back from it, with
every operand, by the kind of hart whose words they are (`fw` for Xlfw). -/
def Obligations.EveryInstructionIsReadBackFromItsWord : Prop :=
  ∀ i : Instr, i.wf = true → (encodeFields i).isSome = true → decode i.isFw (encode i) = .ok i

/-- R42 to R58: a word that decodes is the word of the well-formed instruction it decodes to, so no two words share an
instruction and every other word is rejected. -/
def Obligations.DecodedWordsEncodeBack : Prop :=
  ∀ (fw : Bool) (w : W32) (i : Instr), decode fw w = .ok i →
    i.wf = true ∧ (encodeFields i).isSome = true ∧ encode i = w

/-- R40: 16-bit encodings, 48-bit and wider encodings, the all-zeros word and the all-ones word are no instructions: a hart
that fetches one raises 0x02 with its bits. -/
def Sys2Proof.Spec.WordsOfOtherLengthsAreRejected : Prop :=
  (∀ (fw : Bool) (w : W32), w.extractLsb' 0 2 ≠ 3 → decode fw w = .error .halfword) ∧
  (∀ (fw : Bool) (w : W32), w.extractLsb' 0 5 = 31 → decode fw w = .error .wide) ∧
  (∀ (fw : Bool) (w : W32), w.extractLsb' 0 7 = 0x3F → decode fw w = .error .wide) ∧
  (∀ fw : Bool, (∃ e, decode fw 0 = .error e) ∧ ∃ e, decode fw 0xFFFFFFFF = .error e) ∧
  (∀ (s t : State) (rest : List Move) (j k : Nat) (w : W32), s.agenda = .issue j :: rest →
    issues { s with agenda := rest } j k t → t.fetch k = .ok w →
    w.extractLsb' 0 2 ≠ 3 ∨ w.extractLsb' 0 5 = 31 ∨ w.extractLsb' 0 7 = 0x3F ∨ w = 0 ∨ w = 0xFFFFFFFF →
      step s = takeTrap ⟨0x02, w.setWidth 64⟩ (t.fetched k w))

/-- The manual's worked encodings of the scalar base decode to the instructions they stand for. -/
def Sys2Proof.Spec.WorkedEncodingsDecode : Prop := ∀ e ∈ workedWords, decode false e.1 = .ok e.2

/-- A step runs the decoded instruction: that of the hart which issues in the turn that moves (`Spec.issues`), with the word
its fetch reads at `pc`; an undecodable word is an illegal instruction, a failing fetch its exception (but R329 lets an
uncorrectable error, 0xD5, enter no handler of Lodestar or Orrery: there the word is left open). What is due at a boundary
comes before any instruction (R326); a hart that is parked or waits lets time pass; so does a core none of whose harts can
issue. What the step does around the instruction is the passing of time, the translation caches and the instruction cache
(`State.fetched`), which change no memory; a word comes from memory, or from a line the instruction cache took before
(R101). Which turn or event moves is the model's choice (assumption log 7): the head of the agenda; with an empty agenda the
first of the device's own steps that changes anything, and when there is none, the turn of the next unit after the one in
focus that has a hart to run. -/
def Obligations.AStepRunsTheDecodedInstruction : Prop :=
  (∀ (s t : State) (rest : List Move) (j k : Nat), s.agenda = .issue j :: rest →
    issues { s with agenda := rest } j k t →
    (∀ w i, t.fetch k = .ok w → decode (isOrr k) w = .ok i → step s = exec i (t.fetched k w)) ∧
    (∀ w e, t.fetch k = .ok w → decode (isOrr k) w = .error e → step s = exec (.illegalInstruction w) (t.fetched k w)) ∧
    (∀ x, t.fetch k = .error x → isMach k = false ∨ x.cause ≠ 0xD5 →
      step s = exec (.instructionFetchFault x.cause x.tval.toNat) { t.tick k with cur := k })) ∧
  (∀ (s : State) (rest : List Move) (j : Nat), s.agenda = .issue j :: rest →
    let s0 := { s with agenda := rest }
    let c := coreOf j
    (∀ d, s0.runs j = true → s0.due j = some d → step s = exec (dueEvent j d) { s0 with cur := j }) ∧
    (isMach j = true → s0.runs j = false → step s = .next s0) ∧
    (isMach j = true → s0.runs j = true → s0.due j = none → s0.idles j = true → step s = .next (s0.tick j)) ∧
    (isMach j = false → ¬ (s0.runs j = true ∧ s0.due j ≠ none) → s0.ready (msgKey c) = false →
      (s0.core c).pick (s0.readyOf c) = none →
      step s = .next (((s0.markStalls c).setCore c { (s0.markStalls c).core c with msgWait := 0 }).tick (ctxKey c 0)))) ∧
  (∀ (s : State) (rest : List Move) (j i : Nat), s.agenda = .issueTo j i :: rest →
    step s = step (State.setHart { s with agenda := .issue j :: rest } j { s.hart j with arrive := some i })) ∧
  (∀ (s : State) (rest : List Move) (i : Instr), s.agenda = .event i :: rest → i.wf = true → encodeFields i = none →
    step s = exec i { s with agenda := rest }) ∧
  (∀ s : State, s.agenda = [] →
    (∀ t, s.autoMove = some t → step s = .next t ∧ t ≠ s ∧ ∃ i ∈ s.moves, exec i s = .next t) ∧
    (quiet s → step s = step { s with focus := s.nextUnit, agenda := [.issue (unitHart s.nextUnit)] }) ∧
    (∀ u < unitCount, s.unitRuns u = true → s.unitRuns s.nextUnit = true ∧
      let ahead (v : Nat) : Nat := (v + unitCount - 1 - s.focus % unitCount) % unitCount
      ahead s.nextUnit ≤ ahead u)) ∧
  (∀ (s : State) (k : Nat) (w : W32), (s.fetched k w).cur = k ∧ (s.fetched k w).ir = w ∧ (s.fetched k w).mem = s.mem ∧
    ∀ j, ((s.fetched k w).hart j).x = (s.hart j).x ∧ ((s.fetched k w).hart j).pc = (s.hart j).pc) ∧
  (∀ (s : State) (k pa : Nat), s.check (s.whoHart k) .fetch .fetch 4 (s.hart k).pc = .ok pa →
    let a := s.home (s.whoHart k).core pa
    (isMach k = true ∨ freshLine s (coreOf k) a) → s.fetch k = .ok (BitVec.ofNat 32 (bytesAt s a 4)))

/-- Every step keeps memory in its one form: addresses rising, no byte listed that reads as an unlisted one, so that equal
memories are equal data. -/
def Obligations.EveryStepKeepsTheMemoryForm : Prop :=
  ∀ s t : State, Memory.wf s.mem = true → step s = .next t → Memory.wf t.mem = true

/-- The memory after reset has that form. -/
def Sys2Proof.Spec.ResetMemoryHasItsForm : Prop := Memory.wf State.reset.mem = true

/-- R20: at device reset every register is zero but `vtype`, which holds vill alone, and `vlp` is zero, so that no context
holds lanes; a retirement leaves the context so, advances `hgen` by one and gives up its arrays and its pin. (R20 speaks of
contexts: that Lodestars, Orrery cores and message harts begin at the same values is the model's choice, assumption log
8.) -/
def Sys2Proof.Spec.ResetAndRetirementZeroTheContext : Prop :=
  (∀ k, zeroed (State.reset.hart k) ∧ (State.reset.hart k).hgen = 0 ∧ State.reset.lanes k = 0) ∧
  (∀ (s : State) (k : Nat), isCtx k = true → (s.hart k).stopped = true → (s.hart k).saveReq = some .retire →
    s.hasQueued k = false → s.maySwitch k = true →
    ∃ t, exec (.retireComplete k) s = .next t ∧ zeroed (t.hart k) ∧ (t.hart k).hgen = (s.hart k).hgen + 1 ∧
      (t.core (coreOf k)).hold0 ≠ some (slotOf k) ∧ (t.core (coreOf k)).hold1 ≠ some (slotOf k) ∧
      (t.core (coreOf k)).vlp = (s.core (coreOf k)).vlp ∧ t.mem = s.mem ∧
      (s.eventRoom (clusterOf k) = true → (s.hart k).deferred = [] → (s.hart k).waiting = [] →
        (t.hart k).ctxState = 0))

/-- R319, R320, R322: a context in U mode changes its supervisor registers through a trap only: whatever instruction it
runs, they are as they were or its mode is S. -/
def Obligations.UserModeReachesSupervisorStateByTrapsOnly : Prop :=
  ∀ (s t : State) (i : Instr), (encodeFields i).isSome = true → isCtx s.cur = true → s.me.mode = .u →
    exec i s = .next t → (t.hart s.cur).sc = s.me.sc ∨ (t.hart s.cur).mode = .s

/-- R19, R319: no instruction of one hart changes the general registers, the `pc` or the supervisor registers of another. -/
def Obligations.NoInstructionChangesAnotherHartsRegisters : Prop :=
  ∀ (s t : State) (i : Instr) (k : Nat), (encodeFields i).isSome = true → k ≠ s.cur → exec i s = .next t →
    (t.hart k).x = (s.hart k).x ∧ (t.hart k).pc = (s.hart k).pc ∧ (t.hart k).sc = (s.hart k).sc

/-- R40, and the manual's worked encodings of the scalar base. -/
def Obligations.OtherWordsAreRejectedAndWorkedOnesDecode : Prop :=
  Sys2Proof.Spec.WordsOfOtherLengthsAreRejected ∧ Sys2Proof.Spec.WorkedEncodingsDecode

/-- The memory after reset has its form; R20: reset and retirement zero the context. -/
def Obligations.ResetAndRetirementLeaveWhatTheyShould : Prop :=
  Sys2Proof.Spec.ResetMemoryHasItsForm ∧ Sys2Proof.Spec.ResetAndRetirementZeroTheContext

namespace Sys2Proof.Spec

/-! ### Vector instructions (R108 to R129) -/

/-- A vector instruction may run on these registers: the hart holds lanes (R22), `vtype` is a configuration (R24), none of
them names an active stream (R240). -/
def vecReady (s : State) (regs : List Nat) : Prop :=
  s.lanes s.cur ≠ 0 ∧ s.vill = false ∧ ∀ r ∈ regs, s.me.streamAt r = none

/-- `s` once the current hart has retired a vector instruction: `vstart` is zero (R25) and its radiance pin is given up
(R180). -/
def vdone (s : State) : State :=
  retired s { s.me with vec := { s.me.vec with vstart := 0 }, pin := none, arrive := none } (s.me.pc + 4)

/-- `s` with the current hart stopped before element `i` (R110): what its streams have fetched is fetched again (R240). -/
def stoppedAt (s : State) (i : Nat) : State :=
  s.setHart s.cur { s.me with
    strm := s.me.strm.map (fun t => { t with strip := [] })
    vec := { s.me.vec with vstart := BitVec.ofNat 11 i }, arrive := none }

/-- How a run of elements ends: all done, or stopped before one by an exception or a wait. -/
inductive Ran where
  | all (s : State)
  | trap (i : Nat) (t : Trap) (s : State)
  | wait (i : Nat) (w : Stall) (s : State)

/-- The loop of R109 over given elements: each active one (R45) in its turn, on the state the ones before it left. -/
def runElements (vm : BitVec 1) (op : Nat → State → ElemOut) : List Nat → State → Ran
  | [], s => .all s
  | i :: l, s =>
    if vm = 0 ∨ (s.vreg 0).getLsbD i = true then
      match op i s with
      | .done t => runElements vm op l t
      | .trap e => .trap i e s
      | .wait w => .wait i w s
    else runElements vm op l s

/-- The elements from `vstart` to below `n`. -/
def elementsTo (s : State) (n : Nat) : List Nat := List.range' s.me.vec.vstart.toNat (n - s.me.vec.vstart.toNat)

/-- An element-interruptible instruction: whether it is masked, the registers it reads and writes, whether the current
format and its fields allow it, what a check at issue raises, and what it does for an element. -/
structure ElemForm where
  vm    : BitVec 1
  regs  : List Nat
  ok    : Bool
  late  : Bool := true
  issue : Option Trap := none
  op    : Nat → State → ElemOut

/-- Instructions of a table run element by element (R109, R110): from `vstart` to `vl` − 1; an exception leaves `vstart`
at its element with those below complete; so does what reaches the hart before one (`arrive`), which stops it there, in a
stall of the model's own that any save may end (R208, R327). With
no lanes, under `vill`, or in a form its format does not allow, the instruction is 0x02 and changes nothing else; so is a
format refused only after the widths of its streams are looked at (`late`, R155, R240); after that a check at issue raises its
cause. -/
def RunsElementByElement (form : State → Instr → Option ElemForm) : Prop :=
  ∀ (s : State) (i : Instr) (F : ElemForm), i.wf = true → form s i = some F →
    (vecReady s F.regs → F.ok = true → F.late = true → F.issue = none → (∀ j ∈ elementsTo s s.me.vec.vl, s.me.arrive ≠ some j) →
      exec i s = match runElements F.vm F.op (elementsTo s s.me.vec.vl) s with
        | .all t => .next (vdone t)
        | .trap j e t => takeTrap e (stoppedAt t j)
        | .wait j w t => .next (stalled (stoppedAt t j) w)) ∧
    (∀ j ∈ elementsTo s s.me.vec.vl, ∀ t, vecReady s F.regs → F.ok = true → F.late = true → F.issue = none → s.me.arrive = some j →
      runElements F.vm F.op (elementsTo s j) s = .all t →
      exec i s = .next (stalled (stoppedAt t j) .element)) ∧
    (∀ e, vecReady s F.regs → F.ok = true → F.late = true → F.issue = some e → exec i s = takeTrap e s) ∧
    ((s.lanes s.cur = 0 ∨ s.vill = true ∨ F.ok = false) → exec i s = takeTrap (illegalTrap s) s) ∧
    (vecReady s F.regs → F.ok = true → F.late = false → exec i s = takeTrap (illegalTrap s) s)

/-- The low w bits of a word as a signed number. -/
def sx (w : Nat) (a : Word) : Int := (a.setWidth w).toInt
/-- The low w bits of a word as an unsigned number. -/
def zx (w : Nat) (a : Word) : Int := (a.setWidth w).toNat
/-- An integer held between two bounds. -/
def between (lo hi x : Int) : Int := max lo (min hi x)

/-- Element i of a register, or the scalar operand of every element (R109). -/
def operand (s : State) (w : Nat) (src : Src) (i : Nat) : Word :=
  match src with
  | .reg r => s.velem r.toNat w i
  | .scalar v => (v.setWidth w).setWidth 64

/-- An element-wise form: element i of `vd` becomes a function of elements i of `vs2`, the second operand and `vd`, and its
flags are raised (R89). -/
def elementwise (s : State) (ok : Bool) (f : Word → Word → Word → Word × Flags) (src : Src) (vd vs2 : BitVec 5)
    (vm : BitVec 1) : ElemForm :=
  let w := s.sew
  { vm := vm, regs := vd.toNat :: vs2.toNat :: src.reads, ok := ok
    op := fun i t =>
      let r := f (t.velem vs2.toNat w i) (operand t w src i) (t.velem vd.toNat w i)
      .done ((t.raiseFlags t.cur r.2).setVelem vd.toNat w i r.1) }

/-- An integer form: the exact result, of which the element keeps the low SEW bits. -/
def integer (s : State) (f : Nat → Word → Word → Word → Int) (src : Src) (vd vs2 : BitVec 5) (vm : BitVec 1) :
    Option ElemForm :=
  some (elementwise s true (fun a b d => (BitVec.ofInt 64 (f s.sew a b d), 0)) src vd vs2 vm)

/-- The results of R116 and R117 in exact arithmetic, for w-bit elements. -/
def eAdd (w : Nat) (a b _ : Word) : Int := zx w a + zx w b
def eSub (w : Nat) (a b _ : Word) : Int := zx w a - zx w b
def eMul (w : Nat) (a b _ : Word) : Int := sx w a * sx w b
def eMulh (w : Nat) (a b _ : Word) : Int := sx w a * sx w b / 2 ^ w
def eMulhu (w : Nat) (a b _ : Word) : Int := zx w a * zx w b / 2 ^ w
def eMacc (w : Nat) (a b d : Word) : Int := zx w d + zx w a * zx w b
def eAnd (_ : Nat) (a b _ : Word) : Int := (a &&& b).toNat
def eOr (_ : Nat) (a b _ : Word) : Int := (a ||| b).toNat
def eXor (_ : Nat) (a b _ : Word) : Int := (a ^^^ b).toNat
def eSll (w : Nat) (a b _ : Word) : Int := zx w a * 2 ^ (b.toNat % w)
def eSrl (w : Nat) (a b _ : Word) : Int := zx w a / 2 ^ (b.toNat % w)
def eSra (w : Nat) (a b _ : Word) : Int := sx w a / 2 ^ (b.toNat % w)
def eMin (w : Nat) (a b _ : Word) : Int := min (sx w a) (sx w b)
def eMax (w : Nat) (a b _ : Word) : Int := max (sx w a) (sx w b)
def eMinu (w : Nat) (a b _ : Word) : Int := min (zx w a) (zx w b)
def eMaxu (w : Nat) (a b _ : Word) : Int := max (zx w a) (zx w b)
def eSadd (w : Nat) (a b _ : Word) : Int := between (-2 ^ (w - 1)) (2 ^ (w - 1) - 1) (sx w a + sx w b)
def eSaddu (w : Nat) (a b _ : Word) : Int := between 0 (2 ^ w - 1) (zx w a + zx w b)
def eSsub (w : Nat) (a b _ : Word) : Int := between (-2 ^ (w - 1)) (2 ^ (w - 1) - 1) (sx w a - sx w b)
def eSsubu (w : Nat) (a b _ : Word) : Int := between 0 (2 ^ w - 1) (zx w a - zx w b)
def eDiv (w : Nat) (a b _ : Word) : Int := (sdiv w (sx w a) (sx w b)).1
def eDivu (w : Nat) (a b _ : Word) : Int := (udiv w (zx w a).toNat (zx w b).toNat).1
def eRem (w : Nat) (a b _ : Word) : Int := (sdiv w (sx w a) (sx w b)).2
def eRemu (w : Nat) (a b _ : Word) : Int := (udiv w (zx w a).toNat (zx w b).toNat).2

/-- The five-bit immediate, sign-extended, and zero-extended as the shifts have it (R48, R109). -/
def simm (i : BitVec 5) : Src := .scalar (BitVec.ofInt 64 i.toInt)
def zimm (i : BitVec 5) : Src := .scalar (BitVec.ofNat 64 i.toNat)

/-- The integer element-wise instructions (R116, R117). -/
def intForm (s : State) : Instr → Option ElemForm
  | .vaddVv vd b a _ _ m => integer s eAdd (.reg a) vd b m
  | .vaddVx vd b a _ m => integer s eAdd (.scalar (s.x a)) vd b m
  | .vaddVi vd b i _ m => integer s eAdd (simm i) vd b m
  | .vsubVv vd b a _ _ m => integer s eSub (.reg a) vd b m
  | .vsubVx vd b a _ m => integer s eSub (.scalar (s.x a)) vd b m
  | .vmulVv vd b a _ _ m => integer s eMul (.reg a) vd b m
  | .vmulVx vd b a _ m => integer s eMul (.scalar (s.x a)) vd b m
  | .vmulhVv vd b a _ _ m => integer s eMulh (.reg a) vd b m
  | .vmulhVx vd b a _ m => integer s eMulh (.scalar (s.x a)) vd b m
  | .vmulhuVv vd b a _ _ m => integer s eMulhu (.reg a) vd b m
  | .vmulhuVx vd b a _ m => integer s eMulhu (.scalar (s.x a)) vd b m
  | .vmaccVv vd b a _ _ m => integer s eMacc (.reg a) vd b m
  | .vmaccVx vd b a _ m => integer s eMacc (.scalar (s.x a)) vd b m
  | .vandVv vd b a _ _ m => integer s eAnd (.reg a) vd b m
  | .vandVx vd b a _ m => integer s eAnd (.scalar (s.x a)) vd b m
  | .vandVi vd b i _ m => integer s eAnd (simm i) vd b m
  | .vorVv vd b a _ _ m => integer s eOr (.reg a) vd b m
  | .vorVx vd b a _ m => integer s eOr (.scalar (s.x a)) vd b m
  | .vorVi vd b i _ m => integer s eOr (simm i) vd b m
  | .vxorVv vd b a _ _ m => integer s eXor (.reg a) vd b m
  | .vxorVx vd b a _ m => integer s eXor (.scalar (s.x a)) vd b m
  | .vxorVi vd b i _ m => integer s eXor (simm i) vd b m
  | .vsllVv vd b a _ _ m => integer s eSll (.reg a) vd b m
  | .vsllVx vd b a _ m => integer s eSll (.scalar (s.x a)) vd b m
  | .vsllVi vd b i _ m => integer s eSll (zimm i) vd b m
  | .vsrlVv vd b a _ _ m => integer s eSrl (.reg a) vd b m
  | .vsrlVx vd b a _ m => integer s eSrl (.scalar (s.x a)) vd b m
  | .vsrlVi vd b i _ m => integer s eSrl (zimm i) vd b m
  | .vsraVv vd b a _ _ m => integer s eSra (.reg a) vd b m
  | .vsraVx vd b a _ m => integer s eSra (.scalar (s.x a)) vd b m
  | .vsraVi vd b i _ m => integer s eSra (zimm i) vd b m
  | .vminVv vd b a _ _ m => integer s eMin (.reg a) vd b m
  | .vminVx vd b a _ m => integer s eMin (.scalar (s.x a)) vd b m
  | .vmaxVv vd b a _ _ m => integer s eMax (.reg a) vd b m
  | .vmaxVx vd b a _ m => integer s eMax (.scalar (s.x a)) vd b m
  | .vminuVv vd b a _ _ m => integer s eMinu (.reg a) vd b m
  | .vminuVx vd b a _ m => integer s eMinu (.scalar (s.x a)) vd b m
  | .vmaxuVv vd b a _ _ m => integer s eMaxu (.reg a) vd b m
  | .vmaxuVx vd b a _ m => integer s eMaxu (.scalar (s.x a)) vd b m
  | .vsaddVv vd b a _ _ m => integer s eSadd (.reg a) vd b m
  | .vsaddVx vd b a _ m => integer s eSadd (.scalar (s.x a)) vd b m
  | .vsaddVi vd b i _ m => integer s eSadd (simm i) vd b m
  | .vsadduVv vd b a _ _ m => integer s eSaddu (.reg a) vd b m
  | .vsadduVx vd b a _ m => integer s eSaddu (.scalar (s.x a)) vd b m
  | .vsadduVi vd b i _ m => integer s eSaddu (simm i) vd b m
  | .vssubVv vd b a _ _ m => integer s eSsub (.reg a) vd b m
  | .vssubVx vd b a _ m => integer s eSsub (.scalar (s.x a)) vd b m
  | .vssubuVv vd b a _ _ m => integer s eSsubu (.reg a) vd b m
  | .vssubuVx vd b a _ m => integer s eSsubu (.scalar (s.x a)) vd b m
  | .vdivVv vd b a _ _ m => integer s eDiv (.reg a) vd b m
  | .vdivVx vd b a _ m => integer s eDiv (.scalar (s.x a)) vd b m
  | .vdivuVv vd b a _ _ m => integer s eDivu (.reg a) vd b m
  | .vdivuVx vd b a _ m => integer s eDivu (.scalar (s.x a)) vd b m
  | .vremVv vd b a _ _ m => integer s eRem (.reg a) vd b m
  | .vremVx vd b a _ m => integer s eRem (.scalar (s.x a)) vd b m
  | .vremuVv vd b a _ _ m => integer s eRemu (.reg a) vd b m
  | .vremuVx vd b a _ m => integer s eRemu (.scalar (s.x a)) vd b m
  | _ => none

/-- The formats the floating-point forms take, FP64 to FP16 (R111), and those the special functions take (R119). -/
def computes (s : State) : Bool := 1 ≤ s.fmtCode.toNat && s.fmtCode.toNat ≤ 4
def narrowFp (s : State) : Bool := 2 ≤ s.fmtCode.toNat && s.fmtCode.toNat ≤ 4

/-- A floating-point form on the values of a format (R118): the exact result with the flags it raises, rounded once. -/
def floating (s : State) (ok : Bool) (f : FVal → FVal → FVal → FVal × Flags) (src : Src) (vd vs2 : BitVec 5)
    (vm : BitVec 1) : Option ElemForm :=
  let v (x : Word) : FVal := s.fmt.decode s.fz x
  some (elementwise s ok (fun a b d =>
    let e := f (v a) (v b) (v d)
    let r := s.fmt.round s.frm s.fz e.1
    (r.1, r.2 ||| e.2)) src vd vs2 vm)

/-- A form on raw bits: the sign bit of the first operand replaced (R118). -/
def signForm (s : State) (f : Bool → Bool → Bool) (src : Src) (vd vs2 : BitVec 5) (vm : BitVec 1) : Option ElemForm :=
  let p := s.fmt.bankWidth - 1
  some (elementwise s (computes s) (fun a b _ =>
    ((a &&& ~~~(1#64 <<< p)) ||| (if f (a.getLsbD p) (b.getLsbD p) then 1#64 <<< p else 0), 0)) src vd vs2 vm)

/-- The one bit of ten that R118 sets for a pattern with an exponent of `eb` and a fraction of `fb` bits. -/
def classBit (eb fb x : Nat) : Nat :=
  let neg := x / 2 ^ (eb + fb) % 2 = 1
  let e := x / 2 ^ fb % 2 ^ eb
  let m := x % 2 ^ fb
  if e = 2 ^ eb - 1 then
    if m = 0 then (if neg then 0 else 7) else if m < 2 ^ (fb - 1) then 8 else 9
  else if e = 0 then
    if m = 0 then (if neg then 3 else 4) else if neg then 2 else 5
  else if neg then 1 else 6

/-- `vfclass` of an element of the current format. -/
def classWord (s : State) (a : Word) : Word :=
  match s.fmt with
  | .ieee g => 1 <<< classBit g.eb g.fb (a.toNat % 2 ^ g.width)
  | _ => 0

/-- The rational a finite value stands for. -/
def signed (neg : Bool) (m : Rat) : Rat := if neg then -m else m

/-- The special operands of R119 with what they give, and a NaN operand; `.nan true` is a NaN that sets `nv`. -/
def sfSpecial (op : SfOp) : FVal → Option (FVal × Flags)
  | .nan sig => some (.nan sig, 0)
  | .inf neg =>
    match op with
    | .rsqrt => some (if neg then .nan true else .fin false 0, 0)
    | .rcp => some (.fin neg 0, 0)
    | .exp2 => some (if neg then .fin false 0 else .inf false, 0)
    | .log2 => some (if neg then .nan true else .inf false, 0)
    | .sin | .cos => some (.nan true, 0)
  | .fin neg m =>
    match op with
    | .rsqrt => if m = 0 then some (.inf neg, 8) else if neg then some (.nan true, 0) else none
    | .rcp => if m = 0 then some (.inf neg, 8) else none
    | .exp2 => none
    | .log2 =>
      if m = 0 then some (.inf true, 8) else if neg then some (.nan true, 0)
      else if m = 1 then some (.fin false 0, 0) else none
    | .sin => if m.den = 1 then some (.fin neg 0, 0) else none
    | .cos => if m.den = 2 then some (.fin false 0, 0) else none

/-- A special function of one register (R119): what its special operands give, and else its value, which rounds as the exact
one does (`SpecialValuesAreExact`). -/
def special (s : State) (op : SfOp) (vd vs2 : BitVec 5) (vm : BitVec 1) : Option ElemForm :=
  floating s (narrowFp s) (fun a _ _ => (sfSpecial op a).getD (op.value a)) (.scalar 0) vd vs2 vm

/-! ### What rounding asks of an exact value (R80, R118, R119)

The exact value of a root or of a special function is seldom rational. A rounding of R80 depends only on how the value
compares with the numbers of the format widened by one bit of fraction; so a rational that compares with each of them as the
exact value does rounds as it does, in every mode and with the same flags. The comparisons are said in rationals. -/

/-- How a bound compares with a value. -/
def against (b y : Rat) : Ordering := if b < y then .lt else if b = y then .eq else .gt

/-- A number of `g` with one more bit of fraction, up to the power of two beyond the largest. -/
def bound (g : Ieee) (b : Rat) : Prop :=
  ∃ (m : Nat) (e : Int), m < 2 ^ (g.fb + 2) ∧ g.emin - g.fb - 1 ≤ e ∧ b = m * pow2 e ∧ b ≤ pow2 (g.emax + 1)

/-- How b compares with cos(π·r), for 0 ≤ r ≤ 1 and r a multiple of 2^−n: by the cosine of the doubled angle. -/
def againstCos : Nat → Rat → Rat → Ordering
  | 0, b, r => against b (if r = 0 then 1 else -1)
  | n + 1, b, r =>
    if 2 * r ≤ 1 then if b < 0 then .lt else againstCos n (2 * b * b - 1) (2 * r)
    else if 0 ≤ b then .gt else (againstCos n (2 * b * b - 1) (2 - 2 * r)).swap

/-- The distance of x from the nearest integer. -/
def fromInteger (x : Rat) : Rat :=
  let f := x - x.floor
  if 2 * f ≤ 1 then f else 1 - f

/-- How b ≥ 0 compares with the magnitude of the exact value of R119 at x. -/
def againstSf (op : SfOp) (b x : Rat) : Ordering :=
  match op with
  | .rsqrt => against (b * b * x) 1
  | .rcp => against (b * if x < 0 then -x else x) 1
  | .exp2 => against (b ^ x.den) (pow2 x.num)
  | .log2 => against (pow2 b.num) ((if x < 1 then 1 / x else x) ^ b.den)
  | .sin => let r := 1 / 2 - fromInteger x
    againstCos r.den.log2 b r
  | .cos => let r := fromInteger x
    againstCos r.den.log2 b r

/-- The sign of the exact value at x. -/
def sfNeg (op : SfOp) (x : Rat) : Bool :=
  match op with
  | .rsqrt | .exp2 => false
  | .rcp => x < 0
  | .log2 => x < 1
  | .sin => x.floor % 2 ≠ 0
  | .cos => (x + 1 / 2).floor % 2 ≠ 0

/-- One of the model's precisions decides the value to k fraction bits (assumption log 13: one always does). -/
def decides (k : Nat) (f : Nat → Int) : Prop := ∃ p ∈ [256, 512, 1024, 2048, 4096], (cell k p (f p)).isSome = true

/-- The values that the model computes from a fixed-point sum are decided. -/
def decided (op : SfOp) (x : Rat) : Prop :=
  let half (a : Rat) : Prop := let r := fromInteger a
    r = 0 ∨ r = 1 / 2 ∨ decides 200 (fun p => sinPiFixed p r)
  match op with
  | .rsqrt | .rcp => True
  | .exp2 => x.floor = x ∨ 1100 ≤ x ∨ x ≤ -1200 ∨ decides 80 (fun p => exp2Fixed p (x - x.floor))
  | .log2 =>
    let e := log2Floor x
    x = pow2 e ∨ decides 100 (fun p => (e * (2 ^ p : Nat) : Int) + lnFixed p (x / pow2 e) * (2 ^ p : Nat) / ln2Fixed p)
  | .sin => half x
  | .cos => half (x + 1 / 2)

/-- The finite values of a format. -/
def finiteOf (g : Ieee) (neg : Bool) (m : Rat) : Prop := ∃ p < 2 ^ g.width, g.decode p = .fin neg m

/-- The square root stands for its exact value in every rounding. -/
def RootsAreExact : Prop :=
  (∀ g ∈ [fp64, fp32, bf16, fp16], ∀ m : Rat, finiteOf g false m → 0 < m →
    ∃ v, FVal.sqrt (.fin false m) = .fin false v ∧ 0 < v ∧ ∀ b, bound g b → against b v = against (b * b) m) ∧
  (∀ neg : Bool, FVal.sqrt (.fin neg 0) = .fin neg 0)

/-- Each special function stands for its exact value in every rounding. -/
def SpecialValuesAreExact : Prop :=
  ∀ g ∈ [fp32, bf16, fp16], ∀ (op : SfOp) (neg : Bool) (m : Rat), finiteOf g neg m → sfSpecial op (.fin neg m) = none →
    decided op (signed neg m) →
    ∃ v, op.value (.fin neg m) = (.fin (sfNeg op (signed neg m)) v, 0) ∧ 0 < v ∧
      ∀ b, bound g b → against b v = againstSf op b (signed neg m)

/-- The floating-point element-wise instructions (R84, R86, R118, R119). -/
def floatForm (s : State) : Instr → Option ElemForm
  | .vfaddVv vd b a _ _ m => floating s (computes s) (fun x y _ => (exactSum s.frm [x, y], 0)) (.reg a) vd b m
  | .vfaddVf vd b a _ m => floating s (computes s) (fun x y _ => (exactSum s.frm [x, y], 0)) (.scalar (s.x a)) vd b m
  | .vfsubVv vd b a _ _ m => floating s (computes s) (fun x y _ => (exactSum s.frm [x, y.negate], 0)) (.reg a) vd b m
  | .vfsubVf vd b a _ m =>
    floating s (computes s) (fun x y _ => (exactSum s.frm [x, y.negate], 0)) (.scalar (s.x a)) vd b m
  | .vfmulVv vd b a _ _ m => floating s (computes s) (fun x y _ => (x.mul y, 0)) (.reg a) vd b m
  | .vfmulVf vd b a _ m => floating s (computes s) (fun x y _ => (x.mul y, 0)) (.scalar (s.x a)) vd b m
  | .vfdivVv vd b a _ _ m => floating s (computes s) (fun x y _ => x.div y) (.reg a) vd b m
  | .vfdivVf vd b a _ m => floating s (computes s) (fun x y _ => x.div y) (.scalar (s.x a)) vd b m
  | .vfmaccVv vd b a _ _ m =>
    floating s (computes s) (fun x y z => (exactSum s.frm [y.mul x, z], 0)) (.reg a) vd b m
  | .vfmaccVf vd b a _ m =>
    floating s (computes s) (fun x y z => (exactSum s.frm [y.mul x, z], 0)) (.scalar (s.x a)) vd b m
  | .vfnmaccVv vd b a _ _ m =>
    floating s (computes s) (fun x y z => (exactSum s.frm [(y.mul x).negate, z.negate], 0)) (.reg a) vd b m
  | .vfnmaccVf vd b a _ m =>
    floating s (computes s) (fun x y z => (exactSum s.frm [(y.mul x).negate, z.negate], 0)) (.scalar (s.x a)) vd b m
  | .vfmsacVv vd b a _ _ m =>
    floating s (computes s) (fun x y z => (exactSum s.frm [y.mul x, z.negate], 0)) (.reg a) vd b m
  | .vfmsacVf vd b a _ m =>
    floating s (computes s) (fun x y z => (exactSum s.frm [y.mul x, z.negate], 0)) (.scalar (s.x a)) vd b m
  | .vfminVv vd b a _ _ m => floating s (computes s) (fun x y _ => FVal.minmax false x y) (.reg a) vd b m
  | .vfminVf vd b a _ m => floating s (computes s) (fun x y _ => FVal.minmax false x y) (.scalar (s.x a)) vd b m
  | .vfmaxVv vd b a _ _ m => floating s (computes s) (fun x y _ => FVal.minmax true x y) (.reg a) vd b m
  | .vfmaxVf vd b a _ m => floating s (computes s) (fun x y _ => FVal.minmax true x y) (.scalar (s.x a)) vd b m
  | .vfsgnjVv vd b a _ _ m => signForm s (fun _ y => y) (.reg a) vd b m
  | .vfsgnjVf vd b a _ m => signForm s (fun _ y => y) (.scalar (s.x a)) vd b m
  | .vfsgnjnVv vd b a _ _ m => signForm s (fun _ y => !y) (.reg a) vd b m
  | .vfsgnjnVf vd b a _ m => signForm s (fun _ y => !y) (.scalar (s.x a)) vd b m
  | .vfsgnjxVv vd b a _ _ m => signForm s (fun x y => x != y) (.reg a) vd b m
  | .vfsgnjxVf vd b a _ m => signForm s (fun x y => x != y) (.scalar (s.x a)) vd b m
  | .vfsqrt vd b _ m => floating s (computes s) (fun x _ _ => (x.sqrt, 0)) (.scalar 0) vd b m
  | .vfclass vd b _ m =>
    some (elementwise s (computes s) (fun a _ _ => (classWord s a, 0)) (.scalar 0) vd b m)
  | .vfrsqrt vd b _ m => special s .rsqrt vd b m
  | .vfrcp vd b _ m => special s .rcp vd b m
  | .vfexp2 vd b _ m => special s .exp2 vd b m
  | .vflog2 vd b _ m => special s .log2 vd b m
  | .vfsin vd b _ m => special s .sin vd b m
  | .vfcos vd b _ m => special s .cos vd b m
  | _ => none

/-- A compare (R121): bit i of `vd`. -/
def comparing (s : State) (ok : Bool) (f : Word → Word → Bool × Flags) (src : Src) (vd vs2 : BitVec 5) (vm : BitVec 1) :
    Option ElemForm :=
  let w := s.sew
  some
    { vm := vm, regs := vd.toNat :: vs2.toNat :: src.reads, ok := ok
      op := fun i t =>
        let r := f (t.velem vs2.toNat w i) (operand t w src i)
        .done ((t.raiseFlags t.cur r.2).setMbit vd.toNat i r.1) }

/-- An integer compare, which raises no flag. -/
def icmp (s : State) (f : Nat → Word → Word → Bool) (src : Src) (vd vs2 : BitVec 5) (vm : BitVec 1) : Option ElemForm :=
  comparing s true (fun a b => (f s.sew a b, 0)) src vd vs2 vm
def cEq (w : Nat) (a b : Word) : Bool := zx w a = zx w b
def cNe (w : Nat) (a b : Word) : Bool := zx w a ≠ zx w b
def cLt (w : Nat) (a b : Word) : Bool := sx w a < sx w b
def cLtu (w : Nat) (a b : Word) : Bool := zx w a < zx w b
def cLe (w : Nat) (a b : Word) : Bool := sx w a ≤ sx w b
def cLeu (w : Nat) (a b : Word) : Bool := zx w a ≤ zx w b

/-- A floating-point compare (R85). -/
def fcmp (s : State) (c : FCmp) (vs1 vd vs2 : BitVec 5) (vm : BitVec 1) : Option ElemForm :=
  comparing s (computes s) (fun a b => fcompare c (s.fmt.decode s.fz a) (s.fmt.decode s.fz b)) (.reg vs1) vd vs2 vm

/-- The compares (R85, R121). -/
def compareForm (s : State) : Instr → Option ElemForm
  | .vmseqVv vd b a _ _ m => icmp s cEq (.reg a) vd b m
  | .vmseqVx vd b a _ m => icmp s cEq (.scalar (s.x a)) vd b m
  | .vmseqVi vd b i _ m => icmp s cEq (simm i) vd b m
  | .vmsneVv vd b a _ _ m => icmp s cNe (.reg a) vd b m
  | .vmsneVx vd b a _ m => icmp s cNe (.scalar (s.x a)) vd b m
  | .vmsneVi vd b i _ m => icmp s cNe (simm i) vd b m
  | .vmsltVv vd b a _ _ m => icmp s cLt (.reg a) vd b m
  | .vmsltVx vd b a _ m => icmp s cLt (.scalar (s.x a)) vd b m
  | .vmsltuVv vd b a _ _ m => icmp s cLtu (.reg a) vd b m
  | .vmsltuVx vd b a _ m => icmp s cLtu (.scalar (s.x a)) vd b m
  | .vmsleVv vd b a _ _ m => icmp s cLe (.reg a) vd b m
  | .vmsleVx vd b a _ m => icmp s cLe (.scalar (s.x a)) vd b m
  | .vmsleVi vd b i _ m => icmp s cLe (simm i) vd b m
  | .vmsleuVv vd b a _ _ m => icmp s cLeu (.reg a) vd b m
  | .vmsleuVx vd b a _ m => icmp s cLeu (.scalar (s.x a)) vd b m
  | .vmsleuVi vd b i _ m => icmp s cLeu (simm i) vd b m
  | .vmfeq vd b a _ _ m => fcmp s .eq a vd b m
  | .vmfne vd b a _ _ m => fcmp s .ne a vd b m
  | .vmflt vd b a _ _ m => fcmp s .lt a vd b m
  | .vmfle vd b a _ _ m => fcmp s .le a vd b m
  | _ => none

/-- A form that moves elements: the new element i, or none where `vd` keeps its own. -/
def moving (s : State) (regs : List Nat) (f : State → Nat → Option Word) (vd : BitVec 5) (vm : BitVec 1) :
    Option ElemForm :=
  let w := s.sew
  some
    { vm := vm, regs := vd.toNat :: regs, ok := true
      op := fun i t => match f t i with
        | some v => .done (t.setVelem vd.toNat w i v)
        | none => .done t }

/-- Merges, moves, `vid`, `viota`, slides, `vrgather` (R117, R122, R124). `vmerge` and `vmv` write every element; `v0`
selects in `vmerge`. -/
def moveForm (s : State) : Instr → Option ElemForm
  | .vmergeVv vd b a _ _ => merge (.reg a) vd b
  | .vmergeVx vd b a _ => merge (.scalar (s.x a)) vd b
  | .vmergeVi vd b i _ => merge (simm i) vd b
  | .vmvVv vd a _ => moving s [a.toNat] (fun t i => some (t.velem a.toNat s.sew i)) vd 0
  | .vmvVx vd a => moving s [] (fun _ _ => some (s.x a)) vd 0
  | .vmvVi vd i => moving s [] (fun t j => some (operand t s.sew (simm i) j)) vd 0
  | .vid vd m => moving s [] (fun _ i => some (BitVec.ofNat 64 i)) vd m
  | .viota vd b _ m => moving s [b.toNat]
      (fun t i => some (BitVec.ofNat 64 ((List.range i).filter (fun j => (t.vreg b.toNat).getLsbD j)).length)) vd m
  | .vslideup vd b a _ m => moving s [b.toNat]
      (fun t i => if (s.x a).toNat ≤ i then some (t.velem b.toNat s.sew (i - (s.x a).toNat)) else none) vd m
  | .vslidedown vd b a _ m => moving s [b.toNat]
      (fun t i => some (if i + (s.x a).toNat < s.vmaxNow then t.velem b.toNat s.sew (i + (s.x a).toNat) else 0)) vd m
  | .vslide1up vd b a _ m => moving s [b.toNat]
      (fun t i => some (if i = 0 then s.x a else t.velem b.toNat s.sew (i - 1))) vd m
  | .vslide1down vd b a _ m => moving s [b.toNat]
      (fun t i => some (if i + 1 < s.me.vec.vl then t.velem b.toNat s.sew (i + 1) else s.x a)) vd m
  | .vrgather vd b a _ _ m => moving s [b.toNat, a.toNat]
      (fun t i =>
        let j := (t.velem a.toNat s.sew i).toNat
        some (if j < s.vmaxNow then t.velem b.toNat s.sew j else 0)) vd m
  | _ => none
where
  /-- `vmerge`. -/
  merge (src : Src) (vd b : BitVec 5) : Option ElemForm :=
    moving s (b.toNat :: src.reads)
      (fun t i => some (if (t.vreg 0).getLsbD i then operand t s.sew src i else t.velem b.toNat s.sew i)) vd 0

/-- `vcvt` (R120): the source format and width are those its fields name, the result's those of `vtype`; the wider of the
two takes a group of registers, aligned and apart from the other. -/
def convertForm (s : State) : Instr → Option ElemForm
  | .vcvt vd vs2 w f _ m =>
    let ws := 8 * 2 ^ w.toNat
    let wd := s.sew
    let n := max 1 (ws / wd)
    let k := max 1 (wd / ws)
    let vlen := 512 * s.lanes s.cur
    some
      { vm := m
        regs := (List.range k).map (vd.toNat + ·) ++ (List.range n).map (vs2.toNat + ·)
        ok := vs2.toNat % n = 0 && vd.toNat % k = 0 &&
          (ws = wd || !(vd.toNat < vs2.toNat + n && vs2.toNat < vd.toNat + k))
        op := fun i t =>
          let x := t.velem (vs2.toNat + i / (vlen / ws)) ws (i % (vlen / ws))
          let r := convert s.fmt (fmtOf f ws) s.frm s.fz x
          .done ((t.raiseFlags t.cur r.2).setVelem (vd.toNat + i / (vlen / wd)) wd (i % (vlen / wd)) r.1) }
  | _ => none

/-! ### Whole vector instructions -/

/-- A whole instruction: its registers, whether its format and fields allow it, and its effect or exception. -/
structure WholeForm where
  regs : List Nat
  ok   : Bool
  eff  : State → Except Trap State

/-- Instructions of a table run whole (R110): with `vstart` 0 the effect, or the exception with nothing else changed; with
`vstart` not 0, no lanes, `vill`, or a form not allowed, 0x02. -/
def RunsWhole (form : State → Instr → Option WholeForm) : Prop :=
  ∀ (s : State) (i : Instr) (F : WholeForm), i.wf = true → form s i = some F →
    (vecReady s F.regs → F.ok = true → s.me.vec.vstart = 0 →
      (∀ t, F.eff s = .ok t → exec i s = .next (vdone t)) ∧
      (∀ e, F.eff s = .error e → exec i s = takeTrap e (stoppedAt s 0))) ∧
    ((s.lanes s.cur = 0 ∨ s.vill = true ∨ F.ok = false ∨ s.me.vec.vstart ≠ 0) →
      exec i s = takeTrap (illegalTrap s) s)

/-- The register whose bits below n a function gives. -/
def bitsFrom (f : Nat → Bool) : Nat → VReg
  | 0 => 0
  | n + 1 => bitsFrom f n ||| (if f n then 1 <<< n else 0)

/-- A mask logical (R122): bits 0 to vl − 1 of `vd`, the others unchanged. -/
def maskLogical (f : Bool → Bool → Bool) (vd b a : BitVec 5) : Option WholeForm :=
  some
    { regs := [vd.toNat, b.toNat, a.toNat], ok := true
      eff := fun s => .ok (s.setVreg vd.toNat (bitsFrom (fun i =>
        if i < s.me.vec.vl then f ((s.vreg b.toNat).getLsbD i) ((s.vreg a.toNat).getLsbD i)
        else (s.vreg vd.toNat).getLsbD i) 16384)) }

/-- The elements below vl at which a mask register holds 1. -/
def marked (s : State) (r : BitVec 5) : List Nat := (List.range s.me.vec.vl).filter (fun i => (s.vreg r.toNat).getLsbD i)

/-- The active elements below vl. -/
def activeList (s : State) (vm : BitVec 1) : List Nat :=
  (List.range s.me.vec.vl).filter (fun i => vm = 0 || (s.vreg 0).getLsbD i)

/-- A reduction (R123): element 0 of `vd` becomes the operation over element 0 of `vs1` and the active elements of `vs2`
in order; with vl 0 nothing is written. -/
def reducing (s : State) (ok : Bool) (f : Word → List (Nat × Word) → Word × Flags) (vd b a : BitVec 5) (vm : BitVec 1) :
    Option WholeForm :=
  some
    { regs := [vd.toNat, b.toNat, a.toNat], ok := ok
      eff := fun s' =>
        if s.me.vec.vl = 0 then .ok s'
        else
          let r := f (s'.velem a.toNat s.sew 0) ((activeList s' vm).map (fun i => (i, s'.velem b.toNat s.sew i)))
          .ok ((s'.raiseFlags s'.cur r.2).setVelem vd.toNat s.sew 0 r.1) }

/-- An integer reduction: the elements folded into the start, which keeps SEW bits at the end. -/
def redInt (s : State) (f : Nat → Word → Word → Word → Int) (vd b a : BitVec 5) (vm : BitVec 1) : Option WholeForm :=
  reducing s true (fun x l => (l.foldl (fun x e => BitVec.ofInt 64 (f s.sew x e.2 0)) x, 0)) vd b a vm

/-- A floating reduction to the least or greatest (R84, R123). -/
def redFp (s : State) (greatest : Bool) (vd b a : BitVec 5) (vm : BitVec 1) : Option WholeForm :=
  reducing s (computes s) (fun x l => l.foldl (fun x e =>
    let m := FVal.minmax greatest (s.fmt.decode s.fz x.1) (s.fmt.decode s.fz e.2)
    let r := s.fmt.round s.frm s.fz m.1
    (r.1, x.2 ||| (r.2 ||| m.2))) (x, 0)) vd b a vm

/-- The whole instructions that read and write registers only (R122 to R125, R127, R128). -/
def wholeForm (s : State) : Instr → Option WholeForm
  | .vmand vd b a _ _ => maskLogical (fun x y => x && y) vd b a
  | .vmor vd b a _ _ => maskLogical (fun x y => x || y) vd b a
  | .vmxor vd b a _ _ => maskLogical (fun x y => x != y) vd b a
  | .vmandn vd b a _ _ => maskLogical (fun x y => x && !y) vd b a
  | .vcpop rd b _ => toX rd [b.toNat] (fun t => BitVec.ofNat 64 (marked t b).length)
  | .vfirst rd b _ => toX rd [b.toNat] (fun t => match (marked t b).head? with
      | some i => BitVec.ofNat 64 i
      | none => 0xFFFFFFFFFFFFFFFF)
  | .vmvxs rd b _ => toX rd [b.toNat] (fun t => BitVec.ofInt 64 (sx s.sew (t.velem b.toNat s.sew 0)))
  | .vmvsx vd a => some
      { regs := [vd.toNat], ok := true
        eff := fun t => .ok (if t.me.vec.vl = 0 then t else t.setVelem vd.toNat s.sew 0 (s.x a)) }
  | .vredsum vd b a _ _ m => redInt s eAdd vd b a m
  | .vredmax vd b a _ _ m => redInt s eMax vd b a m
  | .vredmin vd b a _ _ m => redInt s eMin vd b a m
  | .vredmaxu vd b a _ _ m => redInt s eMaxu vd b a m
  | .vredminu vd b a _ _ m => redInt s eMinu vd b a m
  | .vredand vd b a _ _ m => redInt s eAnd vd b a m
  | .vredor vd b a _ _ m => redInt s eOr vd b a m
  | .vredxor vd b a _ _ m => redInt s eXor vd b a m
  | .vfredsum vd b a _ _ m => reducing s (computes s) (fun x l =>
      groupedSum s.fmt s.frm s.fz x ((List.range ((s.me.vec.vl + 31) / 32)).map (fun g =>
        (l.filter (fun e => e.1 / 32 = g)).map (fun e => s.fmt.decode s.fz e.2)))) vd b a m
  | .vfredmax vd b a _ _ m => redFp s true vd b a m
  | .vfredmin vd b a _ _ m => redFp s false vd b a m
  | .vcompress vd b a _ _ => some
      { regs := [vd.toNat, b.toNat, a.toNat], ok := true
        eff := fun t => .ok ((List.zip (List.range (marked t a).length) (marked t a)).foldl
          (fun u e => u.setVelem vd.toNat s.sew e.1 (u.velem b.toNat s.sew e.2)) t) }
  | .vfchk a _ => some
      { regs := [a.toNat], ok := true
        eff := fun t => match (marked t a).find? (fun i => t.me.vec.vfm.getLsbD i) with
          | some i => .error ⟨0x11, BitVec.ofNat 64 i⟩
          | none => .ok t }
  | .vfmclr => some
      { regs := [], ok := true, eff := fun t => .ok (t.setHart t.cur { t.me with vec := { t.me.vec with vfm := 0 } }) }
  | _ => none
where
  /-- A whole instruction that writes a general register. -/
  toX (rd : BitVec 5) (regs : List Nat) (f : State → Word) : Option WholeForm :=
    some { regs := regs, ok := true, eff := fun t => .ok (t.setHart t.cur (wrote t.me rd (f t))) }

end Sys2Proof.Spec

/-- R116, R117: the integer element-wise instructions give each active element its exact result modulo 2^SEW, saturating
and dividing as their rows say. -/
def Obligations.IntegerVectorElements : Prop := RunsElementByElement intForm

/-- R84, R86, R111, R118, R119: the floating-point element-wise instructions give each active element the exact result
rounded once, with its flags; the sign injections and `vfclass` work on raw bits, and `vfclass` sets the one bit of R118's
table. A root rounds as its exact value does, which is stated by how it compares with every number at which a rounding can
change. A special function of special operands gives what R119's table says; of the others it gives the model's value, which
`SpecialFunctionsRoundAsTheirExactValue` compares with the exact one (assumption log 13, PRESUMED). -/
def Obligations.FloatingVectorElements : Prop :=
  RunsElementByElement floatForm ∧ RootsAreExact

/-- R85, R121: a compare gives bit i of `vd` the comparison of elements i. -/
def Sys2Proof.Spec.VectorCompares : Prop := RunsElementByElement compareForm

/-- R117, R122, R124: merges, moves, `vid`, `viota`, slides and `vrgather` move the elements they name. -/
def Sys2Proof.Spec.VectorMovesAndPermutations : Prop := RunsElementByElement moveForm

/-- R83, R120: `vcvt` converts each active element between its two formats with one rounding, through register groups where
the widths differ. -/
def Sys2Proof.Spec.VectorConversions : Prop := RunsElementByElement convertForm

/-- R110, R122, R123, R124, R127, R128: the mask logicals, counts, reductions, `vcompress`, scalar moves, `vfchk` and
`vfmclr`. -/
def Obligations.WholeVectorInstructions : Prop := RunsWhole wholeForm

/-- R117, R120 to R122, R124: compares, moves and conversions, element by element. -/
def Obligations.VectorComparesMovesAndConversions : Prop :=
  Sys2Proof.Spec.VectorCompares ∧ Sys2Proof.Spec.VectorMovesAndPermutations ∧ Sys2Proof.Spec.VectorConversions

namespace Sys2Proof.Spec

/-! ### Configuration, memory and masks of the vector unit -/

/-- The type a configuration instruction asks for, and its register fields (R49, R108): `vset` holds it in the word, with
its reserved bit [3] zero. -/
def vsetForm (s : State) : Instr → Option (BitVec 5 × BitVec 5 × Word)
  | .vset rd rs1 z => some (rd, rs1, BitVec.ofNat 64 (z.toNat % 8 + 16 * (z.toNat / 8)))
  | .vsetv rd rs1 rs2 => some (rd, rs1, s.x rs2)
  | _ => none

/-- The type is a configuration `vtype` may hold (R24). -/
def legalType (t : Word) : Prop :=
  t.toNat < 256 ∧ t.toNat / 8 % 2 = 0 ∧ t.toNat % 8 ≤ 3 ∧
    legalPair (BitVec.ofNat 3 (t.toNat / 16)) (BitVec.ofNat 2 (t.toNat % 4)) = true

/-- Where element i of a run of w-bit elements lies from a base (R77, R218). -/
def elementAt (base : Word) (w i : Nat) : ElemAt :=
  ⟨base + BitVec.ofNat 64 (i * w / 8), (i * w % 8 + w + 7) / 8, i * w % 8, w⟩

/-- The widths of the memory width codes (R46). -/
def widthOf (w : BitVec 3) : Nat :=
  match w.toNat with
  | 0 => 8
  | 1 => 16
  | 2 => 32
  | 3 => 64
  | 4 => 4
  | _ => 6

/-- A vector load or store (R217, R218): its addresses by unit stride, by a stride or by an index register; `vl*.s` sets
the fault mask where an element's load would fault (R127). -/
def memForm (s : State) : Instr → Option ElemForm
  | .vle vd a w m => load false m vd [] (fun _ i => elementAt (s.x a) (widthOf w) i)
  | .vleS vd a w => load true 0 vd [] (fun _ i => elementAt (s.x a) (widthOf w) i)
  | .vlse vd a b w m => load false m vd [] (fun _ i => strided (s.x a) (s.x b) (widthOf w) i)
  | .vlseS vd a b w => load true 0 vd [] (fun _ i => strided (s.x a) (s.x b) (widthOf w) i)
  | .vlxe vd x a w m => load false m vd [x] (fun t i => indexed t (s.x a) x (widthOf w) i)
  | .vlxeS vd x a w => load true 0 vd [x] (fun t i => indexed t (s.x a) x (widthOf w) i)
  | .vse vs a w m => store m vs [] (fun _ i => elementAt (s.x a) (widthOf w) i)
  | .vsse vs a b w m => store m vs [] (fun _ i => strided (s.x a) (s.x b) (widthOf w) i)
  | .vsxe vs x a w m => store m vs [x] (fun t i => indexed t (s.x a) x (widthOf w) i)
  | _ => none
where
  /-- Strided elements. -/
  strided (base step : Word) (w i : Nat) : ElemAt := ⟨base + BitVec.ofNat 64 i * step, w / 8, 0, w⟩
  /-- Indexed elements. -/
  indexed (t : State) (base : Word) (x : BitVec 5) (w i : Nat) : ElemAt := ⟨base + t.velem x.toNat s.sew i, w / 8, 0, w⟩
  /-- A load of element i is `loadElem`. -/
  load (spec : Bool) (m : BitVec 1) (vd : BitVec 5) (regs : List (BitVec 5)) (at_ : State → Nat → ElemAt) :
      Option ElemForm :=
    some
      { vm := m, regs := vd.toNat :: regs.map (·.toNat), ok := true
        op := fun i t => loadElem spec vd.toNat (at_ t i) i t }
  /-- A store of element i is `storeElem`. -/
  store (m : BitVec 1) (vs : BitVec 5) (regs : List (BitVec 5)) (at_ : State → Nat → ElemAt) : Option ElemForm :=
    some
      { vm := m, regs := vs.toNat :: regs.map (·.toNat), ok := true
        op := fun i t => storeElem vs.toNat (at_ t i) i t }

/-- Registers other than `v0` and general registers are as they were, and the instruction has retired. -/
def onlyV0 (s t : State) : Prop :=
  (∀ r, r ≠ 0 → t.vreg r = s.vreg r) ∧ (∀ r, t.x r = s.x r) ∧ t.me.pc = s.me.pc + 4 ∧ t.me.vec.vtype = s.me.vec.vtype ∧
    t.me.vec.vl = s.me.vec.vl ∧ t.me.vec.vfm = s.me.vec.vfm ∧ t.me.fcsr = s.me.fcsr

end Sys2Proof.Spec

/-- R24, R25, R49, R108: `vset` and `vsetv` set `vtype` to a legal type and `vl` to the least of the request and VLMAX (VLMAX
or the old `vl` where no request is named), zero `vstart`, give up the pin and write `x[rd]`; an illegal type leaves vill
alone and `vl` 0. -/
def Obligations.ConfigurationSetsTypeAndLength : Prop :=
  ∀ (s : State) (i : Instr) (rd rs1 : BitVec 5) (t : Word), vsetForm s i = some (rd, rs1, t) →
    (s.lanes s.cur = 0 → exec i s = takeTrap (illegalTrap s) s) ∧
    (s.lanes s.cur ≠ 0 →
      let vmax := 512 * s.lanes s.cur / (8 * 2 ^ (t.toNat % 4))
      let vl := if rs1 ≠ 0 then min (s.x rs1).toNat vmax else if rd ≠ 0 then vmax else min s.me.vec.vl vmax
      let done (ty : Word) (n : Nat) : State :=
        retired s (wrote { s.me with vec := { s.me.vec with vtype := ty, vl := n, vstart := 0 }, pin := none }
          rd (BitVec.ofNat 64 n)) (s.me.pc + 4)
      (legalType t → exec i s = .next (done t vl)) ∧
      (¬ legalType t → exec i s = .next (done 0x8000000000000000 0)))

/-- R21, R22, R23, R113: a written element reads back as its low bits, no other element and no other register changes, and
`sv0` to `sv15` are one set for the harts of a core. -/
def Sys2Proof.Spec.VectorElementsAreApart : Prop :=
  ∀ (s : State) (r w i : Nat) (v : Word), r < 32 → 0 < w → w ≤ 64 → (i + 1) * w ≤ 16384 →
    let t := s.setVelem r w i v
    t.velem r w i = BitVec.ofNat 64 (v.toNat % 2 ^ w) ∧
    (∀ j, j ≠ i → t.velem r w j = s.velem r w j) ∧
    (∀ q, q < 32 → q ≠ r → t.vreg q = s.vreg q) ∧
    (∀ k q, coreOf k = coreOf s.cur → k ≠ s.cur →
      (q < 16 → t.vregOf k q = s.vregOf k q) ∧ (16 ≤ q → q < 32 → t.vregOf k q = t.vreg q))

/-- R109, R110, R217, R218: vector loads and stores go element by element over their addresses. -/
def Sys2Proof.Spec.VectorLoadsAndStores : Prop := RunsElementByElement memForm

/-- R97, R127, R153, R219: an element that passes its checks moves between its bytes, the lowest first, and the register;
outside a bank of another format its bits move unchanged. A load leaves memory as it was; a store changes only its element's
bytes (but for a mark of R306), and waits where a window has no room for its lines (R208). A speculative load that would
fault sets its bit of the fault mask and nothing else. -/
def Sys2Proof.Spec.VectorElementsMoveTheirBytes : Prop :=
  ∀ (s : State) (r : Nat) (e : ElemAt) (i : Nat), r < 32 → (i + 1) * s.sew ≤ 16384 → e.bytes ∈ [1, 2, 4, 8] →
    let fits (pas : List Nat) : Bool := s.linesFit ((pas.filter (fun pa => s.region s.who.core pa = .tier)).map (· / 64))
    (∀ t, s.checkElem .load (s.bankOk s.who e) e = .error t →
      loadElem false r e i s = .trap t ∧
      loadElem true r e i s = .done (s.setHart s.cur { s.me with vec := { s.me.vec with
        vfm := s.me.vec.vfm ||| (1 <<< i) } })) ∧
    (∀ pas spec, s.checkElem .load (s.bankOk s.who e) e = .ok pas → s.bankFmt s.who (pas.headD 0) = 0 →
      ∃ t, loadElem spec r e i s = .done t ∧ t.mem = s.mem ∧
        t.velem r s.sew i = BitVec.ofNat 64
          ((pas.foldr (fun pa v => (Memory.get s.mem (keptAt s pa)).toNat + 256 * v) 0 / 2 ^ e.shift) %
            2 ^ (min e.width s.sew) % 2 ^ 64) ∧
        (∀ q, q < 32 → q ≠ r → t.vreg q = s.vreg q)) ∧
    (∀ t, s.checkElem .store (s.bankOk s.who e) e = .error t → storeElem r e i s = .trap t) ∧
    (∀ pas, s.checkElem .store (s.bankOk s.who e) e = .ok pas →
      fits pas = false → storeElem r e i s = .wait .element) ∧
    (∀ pas, s.checkElem .store (s.bankOk s.who e) e = .ok pas →
      fits pas = true → s.bankFmt s.who (pas.headD 0) = 0 → 8 ≤ e.width → Memory.wf s.mem = true →
      ∃ t, storeElem r e i s = .done t ∧
        storedAt s t.mem (keptAt s (pas.headD 0)) e.bytes (s.velem r s.sew i).toNat ∧
        (∀ q, t.vreg q = s.vreg q))

/-- R125, R126: `vmpush` keeps `v0`'s mask, zero from VLMAX up, on the stack and narrows `v0` to the elements where `vs1`
holds 1; with sixteen masks on chip the oldest goes to memory at `vmsp`, once the windows have room for its lines (R208);
`vmelse` turns the elements of the enclosing mask round, `vmpop` brings that mask back, from memory at `vmsp` − 256 when none
is on chip; without any, both raise 0x10. An access of these that fails takes its exception, and the stack stays. -/
def Sys2Proof.Spec.MaskStackNarrowsAndRestores : Prop :=
  ∀ (s : State) (c1 : BitVec 1), s.me.vec.vstart = 0 →
    let v := s.me.vec
    let mask : Mask := (s.vreg 0 &&& BitVec.ofNat 16384 (2 ^ s.vmaxNow - 1)).setWidth 2048
    (∀ vs1 : BitVec 5, vecReady s [0, vs1.toNat] →
      let narrowed (t : State) : Prop := onlyV0 s t ∧
        (∀ j, (t.vreg 0).getLsbD j =
          ((s.vreg 0).getLsbD j && !(decide (j < 2048) && decide (j < v.vl) && !(s.vreg vs1.toNat).getLsbD j)))
      (v.mstack.length < 16 → ∃ t, exec (.vmpush vs1 c1) s = .next t ∧ narrowed t ∧ t.mem = s.mem ∧
        t.me.vec.mstack = mask :: v.mstack ∧ t.me.vec.vmsp = v.vmsp ∧
        t.me.vec.spilled = v.spilled) ∧
      (16 ≤ v.mstack.length → 65535 ≤ v.spilled → exec (.vmpush vs1 c1) s = takeTrap ⟨0x10, 0⟩ s) ∧
      (∀ pa old l, v.mstack = l ++ [old] → l.length = 15 → v.spilled < 65535 →
        s.checkSpan .store 256 v.vmsp = .ok pa → s.overfull = false → Memory.wf s.mem = true →
        let fits := s.region s.who.core pa ≠ .tier ∨ s.linesFit (linesOf (keptAt s pa) 256) = true
        (fits → ∃ t, exec (.vmpush vs1 c1) s = .next t ∧ narrowed t ∧ t.me.vec.mstack = mask :: l ∧
          t.me.vec.vmsp = v.vmsp + 256 ∧ t.me.vec.spilled = v.spilled + 1 ∧
          storedAt s t.mem (keptAt s pa) 256 old.toNat) ∧
        (¬ fits → exec (.vmpush vs1 c1) s = .next (stalled s .window))) ∧
      (∀ e, 16 ≤ v.mstack.length → v.spilled < 65535 → s.checkSpan .store 256 v.vmsp = .error e →
        exec (.vmpush vs1 c1) s = takeTrap e s)) ∧
    (vecReady s [0] →
      (∀ m l, v.mstack = m :: l →
        (∃ t, exec .vmelse s = .next t ∧ onlyV0 s t ∧ t.me.vec.mstack = v.mstack ∧ t.mem = s.mem ∧
          (∀ j, (t.vreg 0).getLsbD j = if j < 2048 ∧ j < v.vl then m.getLsbD j && !(s.vreg 0).getLsbD j
            else (s.vreg 0).getLsbD j)) ∧
        (∃ t, exec .vmpop s = .next t ∧ onlyV0 s t ∧ t.me.vec.mstack = l ∧ t.mem = s.mem ∧
          (∀ j, (t.vreg 0).getLsbD j = if j < 2048 then m.getLsbD j else (s.vreg 0).getLsbD j))) ∧
      (v.mstack = [] → v.spilled = 0 →
        exec .vmelse s = takeTrap ⟨0x10, 0⟩ (stoppedAt s 0) ∧ exec .vmpop s = takeTrap ⟨0x10, 0⟩ (stoppedAt s 0)) ∧
      (∀ e, v.mstack = [] → v.spilled ≠ 0 → s.checkSpan .load 256 (v.vmsp - 256) = .error e →
        exec .vmelse s = takeTrap e (stoppedAt s 0) ∧ exec .vmpop s = takeTrap e (stoppedAt s 0)) ∧
      (∀ pa, v.mstack = [] → v.spilled ≠ 0 → s.checkSpan .load 256 (v.vmsp - 256) = .ok pa →
        (∃ t, exec .vmelse s = .next t ∧ onlyV0 s t ∧ t.me.vec.mstack = [] ∧ t.me.vec.spilled = v.spilled ∧ t.mem = s.mem ∧
          (∀ j, (t.vreg 0).getLsbD j = if j < 2048 ∧ j < v.vl
            then (bytesAt s (keptAt s pa) 256).testBit j && !(s.vreg 0).getLsbD j else (s.vreg 0).getLsbD j)) ∧
        ∃ t, exec .vmpop s = .next t ∧ onlyV0 s t ∧ t.me.vec.mstack = [] ∧ t.me.vec.spilled = v.spilled - 1 ∧
          t.me.vec.vmsp = v.vmsp - 256 ∧ t.mem = s.mem ∧
          (∀ j, (t.vreg 0).getLsbD j = if j < 2048 then (bytesAt s (keptAt s pa) 256).testBit j
            else (s.vreg 0).getLsbD j)))

/-- R129: `vappend` with no active element only retires; otherwise it adds their number to the count at its header and puts
element after element into the work vector from the old count on. An element past the capacity, or whose store fails, is
counted as lost; the first address that fails is the deferred exception 0x12. That an element goes in as its register holds
it, whatever format a bank has, and that the header and the elements are stored with the instruction, all or none of it
waiting for room, are the model's readings (assumption logs 44 and 93). -/
def Sys2Proof.Spec.AppendPutsActiveElementsAfterTheCount : Prop :=
  (∀ (s : State) (vs2 rs1 : BitVec 5) (c2 vm : BitVec 1), vecReady s [vs2.toNat] → s.me.vec.vstart = 0 →
    let act := activeList s vm
    let a := s.x rs1
    (act = [] → exec (.vappend vs2 rs1 c2 vm) s = .next (vdone s)) ∧
    (act ≠ [] → a.toNat % 32 ≠ 0 → exec (.vappend vs2 rs1 c2 vm) s = takeTrap ⟨0x04, a⟩ s) ∧
    (∀ t, act ≠ [] → a.toNat % 32 = 0 → s.check s.who .amo .atomic 32 a = .error t →
      exec (.vappend vs2 rs1 c2 vm) s = takeTrap t s) ∧
    (∀ pa, act ≠ [] → a.toNat % 32 = 0 → s.check s.who .amo .atomic 32 a = .ok pa →
      let c := s.cache s.who .amo a
      let word (k : Nat) : Nat := bytesAt s (keptAt s (pa + 8 * k)) 8
      let base : Word := BitVec.ofNat 64 (word 2)
      let slots := (List.range act.length).map (word 0 + ·)
      let r := (slots.zip act).foldl (fun (x : Append) e => x.element vs2.toNat s.sew (word 1) base e.1 e.2)
        ⟨c.writePa c.who pa (word 0 + act.length) 8, 0, none⟩
      let counted := if r.lost = 0 then r.s else
        r.s.writePa r.s.who (pa + 24) (bytesAt r.s (r.s.home c.who.core (pa + 24)) 8 + r.lost) 8
      let done := match r.first with
        | none => vdone counted
        | some va => (vdone counted).deferOrWait s.cur s.me.hgen ⟨0x12, va⟩ .append
      (c.addsWaiting done = false → done.overfull = false → exec (.vappend vs2 rs1 c2 vm) s = .next done) ∧
      (c.addsWaiting done = true → exec (.vappend vs2 rs1 c2 vm) s = .next (stalled c .event)) ∧
      (c.addsWaiting done = false → done.overfull = true → exec (.vappend vs2 rs1 c2 vm) s = .next (stalled c .window)))) ∧
  (∀ (a : Append) (v w cap slot i : Nat) (base : Word),
    let va := base + BitVec.ofNat 64 (slot * (w / 8))
    (cap ≤ slot → a.element v w cap base slot i = { a with lost := a.lost + 1 }) ∧
    (∀ e, slot < cap → a.s.check a.s.who .store .vector (w / 8) va = .error e →
      a.element v w cap base slot i = { a with lost := a.lost + 1, first := some (a.first.getD va) }) ∧
    (∀ pa, slot < cap → a.s.check a.s.who .store .vector (w / 8) va = .ok pa →
      a.element v w cap base slot i = { a with
        s := (a.s.cache a.s.who .store va).writePa a.s.who pa (a.s.velem v w i).toNat (w / 8) }))

/-- R80: rounding to an integer in each mode, to nearest with ties to even, towards zero, down, up, and to nearest with ties
away, for a value of either sign. R71, R73, R75: every representable value of a format rounds to itself and raises no flag. -/
def Obligations.RoundingChoosesItsNeighbour : Prop :=
  (∀ (neg : Bool) (x : Rat), 0 ≤ x →
    ((roundNat 0 neg x : Rat) ≤ x + 1 / 2 ∧ x - 1 / 2 ≤ roundNat 0 neg x ∧
      ((roundNat 0 neg x : Rat) = x + 1 / 2 ∨ (roundNat 0 neg x : Rat) = x - 1 / 2 → roundNat 0 neg x % 2 = 0)) ∧
    ((roundNat 1 neg x : Rat) ≤ x ∧ x < roundNat 1 neg x + 1) ∧
    (if neg then x ≤ roundNat 2 neg x ∧ (roundNat 2 neg x : Rat) < x + 1
      else (roundNat 2 neg x : Rat) ≤ x ∧ x < roundNat 2 neg x + 1) ∧
    (if neg then (roundNat 3 neg x : Rat) ≤ x ∧ x < roundNat 3 neg x + 1
      else x ≤ roundNat 3 neg x ∧ (roundNat 3 neg x : Rat) < x + 1) ∧
    ((roundNat 4 neg x : Rat) ≤ x + 1 / 2 ∧ x - 1 / 2 < roundNat 4 neg x)) ∧
  (∀ f ∈ [fp64, fp32, bf16, fp16], ∀ (frm : BitVec 3) (x : Nat), x < 2 ^ f.width → (f.decode x).isNan = false →
    f.round frm false (f.decode x) = (x, 0)) ∧
  (∀ (frm : BitVec 3) (fz : Bool) (c : Nat),
    (c < 256 → c ≠ 128 → Fmt.t8.round frm fz (Fmt.t8.decode fz (BitVec.ofNat 64 c)) = (BitVec.ofNat 64 c, 0)) ∧
    (c < 64 → c ≠ 32 → Fmt.t6.round frm fz (Fmt.t6.decode fz (BitVec.ofNat 64 c)) = (BitVec.ofNat 64 c, 0)) ∧
    (c < 16 → Fmt.fp4.round frm fz (Fmt.fp4.decode fz (BitVec.ofNat 64 c)) = (BitVec.ofNat 64 c, 0)))

/-- R109, R110, R127, R217 to R219: vector loads and stores, what one element does, and that elements are apart. -/
def Obligations.VectorLoadsAndStoresMoveTheirElements : Prop :=
  Sys2Proof.Spec.VectorLoadsAndStores ∧ Sys2Proof.Spec.VectorElementsMoveTheirBytes ∧ Sys2Proof.Spec.VectorElementsAreApart

/-- R125, R126, R129: the mask stack, and `vappend`. -/
def Obligations.MaskStackAndAppend : Prop :=
  Sys2Proof.Spec.MaskStackNarrowsAndRestores ∧ Sys2Proof.Spec.AppendPutsActiveElementsAfterTheCount

namespace Sys2Proof.Spec

/-! ### The matrix engine (R130 to R142) -/

/-- A matrix or whole quantiser instruction may run: the hart holds lanes (R58), `vstart` is 0, and no register it names is
an active stream (R240). -/
def matReady (s : State) (regs : List Nat) : Prop :=
  s.lanes s.cur ≠ 0 ∧ s.me.vec.vstart = 0 ∧ ∀ r ∈ regs, s.me.streamAt r = none

/-- The holder of array 0 or 1 of the current hart's core, and cell (i, j) of an array of a core. -/
def holder (s : State) (g : Nat) : Option Nat := if g = 0 then s.myCore.hold0 else s.myCore.hold1
def cellOf (c : Core) (g i j : Nat) : W32 := (if g = 0 then c.acc0 else c.acc1)[64 * i + j]?.getD 0

/-- The rows and columns of a matrix vector length (R130). -/
def rowsOf (m : BitVec 2) : Nat :=
  match m.toNat with
  | 0 => 0
  | 1 => 16
  | 2 => 32
  | _ => 64

/-- The types that `mopa` and `mops`, `mopai`, the moves, the dot products (R133) and the quantiser (R144) allow; the format
fixes SEW but for INT (R24). -/
def tensorType (s : State) : Prop := s.vill = false ∧ 3 ≤ s.fmtCode.toNat
def byteType (s : State) : Prop := s.vill = false ∧ s.fmtCode = 0 ∧ s.sew = 8
def moveType (s : State) : Prop := s.vill = false ∧ s.sew = 32 ∧ (s.fmtCode = 0 ∨ s.fmtCode = 2)
def quantType (s : State) : Prop := s.vill = false ∧ 2 ≤ s.fmtCode.toNat ∧ s.fmtCode.toNat ≤ 4

/-- A posted instruction (R134, R136, R138): whether its type is allowed, the array, the registers it reads and the entry. -/
def updateForm (s : State) : Instr → Option (Prop × BitVec 1 × List Nat × MqEntry)
  | .mopa g b a => update (tensorType s) .opa g b a
  | .mops g b a => update (tensorType s) .ops g b a
  | .mopai g b a => update (byteType s) .opai g b a
  | _ => none
where
  /-- What an update captures: operand B is the eight registers from 8 × `vs2`. -/
  update (l : Prop) (op : MqOp) (g : BitVec 1) (b : BitVec 2) (a : BitVec 5) :
      Option (Prop × BitVec 1 × List Nat × MqEntry) :=
    some (l, g, a.toNat :: (List.range 8).map (8 * b.toNat + ·),
      { slot := slotOf s.cur, array := g.toNat, op := op, mvl := rowsOf s.me.mvl, vtype := s.me.vec.vtype, frm := s.frm
        a := s.vreg a.toNat, b := (List.range 8).map (fun k => s.vreg (8 * b.toNat + k))
        scale := s.me.quant.vscale })

/-- The new value and the flags of cell (i, j) of an entry (R134, R135, R136). -/
def updated (e : MqEntry) (i j : Nat) (old : W32) : W32 × Flags :=
  let w := 8 * 2 ^ (e.vtype.toNat % 4)
  let code := BitVec.ofNat 3 (e.vtype.toNat / 16)
  let fz := e.vtype.getLsbD 7
  let f := fmtOf code w
  let a (k : Nat) : Word := getElem e.a w (k * e.mvl + i)
  let b (k : Nat) : Word := getElem (e.b.getD k 0) w j
  let scale : Byte := e.scale[j]?.getD 0
  let factor : FVal :=
    if code ≠ 7 then .fin false 1
    else if scale = 255 then .nan false
    else .fin false (pow2 ((scale.toNat : Int) - 127))
  let term (k : Nat) : FVal := (f.decode fz (a k)).mul ((f.decode fz (b k)).mul factor)
  let sum (l : List FVal) : W32 × Flags :=
    let r := (Fmt.ieee fp32).round e.frm fz (exactSum e.frm ((Fmt.ieee fp32).decode fz (old.setWidth 64) :: l))
    (r.1.setWidth 32, r.2)
  match e.op with
  | .zero => (0, 0)
  | .opa => sum ((List.range 8).map term)
  | .ops => sum ((List.range 8).map (fun k => (term k).negate))
  | .opai => (BitVec.ofInt 32 (old.toInt + ((List.range 8).map (fun k => sx 8 (a k) * sx 8 (b k))).foldl (· + ·) 0), 0)

/-- An entry changes cell (i, j) of array g: all of its array for `mzero`, those within MVL for an update. -/
def updates (e : MqEntry) (g i j : Nat) : Prop :=
  (g = 0 ↔ e.array = 0) ∧ (e.op = .zero ∨ (i < e.mvl ∧ j < e.mvl))

/-- Some cell that an entry computes raises flag n. -/
def raises (e : MqEntry) (c : Core) (n : Nat) : Prop :=
  ∃ i < e.mvl, ∃ j < e.mvl, (updated e i j (cellOf c e.array i j)).2.getLsbD n = true

/-- A move (R137): the array, the vector register, the index, whether it writes the array, and the cell of element n. -/
def rowForm (s : State) : Instr → Option (BitVec 1 × BitVec 5 × Word × Bool × (Nat → Nat × Nat))
  | .mrd v g a => some (g, v, s.x a, false, fun n => ((s.x a).toNat, n))
  | .mwr g v a => some (g, v, s.x a, true, fun n => ((s.x a).toNat, n))
  | .mrdc v g a => some (g, v, s.x a, false, fun n => (n, (s.x a).toNat))
  | .mwrc g v a => some (g, v, s.x a, true, fun n => (n, (s.x a).toNat))
  | _ => none

/-- Output o of a packed dot product over groups of G elements (R142). -/
def dotted (s : State) (big : Nat) (vd a b : BitVec 5) (o : Nat) : Word × Flags :=
  let l := (List.range big).map (o * big + ·) |>.filter (· < s.me.vec.vl)
  let old := s.velem vd.toNat 32 o
  if s.fmtCode = 0 then
    (BitVec.ofInt 64 (sx 32 old +
      (l.map (fun i => sx 8 (s.velem a.toNat 8 i) * sx 8 (s.velem b.toNat 8 i))).foldl (· + ·) 0), 0)
  else
    (Fmt.ieee fp32).round s.frm s.fz (exactSum s.frm ((Fmt.ieee fp32).decode s.fz old ::
      l.map (fun i => (s.fmt.decode s.fz (s.velem a.toNat s.sew i)).mul (s.fmt.decode s.fz (s.velem b.toNat s.sew i)))))

/-- General registers and memory are as they were, and the hart has gone on to the next instruction. -/
def onlyVector (s t : State) : Prop := t.cur = s.cur ∧ (∀ r, t.x r = s.x r) ∧ t.mem = s.mem ∧ t.me.pc = s.me.pc + 4

/-- `s` with flags raised for hart k (R89). -/
def flagged (s : State) (k : Nat) (f : Flags) : State :=
  s.setHart k { s.hart k with fcsr := (s.hart k).fcsr ||| f.setWidth 8 }

/-! ### The quantiser (R143 to R151) -/

/-- Row, axis position and scale entry of element i (R143). -/
def rowCount (q : Word) : Nat := q.toNat % 64 + 1
def rowOf (q : Word) (i : Nat) : Nat := i % rowCount q
def posOf (q : Word) (i : Nat) : Nat := i / rowCount q
def entOf (q : Word) (i : Nat) : Nat := posOf q i / 32 * rowCount q + rowOf q i
def segOf (q : Word) : Nat := q.toNat / 256 % 256

/-- The scale of the active values of a block (R145): 255 for a NaN or an infinity, 0 for zeros, and otherwise from the
exponent of the largest magnitude. -/
def IsScale (l : List FVal) (e : Nat) : Prop :=
  ((∃ v ∈ l, v.isNan = true ∨ v.isInf = true) → e = 255) ∧
  ((∀ v ∈ l, v.isNan = false ∧ v.isInf = false) →
    ((∀ v ∈ l, v.isZero = true) → e = 0) ∧
    (∀ n m x, FVal.fin n m ∈ l → 0 < m → (∀ k y, FVal.fin k y ∈ l → y ≤ m) → pow2 x ≤ m → m < pow2 (x + 1) →
      (e : Int) = between 0 254 (x - 2 + 127)))

/-- A format of a quantising store and its code (R143). -/
def narrowOf (q : Word) : Fmt × Nat :=
  match q.toNat / 2 ^ 18 % 4 with
  | 1 => (.t6, 6)
  | 2 => (.fp4, 7)
  | _ => (.t8, 5)

/-- The gap of R147 above a code's magnitude, below it for the largest. -/
def gapAt (f : Fmt) (c : Nat) : Rat :=
  let w : Nat := match f with | .t8 => 7 | .t6 => 5 | _ => 3
  let m (c : Nat) : Rat := match f with
    | .t8 => taperedVal 7 c
    | .t6 => taperedVal 5 c
    | _ => fp4Mag c
  let c := c % 2 ^ w
  if c = 2 ^ w - 1 then m c - m (c - 1) else m (c + 1) - m c

end Sys2Proof.Spec

/-- R130, R131, R133, R139: `mset` waits for the hart's queued matrix instructions, answers 2 for an invalid request and 1
where another hart holds an array asked for, with nothing else changed; otherwise the hart holds exactly the arrays asked
for, the new ones zeroed and the kept ones as they were, with the new MVL, and the answer is 0. `mrel` releases the arrays
named that the hart holds. -/
def Obligations.MatrixGrantsFollowTheRequest : Prop :=
  ∀ (s : State) (rd rs1 : BitVec 5),
    let q := (s.x rs1).toNat
    let mine (g : Nat) : Prop := holder s g = some (slotOf s.cur)
    let asks (g : Nat) : Prop := q / 2 ^ (2 + g) % 2 = 1
    let invalid : Prop := 16 ≤ q ∨ (q % 4 = 0 ∧ q ≠ 0)
    let busy : Prop := ∃ g < 2, asks g ∧ holder s g ≠ none ∧ ¬ mine g
    (s.lanes s.cur = 0 ∨ s.me.vec.vstart ≠ 0 →
      exec (.mset rd rs1) s = takeTrap (illegalTrap s) s ∧ exec (.mrel rs1) s = takeTrap (illegalTrap s) s) ∧
    (matReady s [] → s.hasQueued s.cur = true →
      exec (.mset rd rs1) s = .next (stalled s .interlock) ∧ exec (.mrel rs1) s = .next (stalled s .interlock)) ∧
    (matReady s [] → s.hasQueued s.cur = false →
      (invalid → exec (.mset rd rs1) s = .next (vdone (s.setHart s.cur (wrote s.me rd 2)))) ∧
      (¬ invalid → busy → exec (.mset rd rs1) s = .next (vdone (s.setHart s.cur (wrote s.me rd 1)))) ∧
      (¬ invalid → ¬ busy → ∃ t, exec (.mset rd rs1) s = .next t ∧ t.cur = s.cur ∧ t.mem = s.mem ∧
        t.me = (vdone (s.setHart s.cur (wrote { s.me with mvl := BitVec.ofNat 2 q } rd 0))).me ∧
        ∀ g < 2, holder t g = (if asks g then some (slotOf s.cur) else if mine g then none else holder s g) ∧
          (∀ i j, i < 64 → j < 64 → (asks g → ¬ mine g → cellOf t.myCore g i j = 0) ∧
            ((asks g ↔ mine g) → cellOf t.myCore g i j = cellOf s.myCore g i j))) ∧
      (∃ t, exec (.mrel rs1) s = .next t ∧ t.cur = s.cur ∧ t.mem = s.mem ∧ t.me = (vdone s).me ∧
        ∀ g < 2, holder t g = (if asks g ∧ mine g then none else holder s g) ∧
          (¬ (asks g ∧ mine g) → ∀ i j, i < 64 → j < 64 → cellOf t.myCore g i j = cellOf s.myCore g i j)))

/-- R133, R136, R138: an update or `mzero` is checked in R133's order (its type, the grant, 8 × MVL against VLMAX), waits
while the core's queue holds 32 entries, and otherwise retires with its entry at the end of the queue and nothing else
changed. -/
def Sys2Proof.Spec.MatrixUpdatesArePosted : Prop :=
  (∀ (s : State) (i : Instr) (l : Prop) (g : BitVec 1) (regs : List Nat) (e : MqEntry),
    updateForm s i = some (l, g, regs, e) →
    (s.lanes s.cur = 0 ∨ s.me.vec.vstart ≠ 0 ∨ ¬ l → exec i s = takeTrap (illegalTrap s) s) ∧
    (matReady s regs → l →
      (holder s g.toNat ≠ some (slotOf s.cur) ∨ s.me.mvl = 0 → exec i s = takeTrap ⟨0x13, 0⟩ s) ∧
      (holder s g.toNat = some (slotOf s.cur) → s.me.mvl ≠ 0 →
        (s.vmaxNow < 8 * e.mvl → exec i s = takeTrap ⟨0x14, BitVec.ofNat 64 (8 * e.mvl)⟩ s) ∧
        (8 * e.mvl ≤ s.vmaxNow → 32 ≤ s.myCore.mq.length → exec i s = .next (stalled s .matrixQueue)) ∧
        (8 * e.mvl ≤ s.vmaxNow → s.myCore.mq.length < 32 →
          exec i s = .next (vdone (s.setCore (coreOf s.cur) { s.myCore with mq := s.myCore.mq ++ [e] })))))) ∧
  (∀ (s : State) (g : BitVec 1), matReady s [] →
    (holder s g.toNat ≠ some (slotOf s.cur) ∨ s.me.mvl = 0 → exec (.mzero g) s = takeTrap ⟨0x13, 0⟩ s) ∧
    (holder s g.toNat = some (slotOf s.cur) → s.me.mvl ≠ 0 →
      (32 ≤ s.myCore.mq.length → exec (.mzero g) s = .next (stalled s .matrixQueue)) ∧
      (s.myCore.mq.length < 32 → exec (.mzero g) s = .next (vdone (s.setCore (coreOf s.cur)
        { s.myCore with mq := s.myCore.mq ++ [{ slot := slotOf s.cur, array := g.toNat, op := .zero }] })))))

/-- R90, R134, R135, R136, R138: the oldest entry of a core's queue gives each cell of its array within MVL the sum of the
cell and its eight products, rounded once (`mopai`: modulo 2^32; `mzero`: zero), raises the flags of its cells for the hart
that posted it, unless that hart has written `fflags` or `fcsr` since, and for the union of its cluster (R33), and changes no
other cell, no general register and no byte of memory. -/
def Sys2Proof.Spec.QueuedUpdatesChangeTheirCells : Prop :=
  ∀ (s : State) (c : Nat) (e : MqEntry) (rest : List MqEntry), (s.core c).mq = e :: rest →
    ∃ t, exec (.matrixQueueExecute c) s = .next t ∧ (t.core c).mq = rest ∧ t.mem = s.mem ∧
      (∀ g i j, g < 2 → i < 64 → j < 64 →
        (updates e g i j → cellOf (t.core c) g i j = (updated e i j (cellOf (s.core c) g i j)).1) ∧
        (¬ updates e g i j → cellOf (t.core c) g i j = cellOf (s.core c) g i j)) ∧
      (∀ n < 5, (t.hart (ctxKey c e.slot)).fcsr.getLsbD n = true ↔
        (s.hart (ctxKey c e.slot)).fcsr.getLsbD n = true ∨ (e.cut = false ∧ raises e (s.core c) n)) ∧
      (c < 432 → e.slot < 8 → ∀ n < 5, (t.cluster (clusterOfCore c)).flagsDue.getLsbD n = true ↔
        (s.cluster (clusterOfCore c)).flagsDue.getLsbD n = true ∨ raises e (s.core c) n) ∧
      (∀ k, (t.hart k).x = (s.hart k).x ∧ (t.hart k).pc = (s.hart k).pc ∧
        (k ≠ ctxKey c e.slot → t.hart k = s.hart k))

/-- R133, R137, R139, R142: a move exchanges a row or column of the array and the low elements of a register, bit for bit,
after the hart's queued instructions; a packed dot product adds each group's products to its 32-bit output with one rounding,
reading the elements before it writes any. Other elements, registers and cells are as they were. -/
def Obligations.AccumulatorMovesAndDotProducts : Prop :=
  (∀ (s : State) (i : Instr) (g : BitVec 1) (v : BitVec 5) (r : Word) (writes : Bool) (at_ : Nat → Nat × Nat),
    rowForm s i = some (g, v, r, writes, at_) →
    (s.lanes s.cur = 0 ∨ s.me.vec.vstart ≠ 0 ∨ ¬ moveType s → exec i s = takeTrap (illegalTrap s) s) ∧
    (matReady s [v.toNat] → moveType s →
      (holder s g.toNat ≠ some (slotOf s.cur) ∨ s.me.mvl = 0 → exec i s = takeTrap ⟨0x13, 0⟩ s) ∧
      (holder s g.toNat = some (slotOf s.cur) → s.me.mvl ≠ 0 →
        (rowsOf s.me.mvl ≤ r.toNat → exec i s = takeTrap ⟨0x14, r⟩ s) ∧
        (r.toNat < rowsOf s.me.mvl → s.hasQueued s.cur = true → exec i s = .next (stalled s .interlock)) ∧
        (r.toNat < rowsOf s.me.mvl → s.hasQueued s.cur = false →
          ∃ t, exec i s = .next t ∧ onlyVector s t ∧ t.me.fcsr = s.me.fcsr ∧
            (∀ q, q < 32 → (q ≠ v.toNat ∨ writes = true) → t.vreg q = s.vreg q) ∧
            (∀ n, n < 512 → t.velem v.toNat 32 n =
              if writes = false ∧ n < rowsOf s.me.mvl
              then (cellOf s.myCore g.toNat (at_ n).1 (at_ n).2).setWidth 64 else s.velem v.toNat 32 n) ∧
            (∀ h a b, h < 2 → a < 64 → b < 64 →
              (∀ n, n < rowsOf s.me.mvl → writes = true → h = g.toNat → at_ n = (a, b) →
                cellOf t.myCore h a b = (s.velem v.toNat 32 n).setWidth 32) ∧
              (writes = false ∨ h ≠ g.toNat ∨ (∀ n, n < rowsOf s.me.mvl → at_ n ≠ (a, b)) →
                cellOf t.myCore h a b = cellOf s.myCore h a b)))))) ∧
  (∀ (s : State) (vd a b : BitVec 5) (grp : BitVec 2),
    let big := 4 * 2 ^ grp.toNat
    let n := (s.me.vec.vl + big - 1) / big
    (s.lanes s.cur = 0 ∨ s.me.vec.vstart ≠ 0 ∨ ¬ (tensorType s ∨ byteType s) →
      exec (.mdot vd grp a b) s = takeTrap (illegalTrap s) s) ∧
    (matReady s [vd.toNat, a.toNat, b.toNat] → (tensorType s ∨ byteType s) →
      ∃ t, exec (.mdot vd grp a b) s = .next t ∧ onlyVector s t ∧
        (∀ o, o < 512 → t.velem vd.toNat 32 o =
          if o < n then ((dotted s big vd a b o).1.setWidth 32).setWidth 64 else s.velem vd.toNat 32 o) ∧
        (∀ q, q < 32 → q ≠ vd.toNat → t.vreg q = s.vreg q) ∧
        (∀ f < 5, t.me.fcsr.getLsbD f = (s.me.fcsr.getLsbD f ||
          decide (∃ o < n, (dotted s big vd a b o).2.getLsbD f = true)))))

/-- R144, R145, R151: `vmaxexp` gives each block that has an active element its scale, by maximum with the old one under
`macc`, and leaves the others; the block moves exchange 512 bytes of residues or 64 bytes of scales with memory and change
nothing else, a store once the windows have room for its lines (R208); one that fails a check takes its exception; `vqclr`
zeroes the residues. -/
def Sys2Proof.Spec.BlockScalesAndResidueMoves : Prop :=
  (∀ (s : State) (v : BitVec 5) (vm : BitVec 1),
    let q := s.me.quant.qaxis
    let past : Prop := ∃ i < s.me.vec.vl, 63 < entOf q i
    let act (n : Nat) : List FVal := ((activeList s vm).filter (fun i => entOf q i = n)).map
      (fun i => s.fmt.decode s.fz (s.velem v.toNat s.sew i))
    (s.lanes s.cur = 0 ∨ s.me.vec.vstart ≠ 0 ∨ ¬ quantType s →
      exec (.vmaxexp v vm) s = takeTrap (illegalTrap s) s) ∧
    (matReady s [v.toNat] → quantType s →
      (past → exec (.vmaxexp v vm) s = takeTrap ⟨0x14, BitVec.ofNat 64 s.me.vec.vl⟩ s) ∧
      (¬ past → s.hasQueued s.cur = true → exec (.vmaxexp v vm) s = .next (stalled s .interlock)) ∧
      (¬ past → s.hasQueued s.cur = false →
        ∃ t, exec (.vmaxexp v vm) s = .next t ∧ onlyVector s t ∧ (∀ r, t.vreg r = s.vreg r) ∧
          t.me.quant.prev1 = s.me.quant.prev1 ∧ t.me.quant.prev2 = s.me.quant.prev2 ∧ t.me.quant.qaxis = q ∧
          (∀ n, n < 64 → act n = [] → t.me.quant.vscale[n]? = s.me.quant.vscale[n]?) ∧
          (∀ n, n < 64 → act n ≠ [] → ∃ e : Nat, IsScale (act n) e ∧
            (t.me.quant.vscale[n]?.getD 0).toNat =
              if q.getLsbD 17 then max (s.me.quant.vscale[n]?.getD 0).toNat e else e)))) ∧
  (∀ (s : State) (rs1 : BitVec 5), matReady s [] →
    let q := s.me.quant
    let a := s.x rs1
    (a.toNat % 512 ≠ 0 → exec (.vqsave rs1) s = takeTrap ⟨0x06, a⟩ s ∧ exec (.vqload rs1) s = takeTrap ⟨0x04, a⟩ s) ∧
    (a.toNat % 64 ≠ 0 → exec (.vscsave rs1) s = takeTrap ⟨0x06, a⟩ s ∧
      (s.hasQueued s.cur = false → exec (.vscload rs1) s = takeTrap ⟨0x04, a⟩ s)) ∧
    (∀ e, (s.checkBlock .store 512 a = .error e → exec (.vqsave rs1) s = takeTrap e s) ∧
      (s.checkBlock .load 512 a = .error e → exec (.vqload rs1) s = takeTrap e s) ∧
      (s.checkBlock .store 64 a = .error e → exec (.vscsave rs1) s = takeTrap e s)) ∧
    (∀ pa, s.overfull = false → s.region s.who.core pa = .tier →
      (s.checkBlock .store 512 a = .ok pa → s.linesFit (linesOf (keptAt s pa) 512) = false →
        exec (.vqsave rs1) s = .next (stalled s .window)) ∧
      (s.checkBlock .store 64 a = .ok pa → s.linesFit (linesOf (keptAt s pa) 64) = false →
        exec (.vscsave rs1) s = .next (stalled s .window))) ∧
    (∀ pa, s.checkBlock .store 512 a = .ok pa → s.overfull = false → Memory.wf s.mem = true →
      (s.region s.who.core pa ≠ .tier ∨ s.linesFit (linesOf (keptAt s pa) 512) = true) →
      ∃ t, exec (.vqsave rs1) s = .next t ∧ t.me = (vdone s).me ∧
        storedAt s t.mem (keptAt s pa) 512 (ofBytes ((List.range 64).flatMap (fun r =>
          toBytes (q.prev1[r]?.getD 0).toNat 4 ++ toBytes (q.prev2[r]?.getD 0).toNat 4)))) ∧
    (∀ pa, s.checkBlock .store 64 a = .ok pa → s.overfull = false → Memory.wf s.mem = true →
      (s.region s.who.core pa ≠ .tier ∨ s.linesFit (linesOf (keptAt s pa) 64) = true) →
      ∃ t, exec (.vscsave rs1) s = .next t ∧ t.me = (vdone s).me ∧
        storedAt s t.mem (keptAt s pa) 64 (ofBytes ((List.range 64).map (fun n => q.vscale[n]?.getD 0)))) ∧
    (∀ pa, s.checkBlock .load 512 a = .ok pa → ∃ t, exec (.vqload rs1) s = .next t ∧ t.mem = s.mem ∧
      (∀ r, r < 64 → (t.me.quant.prev1[r]?.getD 0).toNat = bytesAt s (keptAt s (pa + 8 * r)) 4 ∧
        (t.me.quant.prev2[r]?.getD 0).toNat = bytesAt s (keptAt s (pa + 8 * r + 4)) 4) ∧
      t.me = { (vdone s).me with
        quant := { q with prev1 := t.me.quant.prev1, prev2 := t.me.quant.prev2 } }) ∧
    (s.hasQueued s.cur = true → exec (.vscload rs1) s = .next (stalled s .interlock)) ∧
    (∀ pa, s.hasQueued s.cur = false → s.checkBlock .load 64 a = .ok pa →
      ∃ t, exec (.vscload rs1) s = .next t ∧ t.mem = s.mem ∧
        (∀ n, n < 64 → (t.me.quant.vscale[n]?.getD 0) = Memory.get s.mem (keptAt s (pa + n))) ∧
        t.me = { (vdone s).me with quant := { q with vscale := t.me.quant.vscale } }) ∧
    exec .vqclr s = .next (vdone (s.setHart s.cur { s.me with
      quant := { q with prev1 := Vector.replicate 64 0, prev2 := Vector.replicate 64 0 } })))

/-- R146, R147, R149: `vqst` and `vqst2` run element by element (`quantElem`), from zeroed rows where `vstart` is 0 without
`cont` (also where `vl` is 0: the model's reading, assumption log 49); an element that faults, waits for room in a window
(R208) or is reached by something at its boundary (R110) leaves `vstart` at it with the elements below complete. The step of one element carries the
row's residues, d − 1 or 2 d1 − d2, into the exact value, rounds once to the code, and keeps what the code leaves out of the
value, bounded by one quantum and rounded to FP32. -/
def Sys2Proof.Spec.QuantisingStoresCarryTheirResidues : Prop :=
  (∀ (s : State) (second : Bool) (v rs1 : BitVec 5) (vm : BitVec 1),
    let i : Instr := if second then .vqst2 v rs1 vm else .vqst v rs1 vm
    let q := s.me.quant.qaxis
    let past : Prop := (narrowOf q).2 = 7 ∧ ∃ i < s.me.vec.vl, 63 < entOf q i
    let zeroRows (p : Vector W32 64) : Vector W32 64 := p.mapIdx (fun r x => if r < rowCount q then 0 else x)
    let start : State := if s.me.vec.vstart = 0 ∧ q.getLsbD 16 = false then s.setHart s.cur { s.me with
        quant := { s.me.quant with prev1 := zeroRows s.me.quant.prev1, prev2 := zeroRows s.me.quant.prev2 } } else s
    (s.lanes s.cur = 0 ∨ ¬ quantType s → exec i s = takeTrap (illegalTrap s) s) ∧
    (s.lanes s.cur ≠ 0 → quantType s → s.me.streamAt v.toNat = none →
      (past → exec i s = takeTrap ⟨0x14, BitVec.ofNat 64 s.me.vec.vl⟩ s) ∧
      (¬ past → (∀ j ∈ elementsTo s s.me.vec.vl, s.me.arrive ≠ some j) →
        exec i s = match runElements 0 (quantElem second v.toNat (s.x rs1) vm) (elementsTo s s.me.vec.vl) start with
          | .all t => .next (vdone t)
          | .trap j e t => takeTrap e (stoppedAt t j)
          | .wait j w t => .next (stalled (stoppedAt t j) w)) ∧
      (∀ j ∈ elementsTo s s.me.vec.vl, ∀ t, ¬ past → s.me.arrive = some j →
        runElements 0 (quantElem second v.toNat (s.x rs1) vm) (elementsTo s j) start = .all t →
        exec i s = .next (stalled (stoppedAt t j) .element)))) ∧
  (∀ (f : Fmt) (frm : BitVec 3) (second : Bool) (x : FVal) (p1 p2 : W32) (scale : Byte) (b c : FVal),
    f ∈ [Fmt.t8, .t6, .fp4] → scale ≠ 255 → x.isNan = false → x.isInf = false →
    b = (Fmt.ieee fp32).decode false (p1.setWidth 64) → c = (Fmt.ieee fp32).decode false (p2.setWidth 64) →
    b.isNan = false → b.isInf = false → c.isNan = false → c.isInf = false →
    let e : Rat := x.toRat + if second then 2 * b.toRat - c.toRat else b.toRat
    let scl : Rat := if f = .fp4 then pow2 ((scale.toNat : Int) - 127) else 1
    let r := quantStep f frm second x p1 p2 scale
    e ≠ 0 →
      (r.1, r.2.1) = f.round frm false (FVal.ofRat (e / scl)) ∧ r.2.2.2 = p1 ∧
      (let d := e - (f.decode false r.1).toRat * scl
       let lim := gapAt f r.1.toNat * scl
       ∃ k : FVal, k.toRat = max (-lim) (min lim d) ∧ k.isNan = false ∧ k.isInf = false ∧
         r.2.2.1 = ((Fmt.ieee fp32).round frm false k).1.setWidth 32))

/-- R90, R133 to R136, R138: a matrix update is posted, and done from the queue. -/
def Obligations.MatrixUpdatesArePostedAndDone : Prop :=
  Sys2Proof.Spec.MatrixUpdatesArePosted ∧ Sys2Proof.Spec.QueuedUpdatesChangeTheirCells

/-- R144 to R147, R149, R151: block scales, residues and the quantising stores. -/
def Obligations.QuantisingKeepsScalesAndResidues : Prop :=
  Sys2Proof.Spec.BlockScalesAndResidueMoves ∧ Sys2Proof.Spec.QuantisingStoresCarryTheirResidues

namespace Sys2Proof.Spec

/-! ### Tasks (R280 to R300) -/

/-- The limits of R288 (R289). -/
def legalRecord (r : TaskRec) : Prop :=
  r.code.toNat % 4 = 0 ∧ r.join.toNat % 128 = 0 ∧ r.lanes.toNat ∈ [0, 4, 8, 16, 32] ∧ r.gang.toNat < 16 ∧
    r.spad.toNat ≤ 16 ∧ r.rsvd = 0 ∧ r.cls.toNat ≤ 7 ∧ r.flags.toNat < 2

/-- The record as a task places it (R297): one deeper, its limit the task's, its class no higher. -/
def child (h : Hart) (r : TaskRec) : TaskRec :=
  { r with depth := h.task.tdepth + 1, maxdepth := h.task.tmax
           cls := BitVec.ofNat 8 (min r.cls.toNat h.task.tclass.toNat) }

/-- A placing instruction (R297): whether it goes to the deque, its destination register (none in a trapping form), and
the register of the record's address. -/
def placing : Instr → Option (Bool × Option (BitVec 5) × BitVec 5)
  | .taskSpawn rd a => some (false, some rd, a)
  | .taskSpawnt a => some (false, none, a)
  | .taskFork rd a => some (true, some rd, a)
  | .taskForkt a => some (true, none, a)
  | _ => none

/-- How a placing instruction ends with a status: in `x[rd]`, or in a trapping form as an exception, at the record's
address, that changes nothing (R297); `s` is the state before, `u` the one with the record read. -/
def reported (s u : State) (rd : Option (BitVec 5)) (status : Nat) (a : Word) : Res :=
  match rd with
  | some rd => .next (wentOn u rd (BitVec.ofNat 64 status))
  | none => if status = 0 then .next (wentOnly u) else takeTrap ⟨if status = 2 then 0x51 else 0x50, a⟩ s

/-- A cluster's store as a spawn finds it, once the records Lodestar keeps have entered it as far as it has room, the
continuations before the records of a repaired core (R299, R358), and what Lodestar keeps on. -/
def storeOf (c : Cluster) : List PlsRec :=
  c.pls ++ ((c.held ++ c.moved).take (256 - c.pls.length)).map (fun r => ⟨r, 0⟩)
def keptOn (c : Cluster) : List TaskRec := (c.held ++ c.moved).drop (256 - c.pls.length)

/-- A deque holds 64 records on chip and `dqcap` more (R291). -/
def dequeIsFull (c : Core) : Prop := 64 + c.dqcap ≤ c.deque.length + c.spilled.length

/-- The task state of a hart that takes a record (R290). -/
def taskOf (h : Hart) (r : TaskRec) : TaskState :=
  let gang : Bool := r.flags.getLsbD 0
  { tdepth := r.depth, tmax := r.maxdepth, tclass := BitVec.ofNat 3 r.cls.toNat, tjoin := r.join
    tgang := if gang then BitVec.ofNat 4 r.gang.toNat else h.task.tgang
    member := gang || h.task.member }

/-- A hart that begins a record, the n-th record begun (R290). -/
def begun (h : Hart) (r : TaskRec) (n : Nat) : Hart :=
  { h with
    task := taskOf h r
    begun := none, beganAt := n
    mvl := 0, mode := .u, pc := r.code, park := none, stall := none, strmctl := h.strmctl &&& ~~~0xF0000
    vec := { h.vec with vtype := 0x8000000000000000, vl := 0, vstart := 0, mstack := [], spilled := 0, vfm := 0 }
    instret := h.instret + 1
    x := ((((((h.x.set 10 r.frame).set 11 r.arg[0]).set 12 r.arg[1]).set 13 r.arg[2]).set 14 r.arg[3]).set 15 r.join) }

/-- The current hart runs the record it has taken (R290): its registers, its arrays given up, its context the youngest of
its core. -/
def Runs (s t : State) (r : TaskRec) : Prop :=
  t.me = begun s.me r (s.begins + 1) ∧ t.begins = s.begins + 1 ∧
    holder t 0 ≠ some (slotOf s.cur) ∧ holder t 1 ≠ some (slotOf s.cur) ∧
    t.myCore.age = s.myCore.age.filter (· ≠ slotOf s.cur) ++ [slotOf s.cur]

/-- From `s` the current hart has taken record `r` (R290): it is counted in its gang and holds the record's task state, and
runs it, or waits with it for its queued matrix instructions; memory and the harts of other contexts are as they were. -/
def Begins (s t : State) (r : TaskRec) : Prop :=
  let g := clusterOf s.cur
  let n := BitVec.toNat r.gang
  t.cur = s.cur ∧ t.mem = s.mem ∧ (∀ k, k ≠ s.cur → isOrr k = false → t.hart k = s.hart k) ∧
    (r.flags.getLsbD 0 = true → n < 16 →
      ((t.cluster g).gang n).members = ((s.cluster g).gang n).members + 1) ∧
    (r.flags.getLsbD 0 = false → (t.cluster g).gangs = (s.cluster g).gangs) ∧
    (s.hasQueued s.cur = false → Runs s t r) ∧
    (s.hasQueued s.cur = true → t.begins = s.begins ∧ holder t 0 = holder s 0 ∧ holder t 1 = holder s 1 ∧
      t.me = { s.me with task := taskOf s.me r, begun := some r, stall := some .interlock, park := none })

/-- The record of a list that R293 and R294 prefer: of the highest class among those at places a test admits, the first. -/
def Foremost (l : List TaskRec) (ok : Nat → TaskRec → Prop) (i : Nat) (r : TaskRec) : Prop :=
  l[i]? = some r ∧ ok i r ∧ (∀ j q, l[j]? = some q → ok j q → q.cls.toNat ≤ r.cls.toNat) ∧
    (∀ j q, j < i → l[j]? = some q → ok j q → q.cls.toNat < r.cls.toNat)

/-- The candidates of R294 of hart k: the oldest eligible record of the inbox, the bottom of the deque, the record R293
selects in the store. -/
def inboxCand (s : State) (k i : Nat) (r : TaskRec) : Prop :=
  (s.core (coreOf k)).inbox[i]? = some r ∧ s.eligible k r = true ∧
    ∀ j q, j < i → (s.core (coreOf k)).inbox[j]? = some q → s.eligible k q = false
def dequeCand (s : State) (k : Nat) (r : TaskRec) : Prop :=
  (s.core (coreOf k)).deque.getLast? = some r ∧ s.eligible k r = true
def agedCand (s : State) (k i : Nat) (r : TaskRec) : Prop :=
  let l := (s.cluster (clusterOf k)).pls
  Foremost (l.map (·.task)) (fun j q => s.eligible k q = true ∧ 64 ≤ (l[j]?.map (·.count)).getD 0) i r
def storeCand (s : State) (k i : Nat) (r : TaskRec) : Prop :=
  Foremost ((s.cluster (clusterOf k)).pls.map (·.task)) (fun _ q => s.eligible k q = true) i r

/-- R294 gives hart k the record `r` of a place: that of a count of 64 before all; else of the highest class, and of equal
classes the inbox's, then the deque's, then the store's. -/
def Chosen (s : State) (k : Nat) (p : Place) (r : TaskRec) : Prop :=
  match p with
  | .store i => agedCand s k i r ∨
      ((∀ j q, ¬ agedCand s k j q) ∧ storeCand s k i r ∧ (∀ j q, inboxCand s k j q → q.cls.toNat < r.cls.toNat) ∧
        (∀ q, dequeCand s k q → q.cls.toNat < r.cls.toNat))
  | .inbox i => (∀ j q, ¬ agedCand s k j q) ∧ inboxCand s k i r ∧ (∀ q, dequeCand s k q → q.cls.toNat ≤ r.cls.toNat) ∧
      (∀ j q, storeCand s k j q → q.cls.toNat ≤ r.cls.toNat)
  | .deque => (∀ j q, ¬ agedCand s k j q) ∧ dequeCand s k r ∧ (∀ j q, inboxCand s k j q → q.cls.toNat < r.cls.toNat) ∧
      (∀ j q, storeCand s k j q → q.cls.toNat ≤ r.cls.toNat)

/-- Nothing of the hart's own core and cluster is eligible (R296). -/
def nothingOwn (s : State) (k : Nat) : Prop :=
  (∀ i r, ¬ inboxCand s k i r) ∧ (∀ r, ¬ dequeCand s k r) ∧ (∀ i r, ¬ storeCand s k i r)

/-- The store of a cluster once hart k has taken `r`: the eligible records of a lower class are passed over (R293). -/
def passed (s : State) (k : Nat) (r : TaskRec) : List PlsRec :=
  (s.cluster (clusterOf k)).pls.map (fun e =>
    if s.eligible k e.task = true ∧ e.task.cls.toNat < r.cls.toNat then { e with count := e.count + 1 } else e)

/-- Lodestar of cluster g has an event of this kind more, at the end of its queue or of those that wait for room (R329). -/
def told (s t : State) (g : Nat) (e : LsEvent) : Prop :=
  ((s.cluster g).evq.length < 256 ∧ (s.cluster g).evWait = [] → (t.cluster g).evq = (s.cluster g).evq ++ [e]) ∧
  (¬ ((s.cluster g).evq.length < 256 ∧ (s.cluster g).evWait = []) →
    (t.cluster g).evq = (s.cluster g).evq ∧ (t.cluster g).evWait = (s.cluster g).evWait ++ [e])

/-- The kind-1 event that brings a cause to Lodestar for a core (R329). -/
def causeEvent (c : Nat) (hart : Nat) (cause : BitVec 8) (v : Word) : LsEvent :=
  { kind := 1, code := cause, hart := BitVec.ofNat 3 hart, core := BitVec.ofNat 4 (coreInCluster c), val := v }

/-- The top record of a deque, where it can be read (R292, R296): the oldest spilled one, or the oldest on chip. -/
def topOf (s : State) (c : Nat) : Option TaskRec :=
  match (s.core c).spilled with
  | n :: _ => (s.readSpilled c n).toOption
  | [] => (s.core c).deque.head?

/-- The address at which the refill of a deque's place fails, for a cause that neither R349 nor R355 adds to (R292). -/
def Unread (s : State) (c n : Nat) (va : Word) : Prop :=
  s.readSpilled c n = .error ⟨0x53, va⟩ ∧ s.spillError c va = s

/-- A thief k takes the top record `r` of victim v (R296): of a gang only within its cluster. -/
def Stealable (s : State) (k v : Nat) (r : TaskRec) : Prop :=
  topOf s v = some r ∧ s.eligible k r = true ∧ (r.flags.getLsbD 0 = false ∨ clusterOfCore v = clusterOf k)

/-- Victims a thief passes over in silence: their tops can be read, and it takes none of them (R296). -/
def PassesOver (s : State) (k : Nat) (vs : List Nat) : Prop :=
  ∀ v ∈ vs, (∀ r, ¬ Stealable s k v r) ∧ (∀ n rest, (s.core v).spilled = n :: rest → ∃ r, s.readSpilled v n = .ok r)

/-- What is left of a deque whose top has been taken. -/
def WithoutTop (c d : Core) : Prop :=
  (∀ n rest, c.spilled = n :: rest → d.spilled = rest ∧ d.deque = c.deque) ∧
    (c.spilled = [] → d.spilled = [] ∧ d.deque = c.deque.tail)

/-- What a search that finds nothing ends as (R295): it goes on with `x[rd]` 0, takes a pending interrupt, or parks. -/
def FindsNothing (s : State) (rd : BitVec 5) (wait : Bool) (rests : State) (out : Res) : Prop :=
  (wait = false → out = .next (wentOn s rd 0)) ∧
  (wait = true → s.enabledPending s.cur ≠ 0 → s.me.globally = false → out = .next (wentOn s rd 0)) ∧
  (wait = true → s.enabledPending s.cur ≠ 0 → s.me.globally = true →
    ∀ b : BitVec 8, s.nextInterrupt s.cur = some b → out = .next (s.setHart s.cur (sEntry s.me true b 0))) ∧
  (wait = true → s.enabledPending s.cur = 0 → out = .next rests)

/-- What looking for work comes to (R292, R294 to R296): the current hart begins the record the rules choose, taken from its
place, the newest spilled record coming back on chip when the bottom of a deque with spilled ones goes; or it steals the top
record of the first victim whose top it may take, and its cluster's Lodestar hears 0x53 of a victim whose top cannot be read,
or the search waits for room in that Lodestar's queue, with `waits` the state. Finding none it ends as `FindsNothing` says,
with `rests` the state of a hart that goes on waiting. -/
def LooksForWork (s : State) (rd : BitVec 5) (wait nosteal : Bool) (p : Park) (waits rests : State) (out : Res) : Prop :=
  let k := s.cur
  let c := coreOf k
  (∀ i r, Chosen s k (.inbox i) r → ∃ t, out = .next t ∧ Begins s t r ∧
    (t.core c).inbox = (s.core c).inbox.eraseIdx i ∧ (t.core c).deque = (s.core c).deque ∧
    (t.cluster (clusterOf k)).pls = passed s k r) ∧
  (∀ r, Chosen s k .deque r → (s.core c).spilled = [] → ∃ t, out = .next t ∧ Begins s t r ∧
    (t.core c).deque = (s.core c).deque.dropLast ∧ (t.core c).inbox = (s.core c).inbox ∧
    (t.cluster (clusterOf k)).pls = passed s k r) ∧
  (∀ r n rest, Chosen s k .deque r → (s.core c).spilled = rest ++ [n] →
    (∀ o, s.readSpilled c n = .ok o → ∃ t, out = .next t ∧ Begins s t r ∧
      (t.core c).deque = o :: (s.core c).deque.dropLast ∧ (t.core c).spilled = rest ∧
      (t.cluster (clusterOf k)).pls = passed s k r) ∧
    (∀ va, Unread s c n va → out = takeTrap ⟨0x53, va⟩ s)) ∧
  (∀ i r, Chosen s k (.store i) r → ∃ t, out = .next t ∧ Begins s t r ∧
    (t.core c).deque = (s.core c).deque ∧ (t.core c).inbox = (s.core c).inbox ∧
    (t.cluster (clusterOf k)).pls = (passed s k r).eraseIdx i) ∧
  (∀ pre v post r, nothingOwn s k → nosteal = false → s.victims c = pre ++ v :: post → PassesOver s k pre →
    Stealable s k v r → ∃ t, out = .next t ∧ Begins s t r ∧ WithoutTop (s.core v) (t.core v)) ∧
  (nothingOwn s k → (nosteal = true ∨ PassesOver s k (s.victims c)) → FindsNothing s rd wait rests out) ∧
  (∀ pre u post n rest va, nothingOwn s k → nosteal = false → s.victims c = pre ++ u :: post → PassesOver s k pre →
    (s.core u).spilled = n :: rest → Unread s u n va →
    let s' := s.forward (ctxKey u 0) 0x53 va
    told s s' (clusterOfCore u) (causeEvent u 0 0x53 va) ∧
    (s.eventRoom (clusterOfCore u) = false → out = .next waits) ∧
    (s.eventRoom (clusterOfCore u) = true →
      (∀ mid v post' r, post = mid ++ v :: post' → PassesOver s' k mid → Stealable s' k v r →
        ∃ t, out = .next t ∧ Begins s' t r ∧ WithoutTop (s.core v) (t.core v)) ∧
      (PassesOver s' k post → FindsNothing s' rd wait (parked s' p) out)))

/-- `s` with the current hart out of its gang and its join counter dealt with (R300). -/
def leftTask (s : State) : State :=
  let h := s.me
  let g := clusterOf s.cur
  let n := h.task.tgang.toNat
  let s' := s.setHart s.cur { h with task := { h.task with tjoin := 0, member := false } }
  let one : Gang := { (s.cluster g).gang n with members := ((s.cluster g).gang n).members - 1 }
  if h.task.member then s'.setCluster g { s.cluster g with gangs := (s.cluster g).gangs.setIfInBounds n one } else s'

/-- The oldest record `o` of core c's deque spills to place n of its spill area, a free one, written by the device in the
space of the core's partition (R292): what is so where the write at an address fails, and where it makes a state. -/
def Spills (s : State) (c n : Nat) (o : TaskRec) (fails : Word → Prop) (made : State → Prop) : Prop :=
  let w := s.bump.agentWrites (s.whoDeque c) ((s.core c).dqbase + 64 * BitVec.ofNat 64 n) o.words
  n < (s.core c).dqcap ∧ n ∉ (s.core c).spilled ∧ (∀ t, w = .error t → fails t.tval) ∧ (∀ v, w = .ok v → made v)

end Sys2Proof.Spec

/-- R289, R291, R297: `task.spawn`, `task.spawnt`, `task.fork` and `task.forkt` read the record at `x[rs1]`; a misaligned
address is 0x04, a record outside R288's limits 0x52; at the greatest depth the status is 2, else at a full destination 1,
and otherwise the child goes to the end of the cluster's store or to the bottom of the core's deque, whose oldest record a
65th spills, to a free place of the spill area, or waits for room in a host-visible window (R208); a spill that fails is
0x53 and places nothing. The model's reading (assumption log 57): what Lodestar keeps enters the store before a spawn finds
room there. -/
def Obligations.TasksArePlacedAsChildren : Prop :=
  ∀ (s : State) (i : Instr) (deque : Bool) (rd : Option (BitVec 5)) (rs1 : BitVec 5),
    placing i = some (deque, rd, rs1) → isCtx s.cur = true → s.overfull = false →
    let a := s.x rs1
    let c := coreOf s.cur
    let g := clusterOf s.cur
    (a.toNat % 64 ≠ 0 → exec i s = takeTrap ⟨0x04, a⟩ s) ∧
    (∀ t, a.toNat % 64 = 0 → s.loadWords a 8 = .error t → (t.cause ≠ 0xD5 ∨ s.eventRoom g = true) →
      exec i s = takeTrap t s) ∧
    (∀ l u, a.toNat % 64 = 0 → s.loadWords a 8 = .ok (l, u) →
      let r := TaskRec.ofWords l
      let full : Prop := if deque then dequeIsFull (u.core c) else 256 ≤ (storeOf (u.cluster g)).length
      (¬ legalRecord r → exec i s = takeTrap ⟨0x52, a⟩ s) ∧
      (legalRecord r → u.me.task.tmax.toNat ≤ u.me.task.tdepth.toNat → exec i s = reported s u rd 2 a) ∧
      (legalRecord r → u.me.task.tdepth.toNat < u.me.task.tmax.toNat →
        (full → exec i s = reported s u rd 1 a) ∧
        (¬ full → deque = false → exec i s = reported s (u.setCluster g { u.cluster g with
          pls := storeOf (u.cluster g) ++ [⟨child u.me r, 0⟩], held := [], moved := [] }) rd 0 a) ∧
        (¬ full → deque = true → (u.core c).deque.length < 64 → exec i s = reported s (u.setCore c { u.core c with
          deque := (u.core c).deque ++ [child u.me r] }) rd 0 a) ∧
        (¬ full → deque = true → ∀ o d, (u.core c).deque = o :: d → d.length = 63 →
          (∃ n, Spills u c n o (fun va => exec i s = takeTrap ⟨0x53, va⟩ s) (fun v =>
            (v.overfull = true → exec i s = .next (stalled s .window)) ∧
            (v.overfull = false → ∃ t, exec i s = reported s t rd 0 a ∧ t.mem = v.mem ∧
              (t.core c).deque = d ++ [child u.me r] ∧ (t.core c).spilled = (u.core c).spilled ++ [n]))))))

/-- R290, R292 to R296, R300: `task.pop` looks for work. `task.exit` with an arrival outstanding is 0x56; a failing
decrement of its join counter changes nothing; else the hart decrements it, leaves its gang and looks for work, waiting and
stealing. A hart that has taken a record and waits for its queued matrix instructions begins it once there are none, whichever
of the two it executes. A parked hart of a core that runs looks again; one of a fenced core does nothing (R356). -/
def Obligations.HartsBeginTheRecordTheRulesChoose : Prop :=
  (∀ (s : State) (rd rs1 : BitVec 5), isCtx s.cur = true → s.me.begun = none → s.overfull = false →
    let p : Park := .taskPop rd ((s.x rs1).getLsbD 1)
    LooksForWork s rd ((s.x rs1).getLsbD 0) ((s.x rs1).getLsbD 1) p (stalled s .event) (parked s p)
      (exec (.taskPop rd rs1) s)) ∧
  (∀ s : State, isCtx s.cur = true → s.me.begun = none → s.overfull = false →
    let j := s.me.task.tjoin
    let looks (u : State) : Prop :=
      LooksForWork u 0 true false .taskExit (stalled s .event) (parked u .taskExit) (exec .taskExit s)
    (s.me.bar.bpend = true → exec .taskExit s = takeTrap ⟨0x56, s.me.task.tgang.setWidth 64⟩ s) ∧
    (s.me.bar.bpend = false → j = 0 → looks (leftTask s)) ∧
    (s.me.bar.bpend = false → j ≠ 0 → s.joinWaits j = true → exec .taskExit s = .next (stalled s .window)) ∧
    (s.me.bar.bpend = false → j ≠ 0 → s.joinWaits j = false →
      (∀ t, s.joinDec s.who (coreOf s.cur) j = .error t →
        (t.cause ≠ 0xD5 ∨ s.eventRoom (clusterOf s.cur) = true) → exec .taskExit s = takeTrap t s) ∧
      (∀ n u, s.joinDec s.who (coreOf s.cur) j = .ok (n, u) → u.overfull = false → s.addsWaiting u = false →
        looks (leftTask u)))) ∧
  (∀ (s : State) (i : Instr) (r : TaskRec), (i = .taskExit ∨ ∃ rd rs1, i = .taskPop rd rs1) → isCtx s.cur = true →
    s.me.begun = some r →
    (s.hasQueued s.cur = true → exec i s = .next (stalled s .interlock)) ∧
    (s.hasQueued s.cur = false → ∃ t, exec i s = .next t ∧ t.cur = s.cur ∧ t.mem = s.mem ∧ t.clusters = s.clusters ∧
      (∀ k, k ≠ s.cur → t.hart k = s.hart k) ∧
      t.me = { begun s.me r (s.begins + 1) with task := s.me.task } ∧ t.begins = s.begins + 1 ∧
      holder t 0 ≠ some (slotOf s.cur) ∧ holder t 1 ≠ some (slotOf s.cur) ∧
      t.myCore.age = s.myCore.age.filter (· ≠ slotOf s.cur) ++ [slotOf s.cur])) ∧
  (∀ (s : State) (k : Nat) (p : Park) (rd : BitVec 5) (nosteal : Bool), (s.hart k).park = some p → isCtx k = true →
    (p = .taskPop rd nosteal ∨ (p = .taskExit ∧ rd = 0 ∧ nosteal = false)) →
    (s.runs k = false → exec (.taskPopWake k) s = .next s) ∧
    (s.runs k = true → s.overfull = false →
      LooksForWork { s with cur := k } rd true nosteal p s s (exec (.taskPopWake k) s)))

/-- R298, R299: `task.join` at a misaligned block is 0x06, at a count of 0 it is 0x57 and writes nothing; otherwise the
count falls by one and `x[rd]` is the new count; at zero the continuation, if it has one and keeps R288's limits, goes to the
bottom of the core's deque, whose oldest record a 65th spills (a spill that fails is 0x53 and undoes the join), or to the
store, or Lodestar keeps it and learns 0x50; one that cannot be read or breaks the limits is not placed and Lodestar learns
0x52. A join waits for room in Lodestar's queue and in a host-visible window (R208, R329). A kept record enters the store as
soon as it has room. The model's reading (assumption log 57): Lodestar reads the kept continuation itself, and a continuation
enters the store before a record of a repaired core (R358). -/
def Sys2Proof.Spec.JoinCountersReleaseTheirContinuation : Prop :=
  (∀ (s : State) (rd rs1 : BitVec 5) (scope : BitVec 3), isCtx s.cur = true → scope.toNat ≤ 4 → s.overfull = false →
    let a := s.x rs1
    let c := coreOf s.cur
    let g := clusterOf s.cur
    (a.toNat % 128 ≠ 0 → exec (.taskJoin rd rs1 scope) s = takeTrap ⟨0x06, a⟩ s) ∧
    (∀ t, a.toNat % 128 = 0 → s.check s.who .amo .atomic 8 a = .error t →
      (t.cause ≠ 0xD5 ∨ s.eventRoom g = true) → exec (.taskJoin rd rs1 scope) s = takeTrap t s) ∧
    (a.toNat % 128 = 0 → s.joinWaits a = true → exec (.taskJoin rd rs1 scope) s = .next (stalled s .window)) ∧
    (∀ pa, a.toNat % 128 = 0 → s.check s.who .amo .atomic 8 a = .ok pa → s.joinWaits a = false →
      Memory.wf s.mem = true →
      let old := bytesAt s (keptAt s pa) 8
      let stored (t : State) : Prop := storedAt s t.mem (keptAt s pa) 8 (old - 1) ∧ t.me.pc = s.me.pc + 4 ∧
        (∀ r, t.x r = if r = rd ∧ r ≠ 0 then BitVec.ofNat 64 (old - 1) else s.x r)
      (old = 0 → exec (.taskJoin rd rs1 scope) s = takeTrap ⟨0x57, a⟩ s) ∧
      (2 ≤ old → ∃ t, exec (.taskJoin rd rs1 scope) s = .next t ∧ stored t ∧ t.cores = s.cores ∧
        t.clusters = s.clusters) ∧
      (∀ u, old = 1 → s.joinTake s.who a = .ok (1, u) →
        let ends (Q : State → Prop) : Prop := ∃ t, exec (.taskJoin rd rs1 scope) s = .next t ∧ stored t ∧ Q t
        let tells (cause : BitVec 8) (Q : State → Prop) : Prop :=
          (s.eventRoom g = true → ends (fun t => Q t ∧ told s t g (causeEvent c (slotOf s.cur) cause a))) ∧
          (s.eventRoom g = false → exec (.taskJoin rd rs1 scope) s = .next (stalled s .event))
        let cont := u.agentReads s.who (a + 64) 8
        (∀ e, cont = .error e → e.cause ≠ 0xB0 → e.cause ≠ 0xD5 → tells 0x52 (fun t => t.cores = s.cores)) ∧
        (∀ l, cont = .ok l →
          let r := TaskRec.ofWords l
          let noDeque : Prop := dequeIsFull (s.core c) ∨ (s.core c).absent = true
          let store := storeOf (s.cluster g)
          (r.code = 0 → ends (fun t => t.cores = s.cores ∧ t.clusters = s.clusters)) ∧
          (r.code ≠ 0 → ¬ legalRecord r → tells 0x52 (fun t => t.cores = s.cores)) ∧
          (r.code ≠ 0 → legalRecord r →
            (¬ noDeque → (s.core c).deque.length < 64 → ends (fun t => (t.core c).deque = (s.core c).deque ++ [r])) ∧
            (∀ o d, ¬ noDeque → (s.core c).deque = o :: d → d.length = 63 →
              ∃ n, Spills u c n o (fun va => exec (.taskJoin rd rs1 scope) s = takeTrap ⟨0x53, va⟩ s) (fun v =>
                (v.overfull = true → exec (.taskJoin rd rs1 scope) s = .next (stalled s .window)) ∧
                (v.overfull = false → ∃ t, exec (.taskJoin rd rs1 scope) s = .next t ∧ t.mem = v.mem ∧
                  t.me.pc = s.me.pc + 4 ∧ (∀ q, t.x q = if q = rd ∧ q ≠ 0 then 0 else s.x q) ∧
                  (t.core c).deque = d ++ [r] ∧ (t.core c).spilled = (s.core c).spilled ++ [n]))) ∧
            (noDeque → store.length < 256 → ends (fun t => (t.cluster g).pls = store ++ [⟨r, 0⟩] ∧
              (t.cluster g).held = [] ∧ (t.cluster g).moved = [])) ∧
            (noDeque → 256 ≤ store.length → tells 0x50 (fun t =>
              (t.cluster g).held = (s.cluster g).held ++ [u.lodestarReads s.who.tr.part c a r]))))))) ∧
  (∀ (s : State) (g : Nat) (r : TaskRec) (rest : List TaskRec), (s.cluster g).held = r :: rest →
    ((s.cluster g).pls.length < 256 → exec (.continuationDeferred g) s = .next (s.setCluster g { s.cluster g with
      pls := (s.cluster g).pls ++ [⟨r, 0⟩], held := rest })) ∧
    (256 ≤ (s.cluster g).pls.length → exec (.continuationDeferred g) s = .next s)) ∧
  (∀ (s : State) (g : Nat) (r : TaskRec) (rest : List TaskRec), (s.cluster g).held = [] → (s.cluster g).moved = r :: rest →
    ((s.cluster g).pls.length < 256 → exec (.continuationDeferred g) s = .next (s.setCluster g { s.cluster g with
      pls := (s.cluster g).pls ++ [⟨r, 0⟩], moved := rest })) ∧
    (256 ≤ (s.cluster g).pls.length → exec (.continuationDeferred g) s = .next s))

namespace Sys2Proof.Spec

/-! ### Gang barriers (R284) -/

/-- A barrier instruction: its combination's code (0 for `gbar.arrive`), what it combines, its registers and its barrier. -/
def barrierForm : Instr → Option (Nat × (Nat → Nat → Nat) × BitVec 5 × BitVec 5 × BitVec 4)
  | .gbarArrive rd a n => some (0, fun x _ => x, rd, a, n)
  | .gbarMax rd a n => some (1, fun x y => max x y, rd, a, n)
  | .gbarMin rd a n => some (2, fun x y => min x y, rd, a, n)
  | .gbarAdd rd a n => some (3, fun x y => (x + y) % 2 ^ 64, rd, a, n)
  | .gbarOr rd a n => some (4, fun x y => x ||| y, rd, a, n)
  | _ => none

end Sys2Proof.Spec

/-- R284: a barrier instruction of a hart outside the gang, or with an arrival at another barrier, is 0x55; one that
disagrees with the phase's combination is 0x54; an arrival adds the value to the combination and parks; the last releases
every member with the combined value (the phase number where only `gbar.arrive` came), starts the next phase and goes on; a
released hart goes on with the value. A saved member has the release written into its save area (R287, R331), at offsets the
model chooses (assumption log 21); an arrival that so stores waits for room in a host-visible window (R208). -/
def Sys2Proof.Spec.GangBarriersReleaseTheLastArrival : Prop :=
  (∀ (s : State) (i : Instr) (op : Nat) (f : Nat → Nat → Nat) (rd rs1 : BitVec 5) (n : BitVec 4),
    barrierForm i = some (op, f, rd, rs1, n) → isCtx s.cur = true →
    let c := clusterOf s.cur
    let g := (s.cluster c).gang n.toNat
    let b := s.me.bar
    let member : Prop := s.me.task.member = true ∧ s.me.task.tgang = n
    (¬ member ∨ (b.bpend = true ∧ b.bn ≠ n) → exec i s = takeTrap ⟨0x55, n.setWidth 64⟩ s) ∧
    (member → b.bpend = true → b.bn = n → b.brel = true → exec i s = .next (retired s
      (wrote { s.me with bar := { b with bpend := false, brel := false } } rd b.bval) (s.me.pc + 4))) ∧
    (member → b.bpend = true → b.bn = n → b.brel = false → exec i s = .next (parked s (.gbar rd n.toNat))) ∧
    (member → b.bpend = false → op ≠ 0 → g.op ≠ 0 → g.op.toNat ≠ op → exec i s = takeTrap ⟨0x54, n.setWidth 64⟩ s) ∧
    (member → b.bpend = false → b.brel = false → s.overfull = false → (op = 0 ∨ g.op = 0 ∨ g.op.toNat = op) →
      let val : Nat := if op = 0 ∨ g.op ≠ 0 then f g.val.toNat (s.x rs1).toNat else (s.x rs1).toNat
      let op' : Nat := if op = 0 then g.op.toNat else op
      let result : Word := if op' = 0 then g.phase.setWidth 64 else BitVec.ofNat 64 val
      (g.arr + 1 ≠ g.size.toNat + 1 → ∃ t, exec i s = .next t ∧ t.me = { s.me with
          bar := { b with bpend := true, bn := n, bphase := g.phase }, park := some (.gbar rd n.toNat), stall := none } ∧
        (t.cluster c).gang n.toNat = { g with op := BitVec.ofNat 3 op', val := BitVec.ofNat 64 val, arr := g.arr + 1 } ∧
        t.mem = s.mem ∧ ∀ k, k ≠ s.cur → t.hart k = s.hart k) ∧
      (g.arr + 1 = g.size.toNat + 1 → ∃ hs cs,
        let v : State := g.away.foldl (fun u a => u.handArea result a) { s with harts := hs, clusters := cs }
        (v.overfull = true → exec i s = .next (stalled s .window)) ∧
        (v.overfull = false → ∃ t, exec i s = .next t ∧ t.mem = v.mem ∧
          t.me.bar = { b with bpend := false, bn := n, bphase := g.phase, bval := result, brel := false } ∧
          t.me.pc = s.me.pc + 4 ∧ (∀ r, t.x r = if r = rd ∧ r ≠ 0 then result else s.x r) ∧
          ((t.cluster c).gang n.toNat).phase = g.phase + 1 ∧ ((t.cluster c).gang n.toNat).arr = 0 ∧
          ((t.cluster c).gang n.toNat).op = 0 ∧ ((t.cluster c).gang n.toNat).away = [] ∧
          ∀ k, k ≠ s.cur → (t.hart k).x = (s.hart k).x ∧ (t.hart k).pc = (s.hart k).pc ∧
            (isCtx k = true → clusterOf k = c → (s.hart k).bar.bpend = true → (s.hart k).bar.bn = n →
              (s.hart k).bar.brel = false → (t.hart k).bar = { (s.hart k).bar with bval := result, brel := true }))))) ∧
  (∀ (s : State) (v : Word) (a : Nat), Memory.wf s.mem = true → (∀ o, o < 0x1D0 → s.home none (a + o) = a + o) →
    (s.complex 0).bitmap = none → (s.complex 1).bitmap = none →
    let t := s.handArea v a
    bytesAt t (a + 0x1C0) 8 = bytesAt s (a + 0x1C0) 8 ||| 2 ∧ bytesAt t (a + 0x1C8) 8 = v.toNat ∧
      ∀ x, x < a + 0x1C0 ∨ a + 0x1D0 ≤ x → Memory.get t.mem x = Memory.get s.mem x) ∧
  (∀ (s : State) (k : Nat) (rd : BitVec 5) (n : Nat), (s.hart k).park = some (.gbar rd n) →
    (s.runs k = true → (s.hart k).bar.brel = true → exec (.gbarWake k) s = .next (retired { s with cur := k }
      (wrote { s.hart k with bar := { (s.hart k).bar with bpend := false, brel := false } } rd (s.hart k).bar.bval)
      ((s.hart k).pc + 4))) ∧
    (s.runs k = false ∨ (s.hart k).bar.brel = false → exec (.gbarWake k) s = .next s))

/-- R284, R298, R299: join counters and gang barriers. -/
def Obligations.JoinsAndBarriersReleaseTheirWaiters : Prop :=
  Sys2Proof.Spec.JoinCountersReleaseTheirContinuation ∧ Sys2Proof.Spec.GangBarriersReleaseTheLastArrival

namespace Sys2Proof.Spec

/-! ### Messages (R262 to R267) -/

/-- The limits of a message record and its destination word (R262, R263). -/
def legalMsg (s : State) (l : List Word) (d : Word) : Prop :=
  (l.getD 0 0).toNat % 4 = 0 ∧ (l.getD 1 0).toNat % 8 = 0 ∧ l.getD 7 0 = 0 ∧ d.toNat / 2 ^ 19 % 2 ^ 13 = 0 ∧
    d.toNat / 2 ^ 6 % 16 ≤ 11 ∧ BitVec.ofNat 6 (d.toNat / 2 ^ 12) ∈ s.domain

/-- The number under which a sender counts its messages to a core. -/
def coreNumber (d : Word) : Nat := d.toNat / 8 % 2 ^ 15

/-- The message a hart sends of its record, its destination word and its number. -/
def messageOf (s : State) (l : List Word) (d : Word) (seq : W32) (scope : BitVec 3) (trapping : Bool) : Msg :=
  { handler := l.getD 0 0, cpl := l.getD 1 0
    payload := #v[l.getD 2 0, l.getD 3 0, l.getD 4 0, l.getD 5 0, l.getD 6 0]
    dst := d.setWidth 18, tohart := d.getLsbD 18, gen := BitVec.ofNat 32 (d.toNat / 2 ^ 32)
    src := s.cur, srcPkg := s.pkg, srcGen := s.me.hgen, tr := s.trOf s.cur
    ptid := (s.part (s.partOf s.cur)).ptid
    seq := seq, scope := scope.toNat, trapping := trapping }

/-- A send: whether its outcome traps, and its registers. -/
def sendForm : Instr → Option (Bool × BitVec 5 × BitVec 5 × BitVec 5 × BitVec 3)
  | .msgSend rd a b c => some (false, rd, a, b, c)
  | .msgSendt a b c => some (true, 0, a, b, c)
  | _ => none

/-- Flight n is the first of its source and core (R205). -/
def flightAt (s : State) (n : Nat) (f : Flight) : Prop :=
  s.flights[n]? = some f ∧ ∀ i g, i < n → s.flights[i]? = some g →
    ¬ (g.core = f.core ∧ g.msg.src = f.msg.src ∧ g.msg.srcPkg = f.msg.srcPkg)

/-- Comet n is the first of its source and destination, and no doorbell of its source that has to wait is before it. -/
def cometAt (s : State) (n : Nat) (c : Comet) : Prop :=
  s.comets[n]? = some c ∧ ∀ i d, i < n → s.comets[i]? = some d →
    ¬ (d.from_ = c.from_ ∧ (d.to_ = c.to_ ∨ ∃ g v k, d = .doorbell g v k ∧ s.eventRoom g = false))

/-- `s` without comet n. -/
def withoutComet (s : State) (n : Nat) : State := { s with comets := s.comets.eraseIdx n }

/-- The registers with which a message hart begins a message (R266). -/
def msgBegun (h : Hart) (m : Msg) (hloc : BitVec 18) : Hart :=
  let regs : List Word := List.replicate 10 0 ++ m.payload.toList ++
    [hloc.setWidth 64, m.seq.setWidth 64, if m.tohart then BitVec.ofNat 64 (m.dst.toNat % 8) else 8]
  { h with
    x := Vector.ofFn (fun i : Fin 32 => regs.getD i.val 0)
    mode := .u, pc := m.handler, resv := none, park := none, stall := none }

/-- The sender's partition is that of core c (R266): of this package by its number, a machine hart having none (assumption
log 14); of another package where both are in RUN, share a tenant, and link keys are installed for it (R347). -/
def SamePartition (s : State) (c : Nat) (m : Msg) : Prop :=
  ∃ q, s.ownerOfCluster (clusterOfCore c) = some q ∧
    (m.srcPkg = s.pkg → isMach m.src = false ∧ m.tr.part = q) ∧
    (m.srcPkg ≠ s.pkg → m.ptid ≠ 0 ∧ (s.part q).pstate = 2 ∧ (s.part q).ptid = m.ptid ∧
      s.remotes.any (fun r => r.pkg = m.srcPkg && r.ptid = m.ptid && r.run && r.keyed) = true)

/-- What this package tells another about message m of it. -/
def replyOf (m : Msg) (a : MsgAnswer) : RemoteReply := ⟨m.srcPkg, m.src, m.dst, m.seq, a⟩

/-- What ends with no entry of the send queue of m's sender that holds it. -/
def EntryEnds (t : State) (m : Msg) : Prop :=
  ∀ e ∈ (t.hart m.src).sendQ, ¬ (e.msg.dst = m.dst ∧ e.msg.seq = m.seq)

end Sys2Proof.Spec

/-- R262, R263, R264: a send checks its record's alignment (0x04), reads it, checks its limits (0x5C) and that its completion
word could be stored, waits while the hart's send queue holds eight, and then leaves with the next number to its destination
core: at once, or behind a refused message to the same core; for another package over the fabric, where its sender keeps its
entry until that package answers, or, with no route left (R366), it completes at once as a FAULT of cause 0xD4. How packages
tell each other of messages is the model's choice (assumption log 16). -/
def Sys2Proof.Spec.MessagesAreSentWithTheirNumber : Prop :=
  ∀ (s : State) (i : Instr) (trapping : Bool) (rd rs1 rs2 : BitVec 5) (scope : BitVec 3),
    sendForm i = some (trapping, rd, rs1, rs2, scope) → scope.toNat ≤ 4 →
    let a := s.x rs1
    let d := s.x rs2
    (a.toNat % 64 ≠ 0 → exec i s = takeTrap ⟨0x04, a⟩ s) ∧
    (∀ t, a.toNat % 64 = 0 → s.loadWords a 8 = .error t → exec i s = takeTrap t s) ∧
    (∀ l u, a.toNat % 64 = 0 → s.loadWords a 8 = .ok (l, u) →
      (¬ legalMsg u l d → exec i s = takeTrap ⟨0x5C, a⟩ s) ∧
      (∀ t, legalMsg u l d → l.getD 1 0 ≠ 0 → u.checkCpl (l.getD 1 0) = some t → exec i s = takeTrap t s) ∧
      (legalMsg u l d → (l.getD 1 0 = 0 ∨ u.checkCpl (l.getD 1 0) = none) →
        (8 ≤ s.me.sendQ.length → exec i s = .next (stalled s .sendQueue)) ∧
        (s.me.sendQ.length < 8 → u = { s with tlb := u.tlb, free := u.free } → s.overfull = false →
          let n := coreNumber d
          let seq := look s.me.seqs n 0
          let m := messageOf s l d seq scope trapping
          let sent (t : State) : Prop := exec i s = .next t ∧ t.mem = s.mem ∧ t.me.pc = s.me.pc + 4 ∧
            look t.me.seqs n 0 = seq + 1 ∧ (∀ r, t.x r = if r = rd ∧ r ≠ 0 then seq.setWidth 64 else s.x r)
          let here : Prop := BitVec.ofNat 6 (d.toNat / 2 ^ 12) = s.pkg
          let clear : Prop := ∀ e ∈ s.me.sendQ, destOf e.msg.dst = n → e.settled = true ∨ ∃ b, e.state = .flying b
          (here ∨ s.routed = true → s.me.holdsRefused n = true → ∃ t, sent t ∧ t.me.sendQ = s.me.sendQ ++ [⟨m, .unsent⟩] ∧
            t.flights = s.flights ∧ t.replies = s.replies) ∧
          (here → clear → ∃ t, sent t ∧ t.me.sendQ = s.me.sendQ ++ [⟨m, .flying false⟩] ∧
            t.flights = s.flights ++ [⟨coreOfHloc m.dst, m⟩]) ∧
          (¬ here → s.routed = true → clear → ∃ t, sent t ∧ t.me.sendQ = s.me.sendQ ++ [⟨m, .flying false⟩] ∧
            t.flights = s.flights ∧ t.outMsgs = s.outMsgs.filter (fun o => !o.same m) ++ [m]) ∧
          (¬ here → s.routed = false → l.getD 1 0 = 0 → ∃ t, sent t ∧ t.flights = s.flights ∧ t.outMsgs = s.outMsgs ∧
            EntryEnds t m) ∧
          (¬ here → s.routed = false → l.getD 1 0 ≠ 0 → 
            let v := u.setHart s.cur { s.me with
              seqs := put s.me.seqs n (seq + 1), sendQ := s.me.sendQ ++ [⟨m, .unsent⟩] }
            let w := v.writeCompletion (coreOf s.cur) m 4 0xD4
            (s.addsWaiting w = true → exec i s = .next (stalled s .event)) ∧
            (s.addsWaiting w = false → w.overfull = true → exec i s = .next (stalled s .window)) ∧
            (s.addsWaiting w = false → w.overfull = false → ∃ t, exec i s = .next t ∧ t.mem = w.mem ∧
              t.me.pc = s.me.pc + 4 ∧ EntryEnds t m)))))

/-- R264 to R267, R347, R359: a message that arrives at an absent core completes as a FAULT; one that finds the buffer full,
an earlier message of its source not accepted, or another number expected is refused, and the core notes its source, or tells
it to try again in 4,096 cycles when it has noted 64; any other is accepted behind those in the buffer. An idle message hart
takes the oldest: one for a hart of another generation completes as STALE and is counted, one of another partition as DENIED,
any other runs from its handler. `msg.done`, or 65,536 instructions without it, ends it; a completion word is written in the
sender's address space, and a STALE or DENIED `msg.sendt` raises 0x5A or 0x5B in its sender. A core that frees an entry
signals the source it noted first, which sends again. Of a message of another package that package is told instead.
The model's choices: a message of a Lodestar or an Orrery core is DENIED (assumption log 14), what packages tell each other
(16), a completion word that cannot be written is lost (17), and an entry is free once its message is taken out to run (19). -/
def Sys2Proof.Spec.MessagesArriveAndRunInOrder : Prop :=
  (∀ (s : State) (n : Nat) (f : Flight), flightAt s n f →
    let u := { s with flights := s.flights.eraseIdx n }
    let c := s.core f.core
    let src := (f.msg.src, f.msg.srcPkg)
    let here : Prop := f.msg.srcPkg = s.pkg
    let full : Bool := decide (64 ≤ c.refused.length) && !c.refused.contains src
    (c.absent = true → here → exec (.messageArrival n) s =
      .next (s.untilWindowRoom ((u.completeMsg f.core f.msg 4 0xD2).pump f.msg.src (destOf f.msg.dst)))) ∧
    (c.absent = true → ¬ here → s.overfull = false → exec (.messageArrival n) s =
      .next { u with replies := s.replies ++ [replyOf f.msg (.ended 4 0xD2)] }) ∧
    (c.absent = false →
      (c.fenced = true ∨ 32 ≤ c.msgBuf.length ∨ s.earlierHeld f.core f.msg = true ∨ c.unexpected f.msg = true) →
      ∃ t, exec (.messageArrival n) s = .next t ∧ t.flights = u.flights ∧ (t.core f.core).msgBuf = c.msgBuf ∧
        (full = false → src ∈ (t.core f.core).refused) ∧ (full = true → (t.core f.core).refused = c.refused) ∧
        (here → ∀ e ∈ (s.hart f.msg.src).sendQ, destOf e.msg.dst = destOf f.msg.dst → e.msg.seq = f.msg.seq →
          e.settled = false → ⟨e.msg, .refused full⟩ ∈ (t.hart f.msg.src).sendQ) ∧
        (¬ here → t.replies = s.replies ++ [replyOf f.msg (.refused full)] ∧
          (t.core f.core).heldSrcs.any (fun r => r.1 = f.msg.src && r.2.1 = f.msg.srcPkg) = true)) ∧
    (c.absent = false → c.fenced = false → c.msgBuf.length < 32 → s.earlierHeld f.core f.msg = false →
      c.unexpected f.msg = false → ∃ t, exec (.messageArrival n) s = .next t ∧
        (t.core f.core).msgBuf = c.msgBuf ++ [f.msg] ∧ t.mem = s.mem ∧
        (¬ here → t.replies = s.replies ++ [replyOf f.msg .accepted]) ∧
        (∃ r rest, (t.core f.core).srcs = r :: rest ∧ r.src = f.msg.src ∧ r.srcPkg = f.msg.srcPkg ∧
          r.gen = f.msg.srcGen ∧ r.expect = f.msg.seq + 1))) ∧
  (∀ (s : State) (c : Nat) (m : Msg) (rest : List Msg), (s.core c).msgBuf = m :: rest → (s.core c).running = none →
    (s.core c).fenced = false → (s.core c).absent = false →
    let stale : Prop := m.tohart = true ∧ m.gen ≠ (s.hart (hartOfHloc m.dst)).hgen
    let x := s.core c
    let u := s.setCore c { x with msgBuf := rest }
    (x.refused = [] → stale → exec (.messageRun c) s = .next (s.untilWindowRoom ((s.setCore c { x with
      msgBuf := rest, stalecnt := x.stalecnt + 1 }).completeMsg c m 2 0))) ∧
    (x.refused = [] → ¬ stale → ¬ SamePartition s c m → exec (.messageRun c) s =
      .next (s.untilWindowRoom (u.completeMsg c m 3 0))) ∧
    (x.refused = [] → ¬ stale → SamePartition s c m → exec (.messageRun c) s =
      .next ((s.setCore c { x with msgBuf := rest, running := some ⟨m, 0⟩ }).setHart (msgKey c)
        (msgBegun (s.hart (msgKey c)) m (s.senderHloc m)))) ∧
    (∀ k p more, x.refused = (k, p) :: more → ¬ stale → SamePartition s c m →
      ∃ t, exec (.messageRun c) s = .next t ∧ (t.core c).refused = more ∧ (t.core c).running = some ⟨m, 0⟩ ∧
        (p = s.pkg → t.comets = s.comets ++ [.free c k]) ∧
        (p ≠ s.pkg → t.replies = s.replies ++ [⟨p, k, hlocOf s.pkg (ctxKey c 0), 0, .notice⟩]))) ∧
  (∀ (s : State) (c : Nat) (r : RunMsg), (s.core c).running = some r →
    (65536 ≤ r.count → exec (.messageLimit c) s = .next (s.untilWindowRoom (s.endMessage c 5 0))) ∧
    (r.count < 65536 → exec (.messageLimit c) s = .next s)) ∧
  (∀ s : State, (isMsg s.cur = false → exec .msgDone s = takeTrap (illegalTrap s) s) ∧
    (isMsg s.cur = true →
      let t := (wentOnly s).endMessage (coreOf s.cur) 1 0
      (s.addsWaiting t = true → exec .msgDone s = .next (stalled s .event)) ∧
      (s.addsWaiting t = false → t.overfull = true → exec .msgDone s = .next (stalled s .window)) ∧
      (s.addsWaiting t = false → t.overfull = false → exec .msgDone s = .next t) ∧
      (s.overfull = false → (∀ r, (s.core (coreOf s.cur)).running = some r → r.msg.cpl = 0) →
        exec .msgDone s = .next t))) ∧
  (∀ (s : State) (c : Nat) (status cause : BitVec 8) (r : RunMsg), (s.core c).running = some r →
    let t := s.endMessage c status cause
    let d : Deferred := ⟨if status = 2 then 0x5A else 0x5B, r.msg.seq.setWidth 64⟩
    let k := r.msg.src
    (r.msg.srcPkg ≠ s.pkg → t.replies = s.replies ++ [replyOf r.msg (.ended status cause)] ∧ t.mem = s.mem ∧
      (t.core c).running = none) ∧
    (r.msg.srcPkg = s.pkg → r.msg.cpl = 0 → (r.msg.trapping = false ∨ (status ≠ 2 ∧ status ≠ 3)) →
      (t.core c).running = none ∧ t.mem = s.mem ∧ EntryEnds t r.msg) ∧
    (r.msg.srcPkg = s.pkg → r.msg.cpl = 0 → r.msg.trapping = true → status = 2 ∨ status = 3 → isCtx k = true →
      s.toLodestar k r.msg.srcGen = false → (s.hart k).areaNow = none → (s.hart k).deferred.length < 32 →
      (t.hart k).deferred = (s.hart k).deferred ++ [d] ∧ EntryEnds t r.msg)) ∧
  (∀ (s : State) (c : Nat) (m : Msg) (status cause : BitVec 8), m.cpl ≠ 0 →
    let w := s.ender c m
    (∀ t, s.check w .store (.scalar 8) 8 m.cpl = .error t → t.cause ≠ 0xB0 → t.cause ≠ 0xD5 →
      s.writeCompletion c m status cause = s) ∧
    (∀ pa, s.check w .store (.scalar 8) 8 m.cpl = .ok pa → s.region w.core pa = .tier → Memory.wf s.mem = true →
      (∀ b, (s.complex b).bitmap = none) →
      bytesAt (s.writeCompletion c m status cause) pa 8 =
        status.toNat + 2 ^ 8 * cause.toNat + 2 ^ 32 * m.seq.toNat)) ∧
  (∀ (s : State) (n c k : Nat), cometAt s n (.free c k) →
    ∃ t, exec (.contextFreeNotice n) s = .next t ∧ t.comets = s.comets.eraseIdx n ∧
      ∀ e ∈ (t.hart k).sendQ, destOf e.msg.dst = destOf (hlocOf s.pkg (ctxKey c 0)) → e.isRefused = false) ∧
  (∀ (s : State) (k dest : Nat),
    ((∃ e ∈ (s.hart k).sendQ, destOf e.msg.dst = dest ∧ e.state = .refused true) →
      ∃ t, exec (.uncountedResend k dest) s = .next t ∧ ∀ e ∈ (t.hart k).sendQ, destOf e.msg.dst = dest →
        e.isRefused = false ∧ e.state ≠ .unsent) ∧
    ((∀ e ∈ (s.hart k).sendQ, destOf e.msg.dst = dest → e.state ≠ .refused true) →
      exec (.uncountedResend k dest) s = .next s))

/-- R262 to R267, R359: messages from their sending to their end. -/
def Obligations.MessagesAreSentAndRunInOrder : Prop :=
  Sys2Proof.Spec.MessagesAreSentWithTheirNumber ∧ Sys2Proof.Spec.MessagesArriveAndRunInOrder

namespace Sys2Proof.Spec

/-! ### Waiting and notifying (R221, R222, R238, R247, R268, R329) -/

/-- What a parking instruction of the current hart does when its condition is not met (R221, R238): it takes an enabled
interrupt, ends as `broke` when one is pending that it cannot take, and rests otherwise, with `rests` the state. -/
def NotMet (s rests : State) (broke out : Res) : Prop :=
  (s.enabledPending s.cur = 0 → out = .next rests) ∧
  (s.enabledPending s.cur ≠ 0 → s.me.globally = false → out = broke) ∧
  (∀ c, s.enabledPending s.cur ≠ 0 → s.nextInterrupt s.cur = some c → out = .next (s.setHart s.cur (sEntry s.me true c 0)))

/-- A window with nothing pending and its count advanced (R209). -/
def published (v : Window) : Window := { v with pending := [], cnt := v.cnt + 1 }

end Sys2Proof.Spec

/-- R221, R238: `wait` goes on with the doubleword once it differs from `x[rs2]`, and `cm.acq` with the chunk bits asked for
that are set once all are (or at once without `wait`), clearing them if asked; until then each parks its hart. Its wake-up
looks again and leaves a hart whose condition still fails as it was; a hart of a fenced core does nothing (R356). -/
def Obligations.WaitAndAcquireParkUntilTheirCondition : Prop :=
  (∀ (s : State) (rd rs1 rs2 : BitVec 5) (scope : BitVec 3), isCtx s.cur = true → scope.toNat ≤ 4 →
    let a := s.x rs1
    let out := exec (.wait rd rs1 rs2 scope) s
    (∀ t, s.check s.who .load (.scalar 8) 8 a = .error t → out = takeTrap t s) ∧
    (∀ pa, s.check s.who .load (.scalar 8) 8 a = .ok pa →
      let tierOrScratch : Prop := s.region s.who.core pa = .tier ∨ ∃ c b o, s.region s.who.core pa = .scratch c b o
      let u := s.cache s.who .load a
      let v : Word := BitVec.ofNat 64 (bytesAt s (keptAt s pa) 8)
      (¬ tierOrScratch → out = takeTrap ⟨0x05, a⟩ s) ∧
      (tierOrScratch → v ≠ s.x rs2 → out = .next (wentOn u rd v)) ∧
      (tierOrScratch → v = s.x rs2 → NotMet u (parked u (.wait rd a (s.x rs2) scope.toNat)) (.next (wentOn u rd v)) out))) ∧
  (∀ (s : State) (k : Nat) (rd : BitVec 5) (a cmp : Word) (scope pa : Nat), (s.hart k).park = some (.wait rd a cmp scope) →
    let u := { s with cur := k }
    u.check u.who .load (.scalar 8) 8 a = .ok pa → u.region u.who.core pa = .tier →
    let v : Word := BitVec.ofNat 64 (bytesAt u (keptAt u pa) 8)
    let w := u.cache u.who .load a
    (s.runs k = false → exec (.waitWake k) s = .next s) ∧
    (s.runs k = true → v ≠ cmp → exec (.waitWake k) s = .next (wentOn w rd v)) ∧
    (s.runs k = true → v = cmp → NotMet w s (.next (wentOn w rd v)) (exec (.waitWake k) s))) ∧
  (∀ (s : State) (rd rs1 rs2 : BitVec 5), isCtx s.cur = true →
    let n := (s.x rs1).toNat % 8
    let m := s.myCore.cmask[n]?.getD 0
    let got := m &&& s.x rs2
    let u := if (s.x rs1).getLsbD 9 then s.setCore (coreOf s.cur) { s.myCore with
        cmask := s.myCore.cmask.setIfInBounds n (m &&& ~~~got) } else s
    let done : Res := .next (wentOn u rd got)
    ((s.x rs1).getLsbD 8 = false ∨ got = s.x rs2 → exec (.cmAcq rd rs1 rs2) s = done) ∧
    ((s.x rs1).getLsbD 8 = true → got ≠ s.x rs2 →
      NotMet s (parked s (.cmAcq rd n ((s.x rs1).getLsbD 9) (s.x rs2))) done (exec (.cmAcq rd rs1 rs2) s))) ∧
  (∀ (s : State) (k : Nat) (rd : BitVec 5) (n : Nat) (clr : Bool) (req : Word),
    (s.hart k).park = some (.cmAcq rd n clr req) →
    let v := { s with cur := k }
    let m := (s.core (coreOf k)).cmask[n]?.getD 0
    let got := m &&& req
    let u := if clr then v.setCore (coreOf k) { s.core (coreOf k) with
        cmask := (s.core (coreOf k)).cmask.setIfInBounds n (m &&& ~~~got) } else v
    (s.runs k = false → exec (.cmAcqWake k) s = .next s) ∧
    (s.runs k = true → got = req → exec (.cmAcqWake k) s = .next (wentOn u rd got)) ∧
    (s.runs k = true → got ≠ req → NotMet v s (.next (wentOn u rd got)) (exec (.cmAcqWake k) s)))

/-- R209, R222: `pub` of a word that names a disabled window, or has other bits set, is 0x31; otherwise every window named
has nothing pending and its count advanced, and its version word, a doubleword of the host, holds the new count unless a
window of a higher number has the same word; no other window and no other byte changes. -/
def Sys2Proof.Spec.PublicationAdvancesTheNamedWindows : Prop :=
  ∀ (s : State) (rs1 : BitVec 5), isCtx s.cur = true →
    let m := (s.x rs1).toNat
    let q := s.partOf s.cur
    let win (n : Nat) : Window := (s.part q).win n
    let named (n : Nat) : Prop := n < 16 ∧ m / 2 ^ n % 2 = 1
    let word (n : Nat) : Nat := s.hostAddr q (win n).ver.toNat
    let apart (a b : Nat) : Prop := a + 8 ≤ b ∨ b + 8 ≤ a
    let bad : Prop := 2 ^ 16 ≤ m ∨ ∃ n, named n ∧ (win n).en = false
    (bad → exec (.pub rs1) s = takeTrap ⟨0x31, s.x rs1⟩ s) ∧
    (¬ bad → q < 8 → ∃ t, exec (.pub rs1) s = .next t ∧ t.me.pc = s.me.pc + 4 ∧ (∀ r, t.x r = s.x r) ∧
      ((∀ n, named n → (win n).ver.toNat < 2 ^ 46 ∧ s.region none (word n) ≠ .tier) →
        (∀ n, named n → (t.part q).win n = published (win n)) ∧
        (∀ n, n < 16 → ¬ named n → (t.part q).win n = win n) ∧
        (Memory.wf s.mem = true →
          (∀ n, named n → (∀ i, named i → n < i → apart (word n) (word i)) →
            bytesAt t (word n) 8 = ((win n).cnt + 1).toNat) ∧
          (∀ x, (∀ n, named n → x < word n ∨ word n + 8 ≤ x) → Memory.get t.mem x = Memory.get s.mem x))))

/-- R247: `aq.notify` at anything but the notify register of a queue is 0x07; a queue that does not run, or a tail that
would move backwards, is 0x59; one that would overrun the ring is 0x58; otherwise the queue's tail is `x[rs2]`. -/
def Sys2Proof.Spec.NotifyMovesTheTailForward : Prop :=
  ∀ (s : State) (rs1 rs2 : BitVec 5) (scope : BitVec 3), isCtx s.cur = true → scope.toNat ≤ 4 →
    let a := s.x rs1
    let out := exec (.aqNotify rs1 rs2 scope) s
    (∀ t, s.check s.who .store (.scalar 8) 8 a = .error t → out = takeTrap t s) ∧
    (∀ pa, s.check s.who .store (.scalar 8) 8 a = .ok pa →
      ((∀ g i, i < 8 → s.region s.who.core pa ≠ .agentBlock g (0x1010 + 64 * i)) → out = takeTrap ⟨0x07, a⟩ s) ∧
      (∀ g i, i < 8 → s.region s.who.core pa = .agentBlock g (0x1010 + 64 * i) →
        let t := (s.agent g).q i
        let ahead := (t.tail - t.head).toNat
        let d := (s.x rs2 - t.head).toNat
        (t.state ≠ 1 ∨ d < ahead → out = takeTrap ⟨0x59, a⟩ s) ∧
        (t.state = 1 → ahead ≤ d → 2 ^ t.lg < d → out = takeTrap ⟨0x58, a⟩ s) ∧
        (t.state = 1 → ahead ≤ d → d ≤ 2 ^ t.lg → ∃ u, out = .next u ∧ u.mem = s.mem ∧
          (u.agent g).q i = { t with tail := s.x rs2 } ∧ (∀ j, j ≠ i → (u.agent g).q j = (s.agent g).q j) ∧
          (∀ r, u.x r = s.x r) ∧ u.me.pc = s.me.pc + 4)))

/-- R248, R259, R268, R324, R329: a notify comet raises the notify interrupt of the hart at its address, in its save area
while the hart is saved and in no context; one to a context without a hart becomes an event of kind 5. A pacing comet, or an
edge of the presentation reference for every blend unit of the partition that follows it, advances `pcnt`. A doorbell comet
becomes an event of kind 6. What finds its Lodestar's queue full waits. Lodestar takes the oldest event, and one that waited
moves up. The model's choices: where the save area holds the pending bit (assumption log 21), and that a comet which waits
holds up the later ones of its source (54). -/
def Obligations.CometsAndEventsReachTheirParty : Prop :=
  (∀ (s : State) (n : Nat) (h : BitVec 18) (a : Nat) (v : W32), cometAt s n (.notify h a v) →
    (∀ k, s.ihlocCtx h a = some k →
      ((s.hart k).areaNow = none → ((s.hart k).ctxState = 1 ∨ (s.hart k).ctxState = 2) →
        exec (.notify n) s = .next ((withoutComet s n).setHart k { s.hart k with
          sc := { (s.hart k).sc with notify := true } })) ∧
      (∀ area, (s.hart k).areaNow = some area → area.toNat % 4096 = 0 → s.overfull = false → Memory.wf s.mem = true →
        let p := area.toNat + 0x160
        let fits : Prop := s.region none p ≠ .tier ∨ s.linesFit (linesOf p 8) = true
        (¬ fits → exec (.notify n) s = .next s) ∧
        (fits → ∃ t, exec (.notify n) s = .next t ∧ t.comets = s.comets.eraseIdx n ∧
          ∀ x, Memory.get t.mem x = if x = p then Memory.get s.mem x ||| 1 else Memory.get s.mem x))) ∧
    (∀ g, g = (match s.ihlocCtx h a with | some k => clusterOf k | none => firstServed a) →
      (∀ k, s.ihlocCtx h a = some k →
        (s.hart k).ctxState ≠ 1 ∧ (s.hart k).ctxState ≠ 2 ∧ (s.hart k).areaNow = none) →
      (s.eventRoom g = false → exec (.notify n) s = .next s) ∧
      (s.eventRoom g = true → ∃ t, exec (.notify n) s = .next t ∧ t.comets = s.comets.eraseIdx n ∧
        told s t g { kind := 5, code := 3, hart := BitVec.ofNat 3 h.toNat, core := BitVec.ofNat 4 (h.toNat / 8 % 8)
                     val := v.setWidth 64 }))) ∧
  (∀ (s : State) (n a k : Nat), cometAt s n (.pacing a k) →
    exec (.hostPacing n) s = .next (if a % 6 / 2 = 2 ∧ (s.agent a).pctl = true
      then (withoutComet s n).setAgent a { s.agent a with pcnt := (s.agent a).pcnt + 1 } else withoutComet s n)) ∧
  (∀ (s : State) (n g k : Nat) (v : W32), cometAt s n (.doorbell g v k) →
    (s.eventRoom g = false → exec (.lodestarDoorbell n) s = .next s) ∧
    (s.eventRoom g = true → ∃ t, exec (.lodestarDoorbell n) s = .next t ∧ t.comets = s.comets.eraseIdx n ∧
      told s t g { kind := 6, val := v.setWidth 64 })) ∧
  (∀ (s : State) (q : Nat), ∃ t, exec (.presentationReferenceEdge q) s = .next t ∧ t.mem = s.mem ∧
    ∀ a < 24, t.agent a = if a % 6 / 2 = 2 ∧ s.ownerOfAgent a = some q ∧ (s.agent a).pctl = false
      then { s.agent a with pcnt := (s.agent a).pcnt + 1 } else s.agent a) ∧
  (∀ (s : State) (g : Nat), ∃ t, exec (.lsevt0Pop g) s = .next t ∧ t.mem = s.mem ∧
    ((s.cluster g).evq = [] → t = s) ∧
    (∀ e q, (s.cluster g).evq = e :: q → (t.cluster g).lsevt1 = e.val ∧
      ((s.cluster g).evWait = [] → (t.cluster g).evq = q ∧ (t.cluster g).evWait = []) ∧
      (∀ w ws, (s.cluster g).evWait = w :: ws → (t.cluster g).evq = q ++ [{ w with keeps := none }] ∧
        (t.cluster g).evWait = ws)))

/-- R209, R222, R247: `pub` and `aq.notify`. -/
def Obligations.PublicationAndNotify : Prop :=
  Sys2Proof.Spec.PublicationAdvancesTheNamedWindows ∧ Sys2Proof.Spec.NotifyMovesTheTailForward

namespace Sys2Proof.Spec

/-! ### Copies (R229 to R236) -/

/-- A field of n bytes at an offset of a copy descriptor, unsigned and signed. -/
def field (d : BitVec 1024) (off n : Nat) : Nat := d.toNat / 2 ^ (8 * off) % 2 ^ (8 * n)
def sfield (d : BitVec 1024) (off n : Nat) : Int := (BitVec.ofNat (8 * n) (field d off n)).toInt

/-- Bits of the control word of a descriptor, `n` from `lo`. -/
def ctlOf (d : BitVec 1024) (lo n : Nat) : Nat := field d 72 8 / 2 ^ lo % 2 ^ n

/-- Element width, rows, elements, first element and rows per chunk. -/
def eBytes (d : BitVec 1024) : Nat := 2 ^ ctlOf d 0 2
def boxRows (d : BitVec 1024) : Nat := field d 68 2 * field d 70 2
def boxTotal (d : BitVec 1024) : Nat := field d 64 4 * boxRows d

/-- The limits of R229 and the conditions of R231 step 2 on the fields. -/
def legalDesc (d : BitVec 1024) : Prop :=
  (∀ k < 3, field d (40 + 4 * k) 4 < 2 ^ 31) ∧ 1 ≤ field d 64 4 ∧ field d 64 4 ≤ 2 ^ 24 ∧ 1 ≤ field d 68 2 ∧
    1 ≤ field d 70 2 ∧ ctlOf d 32 32 = 0 ∧ field d 88 4 < 2 ^ 20 ∧ field d 92 4 = 0 ∧
    (ctlOf d 6 1 = 1 → 1 ≤ ctlOf d 16 16 ∧ ctlOf d 10 6 + (boxRows d + ctlOf d 16 16 - 1) / ctlOf d 16 16 ≤ 64) ∧
    field d 112 8 < boxTotal d ∧ field d 96 8 % 8 = 0

/-- Coordinate k of element e in the box. -/
def boxAt (d : BitVec 1024) (e k : Nat) : Int :=
  let n0 := field d 64 4
  let n1 := field d 68 2
  match k with
  | 0 => (e % n0 : Nat)
  | 1 => (e / n0 % n1 : Nat)
  | _ => (e / (n0 * n1) : Nat)

/-- Element e lies in the tensor's extents; its tensor address and its tile address (R230). -/
def inTensor (d : BitVec 1024) (e : Nat) : Prop :=
  ∀ k < 3, 0 ≤ sfield d (52 + 4 * k) 4 + boxAt d e k ∧ sfield d (52 + 4 * k) 4 + boxAt d e k < field d (40 + 4 * k) 4
def tensorAddr (d : BitVec 1024) (e : Nat) : Int :=
  let c (k : Nat) : Int := sfield d (52 + 4 * k) 4 + boxAt d e k
  field d 0 8 + c 0 * eBytes d + c 1 * sfield d 16 8 + c 2 * sfield d 24 8
def tileAddr (d : BitVec 1024) (e : Nat) : Int :=
  field d 8 8 + boxAt d e 0 * eBytes d + boxAt d e 1 * sfield d 32 4 + boxAt d e 2 * sfield d 36 4

/-- The elements the copy moves or skips. -/
def inBox (d : BitVec 1024) (e : Nat) : Prop := field d 112 8 ≤ e ∧ e < boxTotal d

/-- The two spans meet (R231 step 2). -/
def spansMeet (d : BitVec 1024) : Prop :=
  (∃ e f, inBox d e ∧ inTensor d e ∧ inBox d f ∧ tensorAddr d e ≤ tileAddr d f + eBytes d - 1) ∧
  (∃ e f, inBox d e ∧ inTensor d e ∧ inBox d f ∧ tileAddr d f ≤ tensorAddr d e + eBytes d - 1)

/-- An exact address is one translation accepts (R231 step 3). -/
def acceptable (a : Int) : Prop :=
  0 ≤ a ∧ a < (2 ^ 64 : Nat) ∧ (a < (2 ^ 47 : Nat) ∨ (2 ^ 64 - 2 ^ 47 : Nat) ≤ a)
def addressesOk (d : BitVec 1024) : Prop :=
  (∀ e, inBox d e → acceptable (tileAddr d e)) ∧ (∀ e, inBox d e → inTensor d e → acceptable (tensorAddr d e)) ∧
    acceptable (field d 96 8)

/-- The descriptor of sixteen doublewords. -/
def descOf (l : List Word) : BitVec 1024 := l.foldr (fun v d => (d <<< 64) ||| v.setWidth 1024) 0

/-- The copies of a core without one of them. -/
def withoutCopy (s : State) (core n : Nat) : State :=
  s.setCore core { s.core core with copies := (s.core core).copies.filter (fun c => c.id ≠ n) }

/-- Copy c of a core is the one with its number, and it has not stopped or ended. -/
def running (s : State) (core : Nat) (c : Copy) : Prop :=
  (s.core core).copies.find? (fun x => x.id = c.id) = some c ∧ c.stop = none ∧ c.ended = false

/-- The check of the n bytes of copy c's element at an address by its copy observer: one access where the element is aligned,
and otherwise one for each byte (R233); the domain address of each byte. -/
def copyCheck (s : State) (core : Nat) (c : Copy) (acc : Acc) (n : Nat) (a : Int) : Except Trap (List Nat) :=
  s.checkBytes (s.copyWho core c) acc (BitVec.ofInt 64 a) n

/-- What that check is, byte by byte. -/
def ChecksEachByte : Prop :=
  ∀ (s : State) (w : Who) (acc : Acc) (va : Word) (n : Nat), 0 < n →
    let byte (i : Nat) : Except Trap Nat := s.check w acc .vector 1 (va + BitVec.ofNat 64 i)
    (va.toNat % n = 0 →
      (∀ t, s.check w acc .vector n va = .error t → s.checkBytes w acc va n = .error t) ∧
      (∀ pa, s.check w acc .vector n va = .ok pa → s.checkBytes w acc va n = .ok ((List.range n).map (pa + ·)))) ∧
    (va.toNat % n ≠ 0 →
      (∀ i t, i < n → byte i = .error t → (∀ j < i, ∃ pa, byte j = .ok pa) →
        s.checkBytes w acc va n = .error ⟨t.cause, va⟩) ∧
      (∀ l : List Nat, l.length = n → (∀ i < n, byte i = .ok (l.getD i 0)) → s.checkBytes w acc va n = .ok l))

/-- Where copy c of a core has stopped at an address, with nothing more moved (R234). -/
def StoppedFor (s t : State) (core : Nat) (c : Copy) (a : Word) : Prop :=
  t.mem = s.mem ∧ ∃ c', c'.id = c.id ∧ (t.core core).copies.find? (fun x => x.id = c.id) = some c' ∧ c'.done = c.done ∧
    c'.stop = some ⟨a, c.least⟩

/-- Where element e of copy c has moved (R233). -/
def MovedOne (t : State) (core : Nat) (c : Copy) (e : Nat) : Prop :=
  ∃ c', (t.core core).copies.find? (fun x => x.id = c.id) = some c' ∧ c'.done = insertNat c.done e ∧ c'.desc = c.desc ∧
    c'.stop = none

/-- The element a copy moves next: the least of a shaped copy, one of those left otherwise. -/
def NextElement (c : Copy) (e : Nat) : Prop :=
  c.done.Pairwise (· < ·) → (∀ x ∈ c.done, inBox c.desc x) → inBox c.desc e ∧ e ∉ c.done ∧
    (ctlOf c.desc 4 1 = 1 → ∀ x, inBox c.desc x → x ∉ c.done → e ≤ x)

/-- The value of an element of a converting copy in its new format, its flags and the residues after it (R153, R154): one
rounding, or with noise shaping a step of R145 on its row of residues. -/
def convertsTo (c : Copy) (f g : BitVec 3) (e : Nat) (x : Word) : Word × Flags × QuantState :=
  if ctlOf c.desc 4 1 = 1 then
    let q := c.q.boundary e
    let r := axisRow q.qaxis e
    let (v, fl, n1, n2) := quantStep (bankFormat g) c.frm (decide (ctlOf c.desc 5 1 = 1)) ((bankFormat f).decode false x)
      (q.prev1[r]?.getD 0) (q.prev2[r]?.getD 0) 127
    (v, fl, { q with prev1 := q.prev1.setIfInBounds r n1, prev2 := q.prev2.setIfInBounds r n2 })
  else
    let v := convert (bankFormat g) (bankFormat f) c.frm false x
    (v.1, v.2, c.q)

/-- The value of n bytes from a domain address, the lowest first, for a party of a core. -/
def valueAt (s : State) (c : Option Nat) (pa n : Nat) : Nat :=
  (List.range n).foldr (fun i v => (Memory.get s.mem (s.home c (pa + i))).toNat + 256 * v) 0

end Sys2Proof.Spec

/-- R229 to R231: `tcopy` at a misaligned descriptor is 0x04; fields outside R229's limits, or spans that meet, are 0x33;
addresses outside what translation accepts are 0x32; with sixteen copies outstanding the hart waits; otherwise the copy begins
with the descriptor as read and `x[rd]` is the number of elements it writes. A copy between banks of two formats (R232) that is no single row from coordinate 0 is 0x33 as well; one that passes its checks converts. When a copy converts and what
its further checks are (`State.converts`, `State.copyCause`) is the model's reading of R232 (assumption log 45). -/
def Sys2Proof.Spec.CopiesStartAsTheirDescriptorSays : Prop :=
  ∀ (s : State) (rd rs1 : BitVec 5) (scope : BitVec 3), isCtx s.cur = true → scope.toNat ≤ 4 →
    let a := s.x rs1
    let out := exec (.tcopy rd rs1 scope) s
    (a.toNat % 128 ≠ 0 → out = takeTrap ⟨0x04, a⟩ s) ∧
    (∀ t, a.toNat % 128 = 0 → s.loadWords a 16 = .error t → out = takeTrap t s) ∧
    (∀ l u, a.toNat % 128 = 0 → s.loadWords a 16 = .ok (l, u) →
      let d := descOf l
      (¬ legalDesc d → out = takeTrap ⟨0x33, a⟩ s) ∧
      (legalDesc d → u.converts u.who d = none →
        (ctlOf d 4 1 = 1 ∨ spansMeet d → out = takeTrap ⟨0x33, a⟩ s) ∧
        (ctlOf d 4 1 = 0 → ¬ spansMeet d →
          (¬ addressesOk d → out = takeTrap ⟨0x32, a⟩ s) ∧
          (addressesOk d → 16 ≤ s.copiesOf s.cur → out = .next (stalled s .copies)) ∧
          (addressesOk d → s.copiesOf s.cur < 16 →
            ∃ t c, out = .next t ∧ t.mem = u.mem ∧ t.me.pc = s.me.pc + 4 ∧
              t.myCore.copies = u.myCore.copies ++ [c] ∧ c.desc = d ∧ c.descAt = a ∧ c.slot = slotOf s.cur ∧
              c.hgen = u.me.hgen ∧ c.tr = u.trOf s.cur ∧ c.gang = u.gangOf s.cur ∧ c.scope = scope.toNat ∧ c.done = [] ∧ c.chunks = [] ∧ c.stop = none ∧
              c.ended = false ∧ c.conv = none ∧
              (∀ n : Nat, (ctlOf d 2 1 = 0 → n = boxTotal d - field d 112 8) →
                (ctlOf d 2 1 = 1 → ∃ m : List Nat, m.Nodup ∧ m.length = n ∧ ∀ e, e ∈ m ↔ inBox d e ∧ inTensor d e) →
                rd ≠ 0 → t.x rd = BitVec.ofNat 64 n)))) ∧
      (∀ v, legalDesc d → u.converts u.who d = some v →
        ((field d 68 2 ≠ 1 ∨ field d 70 2 ≠ 1 ∨ field d 52 4 ≠ 0 ∨ field d 40 4 < field d 64 4 ∨
          (ctlOf d 4 1 = 1 ∧ (field d 112 8 ≠ 0 ∨ v.fsrc.toNat < 2 ∨ 4 < v.fsrc.toNat ∨
            field d 88 4 / 2 ^ 18 % 4 + 5 ≠ v.fdst.toNat))) → out = takeTrap ⟨0x33, a⟩ s) ∧
        (∀ x, u.copyCause u.who d = some x → out = takeTrap ⟨x, a⟩ s) ∧
        (u.copyCause u.who d = none → s.copiesOf s.cur < 16 → ∃ t c, out = .next t ∧ t.mem = u.mem ∧
          t.myCore.copies = u.myCore.copies ++ [c] ∧ c.desc = d ∧ c.conv = some (v.fsrc, v.fdst) ∧ c.frm = u.frm)))

/-- R153, R154, R230, R232 to R236: a running copy moves one of the elements it has not moved, or waits for room in a
host-visible window (R208): one in range from its source to its destination, in one access where it is aligned and byte by byte
where it is not, out of range the fill to the tile, or nothing to the tensor; a converting copy takes the element from its
packed place, converts it, or shapes it in rising order, and puts it in its packed place; an access that fails stops it at the
least element not written. A chunk all of whose elements are written sets its bit. With every element moved and every chunk's
bit set, the flags reach the issuing hart and the copy ends with its post, an addition or a join; a post that fails stops it.
A stopped copy writes `fidx` and `faddr`, makes no post, and gives its hart, or the hart's Lodestar, 0x34. The elements of a
converting copy follow the model's reading of R232 (assumption log 45). -/
def Sys2Proof.Spec.CopiesMoveEveryElementOnce : Prop :=
  ChecksEachByte ∧
  (∀ (s : State) (core : Nat) (c : Copy), running s core c → c.conv = none → c.left ≠ 0 → Desc.shape c.desc = false →
    s.overfull = false → s.cap1 ≤ 0x3000000000 → Memory.wf s.mem = true →
    ∃ e, NextElement c e ∧
      let d := c.desc
      let out := exec (.copyElementMove core c.id) s
      let w := s.copyWho core c
      let n := eBytes d
      let src := if ctlOf d 2 1 = 1 then tileAddr d e else tensorAddr d e
      let dst := if ctlOf d 2 1 = 1 then tensorAddr d e else tileAddr d e
      let s1 := { s with free := s.free + 1 }
      let s2 := s1.cache w .load (BitVec.ofInt 64 src)
      let stops (x : Trap) (a : Int) : Prop := x.cause ≠ 0xB0 → x.cause ≠ 0xD5 →
        ∃ t, out = .next t ∧ StoppedFor s t core c (BitVec.ofInt 64 a)
      let fits (pas : List Nat) : Bool :=
        s.linesFit ((pas.filter (fun pa => s.region w.core pa = .tier)).map (· / 64))
      let stored (pas : List Nat) (byte : Nat → Byte) : Prop :=
        (fits pas = false → out = .next s) ∧
        (fits pas = true → ∃ t, out = .next t ∧ MovedOne t core c e ∧
          (∀ i < n, Memory.get t.mem (s.home w.core (pas.getD i 0)) = byte i) ∧
          (∀ x, (∀ i < n, x ≠ s.home w.core (pas.getD i 0)) → Memory.get t.mem x = Memory.get s.mem x))
      (inTensor d e →
        (∀ x, copyCheck s1 core c .load n src = .error x → stops x src) ∧
        (∀ ps x, copyCheck s1 core c .load n src = .ok ps → copyCheck s2 core c .store n dst = .error x → stops x dst) ∧
        (∀ ps pd, copyCheck s1 core c .load n src = .ok ps → copyCheck s2 core c .store n dst = .ok pd →
          stored pd (fun i => Memory.get s.mem (s.home w.core (ps.getD i 0))))) ∧
      (¬ inTensor d e → ctlOf d 2 1 = 1 → ∃ t, out = .next t ∧ MovedOne t core c e ∧ t.mem = s.mem) ∧
      (¬ inTensor d e → ctlOf d 2 1 = 0 →
        (∀ x, copyCheck s1 core c .store n dst = .error x → stops x dst) ∧
        (∀ pd, copyCheck s1 core c .store n dst = .ok pd →
          stored pd (fun i => BitVec.ofNat 8 (field d 80 8 / 256 ^ i))))) ∧
  (∀ (s : State) (core : Nat) (c : Copy) (f g : BitVec 3), running s core c → c.conv = some (f, g) → c.left ≠ 0 →
    s.overfull = false →
    ∃ e, NextElement c e ∧
      let d := c.desc
      let out := exec (.copyElementMove core c.id) s
      let w := s.copyWho core c
      let s1 := { s with free := s.free + 1 }
      let tensor := BitVec.ofInt 64 (tensorAddr d 0)
      let tile := BitVec.ofInt 64 (tileAddr d 0)
      let src := packedAt (if ctlOf d 2 1 = 1 then tile else tensor) f e
      let dst := packedAt (if ctlOf d 2 1 = 1 then tensor else tile) g e
      let reads := s1.checkElemBy w .load 1 (fun _ => true) src
      let writes := s1.checkElemBy w .store 1 (fun _ => true) dst
      (∀ x, reads = .error x → x.cause ≠ 0xB0 → x.cause ≠ 0xD5 → ∃ t, out = .next t ∧ StoppedFor s t core c src.addr) ∧
      (∀ ps x, reads = .ok ps → writes = .error x → x.cause ≠ 0xB0 → x.cause ≠ 0xD5 →
        ∃ t, out = .next t ∧ StoppedFor s t core c dst.addr) ∧
      (∀ ps pd, reads = .ok ps → writes = .ok pd →
        let v := convertsTo c f g e (s1.readElemBy w.core src ps)
        let u := ((s1.cache w .load src.addr).cache w .store dst.addr).writeElem w dst pd v.1
        (s1.elemFull w pd = true → out = .next s) ∧
        (s1.elemFull w pd = false → u.overfull = false → ∃ t c', out = .next t ∧ t.mem = u.mem ∧ MovedOne t core c e ∧
          (t.core core).copies.find? (fun x => x.id = c.id) = some c' ∧ c'.flags = c.flags ||| v.2.1 ∧ c'.q = v.2.2))) ∧
  (∀ (s : State) (core : Nat) (c : Copy) (k : Nat) (rest : List Nat), running s core c → c.chunksDue = k :: rest →
    ∃ t, exec (.chunkComplete core c.id) s = .next t ∧ t.mem = s.mem ∧
      ∀ m n, m < 8 → n < 64 → ((t.core core).cmask[m]?.getD 0).getLsbD n =
        (((s.core core).cmask[m]?.getD 0).getLsbD n || (m = ctlOf c.desc 7 3 && n = ctlOf c.desc 10 6 + k))) ∧
  (∀ (s : State) (core : Nat) (c : Copy), running s core c → c.left = 0 → c.chunksDue = [] → s.overfull = false →
    c.slot < 8 →
    let out := exec (.copyComplete core c.id) s
    let w := s.copyWho core c
    let k := ctxKey core c.slot
    let post := field c.desc 96 8
    let gone : Bool := decide ((s.hart k).hgen ≠ c.hgen) || (s.core core).fenced
    let ended (t : State) : Prop := ∀ x ∈ (t.core core).copies, x.id ≠ c.id
    let flagged (t : State) : Prop :=
      (gone = true → (t.hart k).fcsr = (s.hart k).fcsr) ∧
      (gone = false → (s.hart k).areaNow = none → (t.hart k).fcsr = (s.hart k).fcsr ||| c.flags.setWidth 8)
    let stopped : Prop := ∃ t c', out = .next t ∧ flagged t ∧ c'.flags = 0 ∧
      (t.core core).copies.find? (fun x => x.id = c.id) = some c' ∧ c'.stop = some ⟨BitVec.ofNat 64 post, boxTotal c.desc⟩
    (c.flags = 0 → post = 0 → out = .next (withoutCopy s core c.id)) ∧
    (∀ area, c.flags ≠ 0 → gone = false → (s.hart k).areaNow = some area → area.toNat % 4096 = 0 → post = 0 →
      Memory.wf s.mem = true → (s.region none (area.toNat + 0x108) ≠ .tier ∨
        s.linesFit (linesOf (area.toNat + 0x108) 8) = true) →
      ∃ t, out = .next t ∧ ended t ∧ (t.hart k).fcsr = (s.hart k).fcsr ∧ ∀ x, Memory.get t.mem x =
        if x = area.toNat + 0x108 then Memory.get s.mem x ||| c.flags.setWidth 8 else Memory.get s.mem x) ∧
    (∀ v l, c.flags = 0 → post ≠ 0 → post % 128 = 0 → ctlOf c.desc 3 1 = 1 → v.overfull = false →
      (withoutCopy s core c.id).joinTake w (BitVec.ofNat 64 post) = .ok (1, v) →
      v.agentReads w (BitVec.ofNat 64 (post + 64)) 8 = .ok l →
      let r := TaskRec.ofWords l
      (r.code = 0 → out = .next v) ∧
      (r.code ≠ 0 → legalRecord r → (s.core core).absent = false → (s.core core).deque.length < 64 →
        ¬ dequeIsFull (s.core core) →
        out = .next (v.setCore core { v.core core with deque := (s.core core).deque ++ [r] }))) ∧
    (c.flags = 0 ∨ gone = true ∨ (s.hart k).areaNow = none →
      (post = 0 → ∃ t, out = .next t ∧ flagged t ∧ ended t ∧ t.mem = s.mem) ∧
      (post ≠ 0 → ctlOf c.desc 3 1 = 1 → post % 128 ≠ 0 → stopped) ∧
      (post ≠ 0 → (ctlOf c.desc 3 1 = 0 ∨ post % 128 = 0) →
        (∀ x, s.check w .amo .atomic 8 (BitVec.ofNat 64 post) = .error x → x.cause ≠ 0xB0 → x.cause ≠ 0xD5 → stopped) ∧
        (∀ pa, s.check w .amo .atomic 8 (BitVec.ofNat 64 post) = .ok pa → Memory.wf s.mem = true →
          let kept := s.home w.core pa
          let old := bytesAt s kept 8
          let full : Prop := s.region w.core pa = .tier ∧ s.linesFit [pa / 64] = false
          (ctlOf c.desc 3 1 = 0 → full → out = .next s) ∧
          (ctlOf c.desc 3 1 = 0 → ¬ full → ∃ t, out = .next t ∧ flagged t ∧ ended t ∧
            storedAt s t.mem kept 8 (old + field c.desc 104 8)) ∧
          (ctlOf c.desc 3 1 = 1 → 2 ≤ old → ¬ full → ∃ t, out = .next t ∧ flagged t ∧ ended t ∧
            storedAt s t.mem kept 8 (old - 1)) ∧
          (ctlOf c.desc 3 1 = 1 → old = 0 → s.eventRoom (clusterOfCore core) = true → core < 432 →
            ∃ t, out = .next t ∧ flagged t ∧ ended t ∧ t.mem = s.mem ∧
              ∃ e, told s t (clusterOfCore core) e ∧ e.kind = 1 ∧ e.code = 0x57 ∧ e.val = BitVec.ofNat 64 post))))) ∧
  (∀ (s : State) (core a b : Nat) (c : Copy) (p : CopyStop), c.stop = some p → c.ended = false → c.slot < 8 → core < 432 →
    (s.core core).copies.find? (fun x => x.id = c.id) = some c →
    let k := ctxKey core c.slot
    let w := s.copyWho core c
    let gone : Prop := (s.hart k).hgen ≠ c.hgen ∨ (s.core core).fenced = true
    s.check w .store .vector 8 (c.descAt + 112) = .ok a → s.check w .store .vector 8 (c.descAt + 120) = .ok b →
    let v := (s.writePa w a p.fidx 8).writePa w b p.faddr.toNat 8
    (v.overfull = true → exec (.copyFault core c.id) s = .next s) ∧
    (v.overfull = false → ¬ gone → (s.hart k).ctxState = 1 → (s.hart k).deferred.length < 32 →
      ∃ t, exec (.copyFault core c.id) s = .next t ∧ t.mem = v.mem ∧
        (t.hart k).deferred = (s.hart k).deferred ++ [⟨0x34, c.descAt⟩] ∧ (∀ x ∈ (t.core core).copies, x.id ≠ c.id)) ∧
    (v.overfull = false → gone → s.eventRoom (clusterOfCore core) = true →
      ∃ t, exec (.copyFault core c.id) s = .next t ∧ t.mem = v.mem ∧ (t.hart k).deferred = (s.hart k).deferred ∧
        (∀ x ∈ (t.core core).copies, x.id ≠ c.id) ∧
        told s t (clusterOfCore core) (causeEvent core c.slot 0x34 c.descAt)))

namespace Sys2Proof.Spec

/-! ### Streams (R30, R239 to R241) -/

/-- Fields of a stream pattern: a pitch, a count, the width code. -/
def pitchOf (p : BitVec 512) (k : Nat) : Int := (BitVec.ofNat 64 (p.toNat / 2 ^ (64 * (k + 1)))).toInt
def countOf (p : BitVec 512) (k : Nat) : Nat := p.toNat / 2 ^ (256 + 32 * k) % 2 ^ 32
def legalPattern (p : BitVec 512) : Prop :=
  (∀ k < 3, 1 ≤ countOf p k ∧ countOf p k ≤ 2 ^ 24) ∧ p.toNat / 2 ^ 354 = 0

/-- The exact address of element m of a pattern (R239). -/
def elementAddr (p : BitVec 512) (m : Nat) : Int :=
  (p.toNat % 2 ^ 64 : Nat) + (m % countOf p 0 : Nat) * pitchOf p 0 +
    (m / countOf p 0 % countOf p 1 : Nat) * pitchOf p 1 + (m / (countOf p 0 * countOf p 1) : Nat) * pitchOf p 2

/-- Stream k of a hart, and whether it is active on register r. -/
def streamOf (h : Hart) (k : Nat) : Stream := h.strm[k]?.getD {}
def streams (h : Hart) (k r : Nat) : Prop :=
  k < 4 ∧ h.strmctl.getLsbD (16 + k) = true ∧ h.strmctl.toNat / 2 ^ (4 * k) % 16 = r

/-- `s` with the elements below `vl` of each register of a list that streams replaced by those of its strip, and no stream
active. -/
def unstreamed (s : State) (regs : List Nat) : State :=
  let fill (t : State) (r : Nat) : State :=
    match s.me.streamAt r with
    | none => t
    | some k => (List.range s.me.vec.vl).foldl (fun t i =>
        t.setVelem r s.sew i (look (streamOf s.me k).strip ((streamOf s.me k).pos + i) 0)) t
  let t := regs.foldl fill s
  t.setHart t.cur { t.me with strmctl := t.me.strmctl &&& 0xFFFF }

end Sys2Proof.Spec

/-- R30, R239, R240, R241: `strm.set` checks its alignment (0x04), the pattern's limits (0x33) and addresses (0x32), loads
the pattern with position 0, and activates its stream, unless a lower one streams the same register. A refill fetches an
element ahead; an element past the last is 0. An element-wise instruction that reads streaming registers of its width
computes as if they held the strip, and each stream it read advances by `vl`; another width is 0x16, and a streaming
destination 0x02. The model's choices: `strm.set` needs lanes and looks at neither `vtype` nor `vstart` (assumption log 46);
a register field that still holds the reset value 0 becomes 1 (90). -/
def Obligations.StreamsFeedTheirRegisters : Prop :=
  (∀ (s : State) (rs1 : BitVec 5) (k : BitVec 2),
    let a := s.x rs1
    let out := exec (.strmSet rs1 k) s
    (s.lanes s.cur = 0 → out = takeTrap (illegalTrap s) s) ∧
    (s.lanes s.cur ≠ 0 → a.toNat % 64 ≠ 0 → out = takeTrap ⟨0x04, a⟩ s) ∧
    (∀ l u, s.lanes s.cur ≠ 0 → a.toNat % 64 = 0 → s.loadWords a 8 = .ok (l, u) →
      let p : BitVec 512 := (descOf l).setWidth 512
      let ok : Prop := ∀ m, m < countOf p 0 * countOf p 1 * countOf p 2 → acceptable (elementAddr p m)
      (¬ legalPattern p → out = takeTrap ⟨0x33, a⟩ s) ∧
      (legalPattern p → ¬ ok → out = takeTrap ⟨0x32, a⟩ s) ∧
      (legalPattern p → ok → ∃ t, out = .next t ∧ t.mem = u.mem ∧ t.me.pc = s.me.pc + 4 ∧ (∀ r, t.x r = u.x r) ∧
        streamOf t.me k.toNat = { pat := p, pos := 0, tr := s.trOf s.cur, gang := s.gangOf s.cur, strip := [] } ∧
        (∀ r, r = max 1 (u.me.strmctl.toNat / 2 ^ (4 * k.toNat) % 16) →
          ((∀ j < k.toNat, ¬ streams u.me j r) → t.me.strmctl.getLsbD (16 + k.toNat) = true) ∧
          ((∃ j < k.toNat, streams u.me j r) → t.me.strmctl.getLsbD (16 + k.toNat) = false))))) ∧
  (∀ (s : State) (h k i r : Nat), isCtx h = true → streams (s.hart h) k r →
    let t := streamOf (s.hart h) k
    let m := t.pos + i
    (t.strip.all (fun e => e.1 ≠ m) = true → t.total ≤ m → k < 4 → ∃ u, exec (.streamRefill h k i) s = .next u ∧
      look (streamOf (u.hart h) k).strip m 1 = 0 ∧ u.mem = s.mem) ∧
    (∀ v, t.strip.all (fun e => e.1 ≠ m) = true → m < t.total → legalPattern t.pat →
      s.agentRead (whoCopy h t.tr t.gang false) (BitVec.ofInt 64 (elementAddr t.pat m)) (t.width / 8) = .ok v →
      ∃ u, exec (.streamRefill h k i) s = .next u ∧ u.mem = s.mem ∧
        look (streamOf (u.hart h) k).strip m 0 = BitVec.ofNat 64 v)) ∧
  (∀ (s : State) (i : Instr) (F : ElemForm) (vd : Nat) (reads : List Nat), i.wf = true →
    (intForm s i = some F ∨ floatForm s i = some F ∨ compareForm s i = some F) → F.regs = vd :: reads →
    s.lanes s.cur ≠ 0 → s.vill = false → F.ok = true → s.me.vec.vstart = 0 → s.me.arrive = none →
    ((∃ k, streams s.me k vd) → exec i s = takeTrap (illegalTrap s) s) ∧
    (∀ k, s.me.streamAt vd = none → (∃ r ∈ reads, s.me.streamAt r = some k) → (streamOf s.me k).width ≠ s.sew →
      (∀ j, j < k → (∃ r ∈ reads, s.me.streamAt r = some j) → (streamOf s.me j).width = s.sew) →
      exec i s = takeTrap ⟨0x16, BitVec.ofNat 64 k⟩ s) ∧
    (s.me.streamAt vd = none →
      (∀ r ∈ reads, ∀ k, s.me.streamAt r = some k → (streamOf s.me k).width = s.sew ∧
        ∀ j < s.me.vec.vl, ∃ e ∈ (streamOf s.me k).strip, e.1 = (streamOf s.me k).pos + j) →
      ∃ t u, exec i s = .next t ∧ exec i (unstreamed s reads) = .next u ∧ t.mem = s.mem ∧
        (∀ q, q < 32 → t.vreg q = u.vreg q) ∧ t.me.fcsr = u.me.fcsr ∧ t.me.pc = s.me.pc + 4 ∧
        ∀ k < 4, (streamOf t.me k).pos = (streamOf s.me k).pos +
          (if reads.any (fun r => s.me.streamAt r = some k) then s.me.vec.vl else 0)))

/-- R229 to R236: copies from their descriptor to their end. -/
def Obligations.CopiesStartAndMoveEveryElement : Prop :=
  Sys2Proof.Spec.CopiesStartAsTheirDescriptorSays ∧ Sys2Proof.Spec.CopiesMoveEveryElementOnce

namespace Sys2Proof.Spec

/-! ### Graphics instructions (R155 to R170) -/

/-- The `vtype` formats a graphics instruction takes (R155): FP32 at e32, INT at a width. -/
def isFp32 (s : State) : Bool := decide (s.fmtCode = 2 ∧ s.sew = 32)
def isIntAt (s : State) (w : Nat) : Bool := decide (s.fmtCode = 0 ∧ s.sew = w)

/-- Registers r to r + n − 1. -/
def regGroup (r : BitVec 5) (n : Nat) : List Nat := (List.range n).map (fun k => r.toNat + k)

/-- Byte c of a word. -/
def byteOf (v : Word) (c : Nat) : Int := (v.toNat / 2 ^ (8 * c) % 256 : Nat)
/-- n bits of a word from `lo`. -/
def codeOf (v : Word) (lo n : Nat) : Nat := v.toNat / 2 ^ lo % 2 ^ n

/-- The value of a blend factor (R169). -/
def factorValue (code : Nat) (sc dc sA dA : Int) : Int :=
  [0, 255, sc, 255 - sc, dc, 255 - dc, sA, 255 - sA, dA, 255 - dA].getD code 0

/-- A blend-state word without reserved codes and bits (R169). -/
def blendWordOk (w : Word) : Prop :=
  codeOf w 0 4 ≤ 9 ∧ codeOf w 4 4 ≤ 9 ∧ codeOf w 8 3 ≤ 4 ∧ codeOf w 11 1 = 0 ∧ codeOf w 12 4 ≤ 9 ∧ codeOf w 16 4 ≤ 9 ∧
    codeOf w 20 3 ≤ 4 ∧ codeOf w 23 1 = 0 ∧ codeOf w 28 36 = 0

/-- One blended channel (R170). -/
def blended (w src dst : Word) (ch : Nat) : Int :=
  let at_ := if ch = 3 then 12 else 0
  let sc := byteOf src ch
  let dc := byteOf dst ch
  let f (lo : Nat) : Int := factorValue (codeOf w (at_ + lo) 4) sc dc (byteOf src 3) (byteOf dst 3)
  let ps := sc * f 0
  let pd := dc * f 4
  let mix (n : Int) : Int := between 0 255 ((n + 127) / 255)
  if codeOf w (24 + ch) 1 = 0 then dc
  else match codeOf w (at_ + 8) 3 with
    | 0 => mix (ps + pd)
    | 1 => mix (ps - pd)
    | 2 => mix (pd - ps)
    | 3 => min sc dc
    | _ => max sc dc

/-- The graphics instructions as forms. What a texture sample, a search and a sample index are stands in the functions of
the model; `GraphicsResultsAreAsDefined` says what those give. -/
def gfxForm (s : State) : Instr → Option ElemForm
  | .vtex vd vs2 rs1 vm => some {
      vm := vm, regs := regGroup vd 4 ++ regGroup vs2 3, ok := true, late := isFp32 s
      issue := match s.texDesc (s.x rs1) with
        | .ok _ => none
        | .error e => some e
      op := fun i t =>
        let v (k : Nat) : FVal := fp32.decode (t.velem (vs2.toNat + k) 32 i).toNat
        match s.texDesc (s.x rs1) with
        | .error e => .trap e
        | .ok d =>
          match t.sample d (v 0) (v 1) (v 2) with
          | .error e => .trap e
          | .ok (l, read) => .done ((t.cacheAll (s.x rs1 :: read)).setGroup vd.toNat 32 i l) }
  | .vrayq vd vs2 rs1 vm => some {
      vm := vm, regs := regGroup vd 4 ++ regGroup vs2 8, ok := true, late := isFp32 s
      issue := if (s.x rs1).toNat % 128 = 0 then none else some ⟨0x71, s.x rs1⟩
      op := fun i t =>
        let f := t.raySearch false (s.x rs1) (t.ray vs2.toNat i)
        match f.fault with
        | some e => .trap e
        | none => .done ((t.cacheAll f.seen).setGroup vd.toNat 32 i (match f.best with
          | some h => [h.tb, h.prim, h.ub, h.vb]
          | none => [0x7F800000, 0xFFFFFFFF, 0, 0])) }
  | .vrayo vd vs2 rs1 vm => some {
      vm := vm, regs := regGroup vd 1 ++ regGroup vs2 8, ok := true, late := isFp32 s
      issue := if (s.x rs1).toNat % 128 = 0 then none else some ⟨0x71, s.x rs1⟩
      op := fun i t =>
        let f := t.raySearch true (s.x rs1) (t.ray vs2.toNat i)
        match f.best, f.fault with
        | some _, _ => .done ((t.cacheAll f.seen).setVelem vd.toNat 32 i 1)
        | none, some e => .trap e
        | none, none => .done ((t.cacheAll f.seen).setVelem vd.toNat 32 i 0) }
  | .vsobol vd vs2 rs1 vm => some {
      vm := vm, regs := regGroup vd 1 ++ regGroup vs2 2, ok := true, late := isFp32 s || isIntAt s 32
      op := fun i t => .done (t.setVelem vd.toNat 32 i (BitVec.ofNat 64 (fp32.round 0 false (.fin false
        (ksInt ((t.velem vs2.toNat 32 i).setWidth 32) ((t.velem (vs2.toNat + 1) 32 i).setWidth 32)
          ((s.x rs1).setWidth 8) / 2 ^ 24 : Rat))).1)) }
  | .vvbmin vd vs2 rs1 vm => some {
      vm := vm, regs := [vd.toNat, vs2.toNat], ok := true, late := isIntAt s 64
      op := fun i t =>
        let a := s.x rs1 + t.velem vs2.toNat 64 i
        match t.check t.who .amo .atomic 8 a with
        | .error e => .trap e
        | .ok pa =>
          if t.region t.who.core pa = .tier ∧ t.windowFull pa = true then .wait .window
          else
            let old := t.readPa t.who.core pa 8
            .done (((t.cache t.who .amo a).writePa t.who pa (min old (t.velem vd.toNat 64 i).toNat) 8).setVelem
              vd.toNat 64 i (BitVec.ofNat 64 old)) }
  | .vblend vd vs2 rs1 vm =>
    let w := s.x rs1
    some {
      vm := vm, regs := [vd.toNat, vs2.toNat], ok := true, late := isIntAt s 32
      issue := if blendOk w then none else some ⟨0x72, w⟩
      op := fun i t =>
        let o (ch : Nat) : Int := blended w (t.velem vs2.toNat 32 i) (t.velem vd.toNat 32 i) ch
        .done (t.setVelem vd.toNat 32 i (BitVec.ofInt 64 (o 0 + 256 * o 1 + 65536 * o 2 + 16777216 * o 3))) }
  | _ => none

/-- How many of a form's registers its result takes: the first ones; the others are read. -/
def gfxWrites : Instr → Nat
  | .vtex _ _ _ _ | .vrayq _ _ _ _ => 4
  | _ => 1

/-- A graphics instruction one of whose sources streams at a width that is not its own is 0x16, before its `vtype` is looked
at (R155, R240). -/
def SourceWidthsComeFirst : Prop :=
  ∀ (s : State) (i : Instr) (F : ElemForm) (k : Nat), i.wf = true → gfxForm s i = some F → s.lanes s.cur ≠ 0 →
    s.vill = false → (∀ r ∈ F.regs.take (gfxWrites i), s.me.streamAt r = none) →
    (∃ r ∈ F.regs.drop (gfxWrites i), s.me.streamAt r = some k) → (streamOf s.me k).width ≠ s.sew →
    (∀ j, j < k → (∃ r ∈ F.regs.drop (gfxWrites i), s.me.streamAt r = some j) → (streamOf s.me j).width = s.sew) →
    exec i s = takeTrap ⟨0x16, BitVec.ofNat 64 k⟩ s

/-- A value bounds a real from below, from above: an infinite one leaves it free, or out. -/
def atLeast (v : FVal) (x : Rat) : Prop := v = .inf true ∨ (v.finite = true ∧ v.toRat ≤ x)
def atMost (v : FVal) (x : Rat) : Prop := v = .inf false ∨ (v.finite = true ∧ x ≤ v.toRat)

end Sys2Proof.Spec

/-- The graphics instructions run element by element on their formats, with the check at issue of each (R155, R158, R161,
R163, R164, R167, R168, R170); a stream of another width is found before a wrong `vtype` (R240). -/
def Sys2Proof.Spec.GraphicsInstructionsRunByElement : Prop :=
  Sys2Proof.Spec.RunsElementByElement Sys2Proof.Spec.gfxForm ∧ Sys2Proof.Spec.SourceWidthsComeFirst

/-- What the functions of those instructions give. A blend-state word is legal as R169 has it. The weights of a footprint
sum to 65,536, each texel inside its level; a non-finite coordinate gives zeros and reads nothing (R159). A descriptor that
is accepted is within the limits of R158. The box test passes exactly when a t of the ray lies in the box (R161); a triangle
is hit only within tmin and tmax (R162); a degenerate lane finds nothing (R161). The Sobol points are linear in the bits
of the index over the direction numbers, whose first values are those of R165; a sample is below 1, exact in FP32 (R166). -/
def Sys2Proof.Spec.GraphicsResultsAreAsDefined : Prop :=
  open Sys2Proof Sys2Proof.Machine Sys2Proof.Spec in
  (∀ w, blendOk w = true ↔ blendWordOk w) ∧
  (∀ (d : TexDesc) (l : Nat) (u v : Rat), d.mu ≤ 2 → d.mv ≤ 2 →
    ((d.footprint l u v).map (·.1)).sum = 65536 ∧
    ∀ t ∈ d.footprint l u v, t.1 ≠ 0 ∧ t.2.1 < d.wl l ∧ t.2.2 < d.hl l) ∧
  (∀ (s : State) (d : TexDesc) (u v lod : FVal), u.finite = false ∨ v.finite = false ∨ lod.finite = false →
    s.sample d u v lod = .ok ([0, 0, 0, 0], [])) ∧
  (∀ l d, TexDesc.ofWords l = some d →
    d.base.toNat % 64 = 0 ∧ 1 ≤ d.w ∧ d.w ≤ 16384 ∧ 1 ≤ d.h ∧ d.h ≤ 16384 ∧ 1 ≤ d.levels ∧ d.levels ≤ 15 ∧ d.mu ≤ 2 ∧
      d.mv ≤ 2) ∧
  (∀ (r : Ray) (b : Nat → FVal), r.degenerate = false →
    (r.hitsBox b = true ↔
      (∀ k < 6, (b k).isNan = false) ∧ (∀ a < 3, (b (a + 3)).lt (b a) = false) ∧
      ∃ t : Rat, atLeast r.tmin t ∧ atMost r.tmax t ∧ ∀ a < 3,
        atLeast (b a) ((r.od a).toRat + t * (r.dd a).toRat) ∧ atMost (b (a + 3)) ((r.od a).toRat + t * (r.dd a).toRat))) ∧
  (∀ (r : Ray) (p : Nat → Nat → FVal) (t : FVal) (tb ub vb : Nat), r.triTest p = some (t, tb, ub, vb) →
    t.finite = true ∧ t.lt r.tmin = false ∧ r.tmax.lt t = false ∧ fp32.decode tb = t) ∧
  (∀ (s : State) (any : Bool) (root : Word) (r : Ray), r.degenerate = true →
    s.raySearch any root r = { fault := none, best := none, seen := [] }) ∧
  ((List.range 4).map (fun b => (List.range 5).map (fun k => (sobolDir b (k + 1)).toNat)) =
    [[0x80000000, 0x40000000, 0x20000000, 0x10000000, 0x08000000],
     [0x80000000, 0xC0000000, 0xA0000000, 0xF0000000, 0x88000000],
     [0x80000000, 0xC0000000, 0x60000000, 0x90000000, 0xE8000000],
     [0x80000000, 0xC0000000, 0x20000000, 0x50000000, 0xF8000000]]) ∧
  (∀ b i j, sobol b (i ^^^ j) = sobol b i ^^^ sobol b j) ∧
  (∀ b k, k < 32 → sobol b (1#32 <<< k) = sobolDir b (k + 1)) ∧
  (∀ p n dim, ksInt p n dim < 2 ^ 24)

/-- R155, R158, R159, R161 to R170: the graphics instructions, and what their functions give. -/
def Obligations.GraphicsInstructionsGiveTheirResults : Prop :=
  Sys2Proof.Spec.GraphicsInstructionsRunByElement ∧ Sys2Proof.Spec.GraphicsResultsAreAsDefined

namespace Sys2Proof.Spec

/-! ### The radiance cache (R171 to R185) -/

/-- The radiance unit of a cluster, and `s` with it replaced. -/
def unit (s : State) (g : Nat) : Radiance := (s.cluster g).rc
def withUnit (s : State) (g : Nat) (r : Radiance) : State := s.modCluster g (fun c => { c with rc := r })

/-- What a query reads and writes: its mask bit, its training mask, its groups. -/
structure RcForm where
  vm  : BitVec 1
  mask : Option (BitVec 5)
  vd  : BitVec 5
  vs2 : BitVec 5

/-- The two queries (R178). -/
def rcForm : Instr → Option RcForm
  | .rcQ vd vs2 vm => some ⟨vm, none, vd, vs2⟩
  | .rcQt vd vs2 vs1 vm => some ⟨vm, some vs1, vd, vs2⟩
  | _ => none

/-- The registers a query names. -/
def RcForm.regs (F : RcForm) : List Nat := regGroup F.vd 4 ++ regGroup F.vs2 8 ++ (F.mask.map (·.toNat)).toList

/-- A training lane's sample (R179): rejected, dropped, or last in the ring. -/
def sampled (r : Radiance) (x tg : List Word) : Radiance :=
  let finite (v : Word) : Bool := (fp32.decode (v.toNat % 2 ^ 32)).finite
  if !((x.take (3 + (RcDesc.ofBlock r.desc).naux)).all finite) || !(tg.all finite) then { r with rcrej := r.rcrej + 1 }
  else if 65536 ≤ r.ring.length then { r with rcdrop := r.rcdrop + 1 }
  else { r with ring := r.ring ++ [{
      x := Vector.ofFn (fun i => (x[i.val]?.getD 0).setWidth 32), tg := Vector.ofFn (fun i => (tg[i.val]?.getD 0).setWidth 32) }] }

/-- One element under a pin (R179): evaluated on the pinned slot; sampled if it trains; then the results and the pinned
generation are written. -/
def rcElement (F : RcForm) (p : Pin) (i : Nat) (t : State) : ElemOut :=
  let g := clusterOf t.cur
  let r := unit t g
  let x := (List.range 8).map (fun k => t.velem (F.vs2.toNat + k) 32 i)
  let tg := (List.range 3).map (fun k => t.velem (F.vd.toNat + k) 32 i)
  let y := (RcDesc.ofBlock r.desc).eval (if p.slot = 0 then r.slot0 else r.slot1).toArray
    (x.map (fun v => fp32.decode (v.toNat % 2 ^ 32)))
  let t := match F.mask with
    | some m => if (t.vreg m.toNat).getLsbD i then withUnit t g (sampled r x tg) else t
    | none => t
  .done (t.setGroup F.vd.toNat 32 i (y ++ [p.gen.toNat % 2 ^ 32]))

/-- The pin a query takes when it begins, and the one it goes on with (R180). -/
def newPin (s : State) : Pin :=
  let g := clusterOf s.cur
  let r := unit s g
  ⟨r.epoch, r.cur, if r.cur = 0 then r.gen0 else r.gen1, g⟩
def pinFor (s : State) (p : Pin) : Prop :=
  let g := clusterOf s.cur
  (s.me.vec.vstart = 0 ∧ p = newPin s) ∨
    (s.me.vec.vstart ≠ 0 ∧ s.me.pin = some p ∧ p.epoch = (unit s g).epoch ∧ p.cluster = g)

/-- The query may be issued on these registers; the unit is bound for this hart (R178 step 3). -/
def rcBound (s : State) : Prop :=
  (unit s (clusterOf s.cur)).state = 2 ∧ s.me.rcdesc = (unit s (clusterOf s.cur)).rcbind

/-- The descriptor's limits (R174), on the bytes of the block. -/
def bytesOf (b : BitVec 512) (off n : Nat) : Nat := b.toNat / 2 ^ (8 * off) % 2 ^ (8 * n)
def floatAt (b : BitVec 512) (off : Nat) : FVal := fp32.decode (bytesOf b off 4)
def legalModel (b : BitVec 512) : Prop :=
  bytesOf b 0 8 % 64 = 0 ∧ 1 ≤ bytesOf b 8 1 ∧ bytesOf b 8 1 ≤ 8 ∧ 1 ≤ bytesOf b 9 1 ∧ bytesOf b 9 1 ≤ 3 ∧
    bytesOf b 10 1 ≤ 5 ∧ bytesOf b 11 1 ≤ 1 ∧
    (∀ l < 8, if l < bytesOf b 8 1 then 12 ≤ bytesOf b (12 + l) 1 ∧ bytesOf b (12 + l) 1 ≤ 16 ∧ 1 ≤ bytesOf b (20 + 2 * l) 2
      else bytesOf b (12 + l) 1 = 0 ∧ bytesOf b (20 + 2 * l) 2 = 0) ∧
    ((floatAt b 36).finite = true ∧ 0 < (floatAt b 36).toRat) ∧
    ((floatAt b 40).finite = true ∧ 0 ≤ (floatAt b 40).toRat ∧ (floatAt b 40).toRat < 1) ∧
    ((floatAt b 44).finite = true ∧ 0 ≤ (floatAt b 44).toRat ∧ (floatAt b 44).toRat < 1) ∧
    ((floatAt b 48).finite = true ∧ 0 < (floatAt b 48).toRat) ∧
    1 ≤ bytesOf b 52 2 ∧ bytesOf b 52 2 ≤ 4096 ∧ 1 ≤ bytesOf b 54 2 ∧ bytesOf b 56 8 = 0

/-- A unit after a failure (R173): state 3 with its code, both slots zeroed, no generation and no steps. -/
def failedUnit (r : Radiance) (err : BitVec 4) : Radiance :=
  { r with state := 3, err := err, slot0 := [], slot1 := [], gen0 := 0, gen1 := 0, cur := 0, rcsteps := 0, since := 0, desc := 0, todo := none }

/-- The unit's party for a cluster of a partition. -/
def rcParty (s : State) (g p : Nat) : Who := s.whoAgent p [radianceTlb g]

/-- A unit at work: its cluster belongs to partition p, it is ready, and `go` holds of it. -/
def unitWorks (s : State) (g p : Nat) (go : Radiance → Bool) : Prop :=
  s.ownerOfCluster g = some p ∧ (unit s g).state = 2 ∧ go (unit s g) = true

/-- The unit may begin the work, or goes on with the writes of work of that kind that had to wait (R208). -/
def goesOnWith (r : Radiance) (step ready : Bool) : Bool :=
  match r.todo with
  | some (b, _) => b = step
  | none => ready

/-- A step of the unit whose accesses are those of `f`: done where they succeed; where a write finds no room in a window it
keeps what it has written and goes on later (R208); else a failure that leaves the slots as they were (R181), which an
uncorrectable error also tells Lodestar once there is room (R329, R355). -/
def UnitStep (i : Nat → Instr) (f : Nat → Who → AgM Unit) (go : State → Nat → Radiance → Bool)
    (effect : Radiance → Radiance → Prop) : Prop :=
  ∀ (s : State) (g p : Nat), unitWorks s g p (go s g) →
    match f g (rcParty s g p) s with
    | .ok (_, t) => exec (i g) s = .next t ∧ effect (unit s g) (unit t g)
    | .error x =>
      (x.err = 0 → ∃ t, exec (i g) s = .next t ∧ t.mem = x.s.mem ∧ (unit t g).todo.isSome = true ∧
        (unit t g).state = 2 ∧ (unit t g).rcsteps = (unit s g).rcsteps ∧ (unit t g).wb = (unit s g).wb ∧
        (unit t g).slot0 = (unit s g).slot0 ∧ (unit t g).slot1 = (unit s g).slot1) ∧
      (x.err ≠ 0 → x.s.overfull = false → x.cause ≠ 0xD5 ∨ s.eventRoom g = true →
        ∃ t, exec (i g) s = .next t ∧ t.mem = x.s.mem ∧ (unit t g).state = 3 ∧ (unit t g).err = 1 ∧
          (unit t g).slot0 = (unit s g).slot0 ∧ (unit t g).slot1 = (unit s g).slot1)

end Sys2Proof.Spec

/-- `rc.q` and `rc.qt` (R178 to R180, R185): a source that streams at another width is 0x16 (R240); FP32 at e32 or 0x02; a loading unit holds the hart at issue; an unbound or
other binding is 0x73 with `rcdesc`; a resumption without a pin of the epoch is 0x74 with `vstart`; else every active
element, under one pin, takes its step. -/
def Obligations.RadianceQueriesRunOnOnePin : Prop :=
  open Sys2Proof Sys2Proof.Machine Sys2Proof.Spec in
  ∀ (s : State) (i : Instr) (F : RcForm), i.wf = true → rcForm i = some F →
    (∀ p, vecReady s F.regs → isFp32 s = true → rcBound s → pinFor s p → (∀ j ∈ elementsTo s s.me.vec.vl, s.me.arrive ≠ some j) →
      ∃ t, runElements F.vm (rcElement F p) (elementsTo s s.me.vec.vl) (s.setHart s.cur { s.me with pin := some p }) = .all t ∧
        exec i s = .next (vdone t)) ∧
    (∀ p j t, vecReady s F.regs → isFp32 s = true → rcBound s → pinFor s p → j ∈ elementsTo s s.me.vec.vl →
      s.me.arrive = some j →
      runElements F.vm (rcElement F p) (elementsTo s j) (s.setHart s.cur { s.me with pin := some p }) = .all t →
      t.me.pin = some p ∧ exec i s = .next (stalled (stoppedAt t j) .element)) ∧
    (vecReady s F.regs → isFp32 s = true → (unit s (clusterOf s.cur)).state = 1 → exec i s = .next (stalled s .radiance)) ∧
    (vecReady s F.regs → isFp32 s = true → (unit s (clusterOf s.cur)).state ≠ 1 → ¬ rcBound s →
      exec i s = takeTrap ⟨0x73, s.me.rcdesc⟩ s) ∧
    (vecReady s F.regs → isFp32 s = true → rcBound s → s.me.vec.vstart ≠ 0 → (∀ p, ¬ pinFor s p) →
      exec i s = takeTrap ⟨0x74, s.me.vec.vstart.setWidth 64⟩ s) ∧
    (s.lanes s.cur = 0 ∨ s.vill = true → exec i s = takeTrap (illegalTrap s) s) ∧
    (vecReady s F.regs → isFp32 s = false → exec i s = takeTrap (illegalTrap s) s) ∧
    (∀ k, s.lanes s.cur ≠ 0 → s.vill = false → (∀ r ∈ F.regs.take 4, s.me.streamAt r = none) →
      (∃ r ∈ F.regs.drop 4, s.me.streamAt r = some k) → (streamOf s.me k).width ≠ s.sew →
      (∀ j, j < k → (∃ r ∈ F.regs.drop 4, s.me.streamAt r = some j) → (streamOf s.me j).width = s.sew) →
      exec i s = takeTrap ⟨0x16, BitVec.ofNat 64 k⟩ s)

/-- Binding (R172 to R175). A write of `rcbind` advances the epoch, empties the ring and its counts, and releases the
pins of the cluster; zero unbinds and zeroes the unit, another value begins a load. A load that succeeds leaves both slots
with the P parameters of the image and the header's numbers; one that fails reports its code, in the order of R173. That
slot 0 is the current one after a load is the model's choice (assumption log 97). -/
def Sys2Proof.Spec.RadianceUnitsBindAndLoad : Prop :=
  open Sys2Proof Sys2Proof.Machine Sys2Proof.Spec in
  (∀ (s : State) (g : Nat) (v : Word),
    ∃ t, exec (.rcBind g v) s = .next t ∧
      ((unit t g).rcbind = v ∧ (unit t g).epoch = (unit s g).epoch + 1 ∧ (unit t g).ring = [] ∧ (unit t g).rcdrop = 0 ∧
        (unit t g).rcrej = 0 ∧ (unit t g).err = 0 ∧ (unit t g).ctl = (unit s g).ctl) ∧
      (if v = 0 then (unit t g).state = 0 ∧ (unit t g).slot0 = [] ∧ (unit t g).slot1 = [] ∧ (unit t g).rcgenNow = 0 ∧
          (unit t g).rcsteps = 0
        else (unit t g).state = 1) ∧
      (∀ k p, (t.hart k).pin = some p → p.cluster ≠ g) ∧
      (∀ k, t.hart k = s.hart k ∨ t.hart k = { s.hart k with pin := none }) ∧ t.mem = s.mem) ∧
  (∀ (s : State) (g : Nat), exec (.rcUnbind g) s = exec (.rcBind g 0) s) ∧
  (∀ (s : State) (g : Nat), s.ownerOfCluster g = none ∨ (unit s g).state ≠ 1 → exec (.rcLoadComplete g) s = .next s) ∧
  (∀ (s : State) (g p : Nat), s.ownerOfCluster g = some p → (unit s g).state = 1 → s.overfull = false →
    (∀ u, rcLoad g (rcParty s g p) s = .ok ((), u) →
      exec (.rcLoadComplete g) s = .next u ∧ u.mem = s.mem ∧
      ∃ b h, legalModel b ∧ (RcDesc.ofBlock b).params ≤ 1048576 ∧
        unit u g = { unit s g with
          state := 2, slot0 := (unit u g).slot0, slot1 := (unit u g).slot0, gen0 := h, gen1 := h, cur := 0,
          rcsteps := (unit u g).rcsteps, since := 0, desc := b } ∧
        (unit u g).slot0.length = (RcDesc.ofBlock b).params) ∧
    ((unit s g).rcbind.toNat % 64 ≠ 0 → ∃ t, exec (.rcLoadComplete g) s = .next t ∧ unit t g = failedUnit (unit s g) 1) ∧
    (∀ b u, (unit s g).rcbind.toNat % 64 = 0 → agBlock (rcParty s g p) (unit s g).rcbind 64 s = .ok (b, u) →
      (¬ legalModel b → ∃ t, exec (.rcLoadComplete g) s = .next t ∧ unit t g = failedUnit (unit s g) 2) ∧
      (legalModel b → 1048576 < (RcDesc.ofBlock b).params →
        ∃ t, exec (.rcLoadComplete g) s = .next t ∧ unit t g = failedUnit (unit s g) 3)) ∧
    (∀ x, rcLoad g (rcParty s g p) s = .error x → (x.cause ≠ 0xD5 ∨ s.eventRoom g = true) → ∃ t e, exec (.rcLoadComplete g) s = .next t ∧
      (e = 1 ∨ e = 2 ∨ e = 3) ∧ unit t g = failedUnit (unit s g) e)) ∧
  (∀ d : RcDesc, 1 ≤ d.hidden → ∃ y ∈ d.layers.getLast?, y.bb + 3 = d.params ∧ y.nout = 3) ∧
  (∀ (d : RcDesc) (x : List FVal) (l : Nat),
    ((d.corners x l).map (·.1)).sum = 1 ∧ ∀ c ∈ d.corners x l, 0 < c.1 ∧ c.2 < d.entries l) ∧
  (∀ (d : RcDesc) (w : Array (BitVec 16)) (x : List FVal), (∃ v ∈ x.take (3 + d.naux), v.finite = false) →
    d.eval w x = [0x7FC00000, 0x7FC00000, 0x7FC00000])

/-- Afterglow (R181, R182, R184): with a batch in the ring a step takes the B oldest samples and counts itself; after S
steps, when no pin of the epoch names the other slot, its weights are replaced and it becomes current, the generation one
higher; a write-back that was requested ends with `wb` clear. None of them touches the slot that queries read; steps and
publications wait for a write-back; a unit without such work stands still. The model's readings: a failing access leaves what
its step has written, and steps taken while a publication waits count towards the next (assumption log 35); a step or a
write-back waits at a write that finds no room in a window and goes on there (47); a request sets `wb` whatever its bit 4
holds (56). -/
def Sys2Proof.Spec.AfterglowTrainsPublishesAndWritesBack : Prop :=
  open Sys2Proof Sys2Proof.Machine Sys2Proof.Spec in
  UnitStep Instr.afterglowStep rcStep
    (fun _ _ r => goesOnWith r true (r.train && !r.wb && decide ((RcDesc.ofBlock r.desc).batch ≤ r.ring.length)))
    (fun r u => u = { r with
      ring := if r.todo.isNone then r.ring.drop (RcDesc.ofBlock r.desc).batch else r.ring
      rcsteps := r.rcsteps + 1, since := r.since + 1, todo := none }) ∧
  UnitStep Instr.rcPublish rcPublish
    (fun s g r => r.todo.isNone && !r.wb && decide ((RcDesc.ofBlock r.desc).gsteps ≤ r.since) && !s.slotPinned g (1 - r.cur))
    (fun r u => u.rcgenNow = r.rcgenNow + 1 ∧ u.cur = (if r.cur = 0 then 1 else 0) ∧
      (if r.cur = 0 then u.slot0 = r.slot0 ∧ u.slot1.length = (RcDesc.ofBlock r.desc).params
        else u.slot1 = r.slot1 ∧ u.slot0.length = (RcDesc.ofBlock r.desc).params) ∧
      u.ring = r.ring ∧ u.rcsteps = r.rcsteps ∧ u.state = 2 ∧ u.epoch = r.epoch ∧
      u.since = r.since - (RcDesc.ofBlock r.desc).gsteps) ∧
  UnitStep Instr.rcWriteback rcWriteImage (fun _ _ r => goesOnWith r false r.wb)
    (fun r u => u = { r with wb := false, todo := none }) ∧
  (∀ (s : State) (g : Nat) (v : Word), ∃ t, exec (.rcWritebackRequest g v) s = .next t ∧
    unit t g = { unit s g with train := v.getLsbD 0, tshare := v.extractLsb' 1 3, wb := true }) ∧
  (∀ (s : State) (g : Nat), s.ownerOfCluster g = none ∨ (unit s g).state ≠ 2 →
    exec (.afterglowStep g) s = .next s ∧ exec (.rcPublish g) s = .next s ∧ exec (.rcWriteback g) s = .next s) ∧
  (∀ (s : State) (g : Nat),
    ((unit s g).wb = true → exec (.rcPublish g) s = .next s) ∧
    ((unit s g).todo = none → (unit s g).wb = true → exec (.afterglowStep g) s = .next s) ∧
    ((unit s g).todo = none → (unit s g).wb = false → exec (.rcWriteback g) s = .next s) ∧
    ((unit s g).todo = none →
      (unit s g).train = false ∨ (unit s g).ring.length < (RcDesc.ofBlock (unit s g).desc).batch →
      exec (.afterglowStep g) s = .next s) ∧
    (∀ b l, (unit s g).todo = some (b, l) → exec (.rcPublish g) s = .next s ∧
      (b = false → exec (.afterglowStep g) s = .next s) ∧ (b = true → exec (.rcWriteback g) s = .next s)))

/-- R172 to R175, R181, R182, R184: binding a radiance unit, and Afterglow. -/
def Obligations.RadianceUnitsBindTrainAndPublish : Prop :=
  Sys2Proof.Spec.RadianceUnitsBindAndLoad ∧ Sys2Proof.Spec.AfterglowTrainsPublishesAndWritesBack

namespace Sys2Proof.Spec

/-! ### The graphics agents (R243 to R261) -/

/-- Queue q of agent a. -/
def queueOf (s : State) (a q : Nat) : AgentQueue := (s.agent a).q q

/-- A queue whose entry is complete (R246 step 5): the head has moved on, and a queue whose `en` was cleared in the
meantime is disabled (R244). -/
def served (t : AgentQueue) : AgentQueue :=
  { t with
    head := t.head + 1, entry := none, settled := none, prog := none, posted := false
    state := if t.en then t.state else 0
    err := if t.en then t.err else 0 }

/-- A queue whose entry has been carried out (R246 steps 3 to 5): after a post the head has still to pass it (R367). -/
def finished (e : BitVec 512) (t : AgentQueue) : AgentQueue :=
  if (bytesOf e 1 1).testBit 0 then { t with posted := true } else served t

/-- The common fields of an entry of a type, within the limits of R245, on an agent of a kind. -/
def commonFields (kind ty : Nat) (e : BitVec 512) : Prop :=
  (∀ k < 8, (bytesOf e 1 1).testBit k = true → k = 0 ∨ (k = 1 ∧ kind = 2 ∧ ty = 2) ∨ (k = 2 ∧ kind = 0 ∧ ty ≠ 0)) ∧
    bytesOf e 3 5 = 0 ∧ ((bytesOf e 1 1).testBit 0 = true → bytesOf e 56 8 % 8 = 0)

/-- The types an agent's queue takes (R245, R256). -/
def takesType (kind : Nat) (pres : Bool) (ty : Nat) : Prop :=
  ty = 0 ∨ (kind < 2 ∧ (ty = 1 ∨ ty = 2)) ∨ (2 ≤ kind ∧ ty = if pres then 2 else 1)

/-- The events that serve an entry: its type, the kind of agent, the queue, and what carries the entry out for a party
of a partition from the entry's address and bytes. -/
structure EntryWork where
  kind : Nat
  ty   : Nat
  a    : Nat
  q    : Nat
  body : Who → Nat → Word → BitVec 512 → AgM Unit
def entryWork : Instr → Option EntryWork
  | .agentNop a q => some ⟨0, 0, a, q, fun w _ at_ e => agFinish a q w at_ 1 e⟩
  | .bicubic a q => some ⟨0, 1, a, q, fun w _ at_ e => dicePatch 3 a q w at_ e⟩
  | .bilinear a q => some ⟨0, 2, a, q, fun w _ at_ e => dicePatch 1 a q w at_ e⟩
  | .grid a q => some ⟨1, 1, a, q, fun w _ at_ e => sampleEntry true a q w at_ e⟩
  | .triangle a q => some ⟨1, 2, a, q, fun w _ at_ e => sampleEntry false a q w at_ e⟩
  | .blend a q => some ⟨2, 1, a, q, fun w _ at_ e => blendEntry a q w at_ e⟩
  | .present a q => some ⟨2, 2, a, q, fun w p at_ e => do
      match (((← get).agent a).q q).settled with
      | some c => presentOut a q p w at_ e c
      | none => do
        agCheck ((fieldW e 16).toNat % 8 = 0 && (fieldW e 40).toNat % 64 = 0 && Machine.field e 50 6 = 0) at_
        let b ← agBlock w (fieldW e 40) 64
        agCheck (PresDesc.ofBlock b).isSome at_
        presentRead a q w e⟩
  | _ => none

/-- The queue stands in error at its entry (R248). -/
def inError (s t : State) (a q : Nat) (err : BitVec 4) (addr : Word) : Prop :=
  (queueOf t a q).state = 2 ∧ (queueOf t a q).err = err ∧ (queueOf t a q).faddr = addr ∧
    (queueOf t a q).head = (queueOf s a q).head ∧ (queueOf t a q).tail = (queueOf s a q).tail ∧ (queueOf t a q).entry = none

/-- What an agent did for queue q ends the step: as it is; in error, with its code and address, once Lodestar has room to
hear of an uncorrectable error (R329, R355); or waiting for room in a window with what it has written (R208). -/
def EndsAs (i : Instr) (s : State) (a q : Nat) (r : Except AgFail (Unit × State)) : Prop :=
  match r with
  | .ok (_, t) => exec i s = .next t
  | .error x =>
    (x.err = 0 → ∃ t, exec i s = .next t ∧ t = { x.s with free := t.free, tlb := t.tlb }) ∧
    (x.err ≠ 0 → x.s.overfull = false → x.cause ≠ 0xD5 ∨ x.s.eventRoom (firstServed a) = true →
      ∃ t, exec i s = .next t ∧ inError s t a q x.err x.addr)

/-- What a queue has for its agent (R246, R260, R261): a missed frame; an entry begun, for a PRESENT entry with its output;
or something to begin, an entry to read or a complete frame to output. -/
def presents (t : AgentQueue) (e : BitVec 512) : Prop := t.entry = some e ∧ t.pres = true ∧ bytesOf e 0 1 = 2
def missed (g : Agent) (j : Nat) : Prop := (g.q j).state = 1 ∧ (g.q j).settled = some false ∧ ∃ e, presents (g.q j) e
def inHand (g : Agent) (j : Nat) : Prop :=
  (g.q j).state = 1 ∧ ∃ e, (g.q j).entry = some e ∧
    (presents (g.q j) e → (g.q j).settled.isSome = true ∧ (g.q j).prog.isSome = true)
def toBegin (g : Agent) (j : Nat) : Prop :=
  (g.q j).state = 1 ∧ (((g.q j).entry = none ∧ (g.q j).en = true ∧ (g.q j).head ≠ (g.q j).tail) ∨
    ((g.q j).settled = some true ∧ ∃ e, presents (g.q j) e))

end Sys2Proof.Spec

/-- Agents serve their queues as R245, R246 and R248 say. The event of the entry at the head of the queue whose turn it is
reads the entry, refuses a type or common fields out of limits with `err` 1 or 2, or carries it out; where the post is made,
it lets the head pass the entry, whose turn it is or not (R367); an event of another queue, kind or type does nothing. The
model's choices: an entry waits at a write that finds no room in a window and keeps what it has written (assumption logs 47
and 53). -/
def Obligations.AgentsServeTheEntryAtTheHead : Prop :=
  open Sys2Proof Sys2Proof.Machine Sys2Proof.Spec in
  ∀ (s : State) (i : Instr) (W : EntryWork), i.wf = true → entryWork i = some W →
    let t := queueOf s W.a W.q
    let at_ := t.base + 64 * BitVec.ofNat 64 (t.head.toNat % 2 ^ t.lg)
    let mine : Prop := (s.agent W.a).turn = some W.q
    (s.ownerOfAgent W.a = none ∨ (W.ty ≠ 0 ∧ W.a % 6 / 2 ≠ W.kind) → exec i s = .next s) ∧
    (∀ p, s.ownerOfAgent W.a = some p → (W.ty ≠ 0 → W.a % 6 / 2 = W.kind) →
      let w := s.whoAgent p [agentTlb W.a]
      let s1 := s.setAgent W.a { s.agent W.a with lastQs := (s.agent W.a).lastQs.setIfInBounds t.prio.toNat W.q }
      (∀ e, t.entry = some e →
        (bytesOf e 0 1 ≠ W.ty ∨ t.state ≠ 1 → exec i s = .next s) ∧
        (bytesOf e 0 1 = W.ty → t.state = 1 → t.posted = true →
          exec i s = .next (s.setAgent W.a ((s.agent W.a).setQ W.q (served t)))) ∧
        (bytesOf e 0 1 = W.ty → t.state = 1 → t.posted = false → ¬ mine → exec i s = .next s) ∧
        (bytesOf e 0 1 = W.ty → t.state = 1 → t.posted = false → mine → EndsAs i s W.a W.q (W.body w p at_ e s1))) ∧
      (t.entry = none → ¬ mine → exec i s = .next s) ∧
      (∀ x, t.entry = none → mine → agBlock w at_ 64 s1 = .error x → EndsAs i s W.a W.q (.error x)) ∧
      (∀ e u, t.entry = none → mine → agBlock w at_ 64 s1 = .ok (e, u) →
        (¬ takesType (W.a % 6 / 2) t.pres (bytesOf e 0 1) → EndsAs i s W.a W.q (.error ⟨1, at_, 0, u⟩)) ∧
        (takesType (W.a % 6 / 2) t.pres (bytesOf e 0 1) → bytesOf e 0 1 ≠ W.ty → exec i s = .next s) ∧
        (takesType (W.a % 6 / 2) t.pres W.ty → bytesOf e 0 1 = W.ty → ¬ commonFields (W.a % 6 / 2) W.ty e →
          EndsAs i s W.a W.q (.error ⟨2, at_, 0, u⟩)) ∧
        (takesType (W.a % 6 / 2) t.pres W.ty → bytesOf e 0 1 = W.ty → commonFields (W.a % 6 / 2) W.ty e →
          EndsAs i s W.a W.q (W.body w p at_ e
            (u.setAgent W.a ((u.agent W.a).setQ W.q { (u.agent W.a).q W.q with entry := some e }))))))

/-- What carrying an entry out does to its queue (R246, R251, R255 to R261). A NOP, GRID or TRIANGLE entry completes, or is
posted, the head to pass it with its next event (R367); so does a BLEND entry once its fragments are blended, one with each
event; a patch leaves its records to be emitted, one for each grid, with the grid's place, size and order in its arguments,
and each goes to the next cluster the unit serves once its store has room, the last one completing the entry; a PRESENT entry
settles or waits, and a settled one is output a tile with each event, then, as complete, leaves its frame in `plast`, or as
missed one more in `pmiss`, and completes. A write of `aqctl` or `aqhead` starts, stops or resumes a queue (R244, R248). The
model's choices: a write which finds `en` set starts nothing anew (assumption log 12), which cluster gets the first record
(52), and that enabling and disabling are told apart by the event's name (56). -/
def Sys2Proof.Spec.AgentEntriesCompleteTheirQueue : Prop :=
  open Sys2Proof Sys2Proof.Machine Sys2Proof.Spec in
  (∀ (i : Instr) (W : EntryWork) (w : Who) (p : Nat) (at_ : Word) (e : BitVec 512) (u t : State), i.wf = true →
    entryWork i = some W → W.body w p at_ e u = .ok ((), t) →
    let q := queueOf u W.a W.q
    let done : Prop := { queueOf t W.a W.q with prog := none } = finished e { q with prog := none }
    let count (n : Nat) : Prop := (t.agent W.a).pmiss = (u.agent W.a).pmiss + BitVec.ofNat 64 n
    (W.ty = 0 ∨ W.kind = 1 → done) ∧
    (W.kind = 2 → W.ty = 1 →
      (q.prog = none → ∃ n base, queueOf t W.a W.q = { q with prog := some (0, n, base) }) ∧
      (∀ k n base, q.prog = some (k, n, base) →
        (k < n → queueOf t W.a W.q = { q with prog := some (k + 1, n, base) }) ∧ (n ≤ k → done))) ∧
    (W.kind = 2 → W.ty = 2 →
      (q.settled = none → count 0 ∧ ∃ c, queueOf t W.a W.q = { q with settled := c } ∧
        (c = some false → (fieldW e 32).toNat ≤ (u.agent W.a).pcnt.toNat) ∧
        (c = none → (u.agent W.a).pcnt.toNat < (fieldW e 32).toNat)) ∧
      (∀ c, q.settled = some c →
        (q.prog = none → count 0 ∧ ∃ b, (PresDesc.ofBlock (BitVec.ofNat 512 b)).isSome = true ∧
          queueOf t W.a W.q = { q with prog := some (0, b, 0) }) ∧
        (∀ k b x d, q.prog = some (k, b, x) → PresDesc.ofBlock (BitVec.ofNat 512 b) = some d →
          (k < d.wp / 16 * (d.hp / 16) → count 0 ∧ queueOf t W.a W.q = { q with prog := some (k + 1, b, 0) }) ∧
          (k = d.wp / 16 * (d.hp / 16) → count (if c then 0 else 1) ∧
            queueOf t W.a W.q = { q with prog := some (k + 1, b, 0), plast := if c then fieldW e 8 else q.plast }) ∧
          (d.wp / 16 * (d.hp / 16) < k → count 0 ∧ done)))) ∧
    (W.kind = 0 → W.ty ≠ 0 → (t.agent W.a).emitQ = some W.q ∧ 1 ≤ (t.agent W.a).emit.length ∧
      (t.agent W.a).emit.length ≤ 256 ∧ (queueOf t W.a W.q).head = (queueOf u W.a W.q).head ∧
      ∀ k (hk : k < (t.agent W.a).emit.length), ∃ (base : Word) (cols rows : Nat), 2 ≤ cols ∧ cols ≤ 16 ∧ 2 ≤ rows ∧ rows ≤ 16 ∧
        ((t.agent W.a).emit[0]?.map (fun r => r.arg[0])) = some base ∧
        ((t.agent W.a).emit[k]).arg[0] = base + BitVec.ofNat 64 (8192 * k) ∧
        ((t.agent W.a).emit[k]).arg[1] = BitVec.ofNat 64 (cols + 256 * rows + 65536 * k))) ∧
  (∀ (s : State) (a : Nat), a < 24 →
    let g := s.agent a
    let next := (g.lastCl + 1) % 6
    let cl := 12 * (a / 6) + 6 * (a % 2) + next
    (g.emitQ = none ∨ s.ownerOfAgent a = none → exec (.dicingRecordEmit a) s = .next s) ∧
    (∀ q p r rest, g.emitQ = some q → s.ownerOfAgent a = some p → g.emit = r :: rest →
      ((s.cluster cl).held ≠ [] ∨ (s.cluster cl).moved ≠ [] ∨ s.placeStore cl r = none → exec (.dicingRecordEmit a) s = .next s) ∧
      (∀ u, (s.cluster cl).held = [] → (s.cluster cl).moved = [] → s.placeStore cl r = some u →
        let u := u.setAgent a { u.agent a with emit := rest, lastCl := next }
        (rest ≠ [] → exec (.dicingRecordEmit a) s = .next u) ∧
        (∀ t e, rest = [] → (queueOf u a q).entry = some e →
          agFinish a q (u.whoAgent p [agentTlb a]) (queueOf u a q).entryAt 1 e u = .ok ((), t) →
          exec (.dicingRecordEmit a) s = .next (t.setAgent a { t.agent a with emitQ := none }) ∧
          (q < 8 → queueOf t a q = finished e (queueOf u a q)))))) ∧
  (∀ (s : State) (a q : Nat), (Instr.presentSettle a q).wf = true →
    let t := queueOf s a q
    (s.ownerOfAgent a = none ∨ t.state ≠ 1 ∨ t.settled ≠ none ∨ (∀ e, ¬ presents t e) →
      exec (.presentSettle a q) s = .next s) ∧
    (∀ e p, s.ownerOfAgent a = some p → t.state = 1 → t.settled = none → presents t e →
      let w := s.whoAgent p [agentTlb a]
      (∀ u, agSettle a w e s = .ok (none, u) → exec (.presentSettle a q) s = .next s) ∧
      (∀ c u, agSettle a w e s = .ok (some c, u) →
        ((c = true ∨ (fieldW e 32).toNat ≤ (s.agent a).pcnt.toNat) ∧
          exec (.presentSettle a q) s = .next (u.setAgent a ((u.agent a).setQ q { u.agent a |>.q q with settled := some c })))) ∧
      (∀ x, agSettle a w e s = .error x → EndsAs (.presentSettle a q) s a q (.error x)))) ∧
  (∀ (s : State) (a q : Nat) (v : Word), (Instr.aqctlEnable a q v).wf = true →
    let t := queueOf s a q
    let f : AgentQueue := { t with
      pres := if t.en then t.pres else decide (a % 6 / 2 = 2) && v.getLsbD 1
      prio := v.extractLsb' 2 3, ien := v.getLsbD 5, ihloc := v.extractLsb' 6 18 }
    let into (r : AgentQueue) : State := s.setAgent a ((s.agent a).setQ q r)
    exec (.aqctlEnable a q v) s = .next (into (if t.en then f else
      { f with en := true, head := 0, tail := 0, state := 1, err := 0 })) ∧
    exec (.aqctlDisable a q v) s = .next (into (
      if (t.entry.isSome ∨ (s.agent a).emitQ = some q) ∧ t.state = 1 then { f with en := false }
      else { f with en := false, state := 0, err := 0 })) ∧
    (s.cometWaits a q = true → exec (.aqheadWrite a q v) s = .next s) ∧
    (s.cometWaits a q = false → t.state = 2 → exec (.aqheadWrite a q v) s = .next (into { t with head := v, state := 1, err := 0 })) ∧
    (t.state ≠ 2 → ∃ u, exec (.aqheadWrite a q v) s = .next u ∧ u.agent a = s.agent a ∧ u = { s with agents := u.agents }))

/-- The figures of the agents' work. A dicing rate lies between 1 and 240 (R250), the Bernstein weights sum to 1, the grids
of a patch are at most 256, of 2 to 16 columns and rows (R251); both windings of a triangle cover the same samples with the
same depth (R253); the queue that is served has something to serve: a missed frame before all (R261), else what has begun, else
what is to begin of the highest priority, the queues of one priority in turn (R246). -/
def Sys2Proof.Spec.AgentFiguresKeepTheirBounds : Prop :=
  open Sys2Proof Sys2Proof.Machine Sys2Proof.Spec in
  (∀ (cam : BitVec 512) (l : List Point), 1 ≤ diceRate cam l ∧ diceRate cam l ≤ 240) ∧
  (∀ t : Rat, ((List.range 2).map (fun a => bernstein 1 a t)).sum = 1 ∧
    ((List.range 4).map (fun a => bernstein 3 a t)).sum = 1) ∧
  (∀ nu nv, 1 ≤ nu → nu ≤ 240 → 1 ≤ nv → nv ≤ 240 →
    1 ≤ (diceGrids nu nv).length ∧ (diceGrids nu nv).length ≤ 256 ∧
    ∀ x ∈ diceGrids nu nv, 2 ≤ x.2.2.1 ∧ x.2.2.1 ≤ 16 ∧ 2 ≤ x.2.2.2 ∧ x.2.2.2 ≤ 16 ∧
      x.1 + x.2.2.1 ≤ nu + 1 ∧ x.2.1 + x.2.2.2 ≤ nv + 1) ∧
  (∀ (a b c : Rat × Rat × Rat) (x y : Rat), coverage a c b x y = coverage a b c x y) ∧
  (∀ (g : Agent) (q : Nat), g.turn = some q → q < 8 ∧ g.emitQ = none ∧
    (missed g q ∨ ((∀ j < 8, ¬ missed g j) ∧ (inHand g q ∨ ((∀ j < 8, ¬ inHand g j) ∧ toBegin g q ∧
      (∀ j < 8, toBegin g j → (g.q j).prio.toNat ≤ (g.q q).prio.toNat) ∧
      ∃ k < 8, let from_ := g.lastQs[(g.q q).prio.toNat]?.getD 7 + 1
        q = (from_ + k) % 8 ∧ ∀ m < k, ¬ (toBegin g ((from_ + m) % 8) ∧ (g.q ((from_ + m) % 8)).prio = (g.q q).prio))))))

/-- R244, R246, R248, R250, R251, R253, R256, R260: what carrying an entry out does, and its figures. -/
def Obligations.AgentEntriesAreCarriedOut : Prop :=
  Sys2Proof.Spec.AgentEntriesCompleteTheirQueue ∧ Sys2Proof.Spec.AgentFiguresKeepTheirBounds

namespace Sys2Proof.Spec

/-! ### Registers written as steps of their own -/

/-- A window may be enabled at a base (R207): its pages and its version word, wholly within one tier of memory, clear of
every enabled window. -/
def windowFits (s : State) (base : Nat) (w : Window) : Prop :=
  let size := 4096 * w.pages.toNat
  1 ≤ w.pages.toNat ∧ w.pages.toNat ≤ 262144 ∧ w.ver ≠ 0 ∧
    (base + size + 0x4000000 ≤ s.cap1 ∨ (0x10000000000 ≤ base ∧ base + size ≤ 0x10000000000 + s.cap2)) ∧
    ∀ p ∈ s.parts.toList, ∀ u ∈ p.wins.toList, u.en = true →
      u.base.toNat + 4096 * u.pages.toNat ≤ base ∨ base + size ≤ u.base.toNat

/-- `s` with window n of partition q replaced. -/
def withWindow (s : State) (q n : Nat) (w : Window) : State :=
  s.setPart q { s.part q with wins := (s.part q).wins.setIfInBounds n w }

/-- A converting copy in flight keeps bank b of core c (R232). -/
def bankHeld (s : State) (c b : Nat) : Prop := ∃ x ∈ s.cores, ∃ p ∈ x.2.copies, p.ended = false ∧ (c, b) ∈ p.banks

/-- The core a Lodestar's `vlp` reaches (R39, R358): the one `lsel` names, but none behind a spare that is in use. -/
def selectedCore (s : State) (g : Nat) : Option Nat :=
  if (s.cluster g).lsel = 8 ∧ (s.cluster g).spareUsed = true then none else some (coreAt g (s.cluster g).lsel.toNat)

/-- A vector or a matrix instruction is in flight on core c (R27): one waits in the matrix queue, or a context is within a
vector instruction, at one of its elements (R208). -/
def vectorInFlight (s : State) (c : Nat) : Prop :=
  (s.core c).mq ≠ [] ∨ ∃ h < 8, (s.hart (ctxKey c h)).vec.vstart ≠ 0 ∧
    ((s.hart (ctxKey c h)).stall = some .element ∨ (s.hart (ctxKey c h)).stall = some .window)

/-- Lodestar's hart goes on after the `vlp` it wrote took effect; a CSR instruction retires with what it read (R102). -/
def lodestarGoesOn (h : Hart) : Option (BitVec 5 × Word) → Hart
  | some (rd, old) => { h.setX rd old with pc := h.pc + 4, instret := h.instret + 1, stall := none }
  | none => { h with stall := none }

/-- A written `vlp` has taken effect on core c (R27): a context whose lanes changed has lost its vector state but `vmsp`. -/
def lanesTaken (s t : State) (c : Nat) (v : Word) : Prop :=
  (t.core c).vlp = legalVlp v ∧ (t.core c).vlpWait = none ∧ t.mem = s.mem ∧
    ∀ h < 8, t.hart (ctxKey c h) =
      if lanesOf (s.core c).vlp h = lanesOf (legalVlp v) h then s.hart (ctxKey c h)
      else { s.hart (ctxKey c h) with vec := { vmsp := (s.hart (ctxKey c h)).vec.vmsp } }

/-- What a register of a block reads after a store of v by hart k (R172, R206, R243, R244, R281, R328, R345), for the
registers that keep something. -/
def regKept (s : State) (k : Nat) : Region → Word → Option Word
  | .clusterBlock g off, v =>
    if off = 0x10 then some ((v &&& 0xF) ||| (if (s.cluster g).rc.wb || v.getLsbD 4 then 0x10 else 0))
    else if 0x2000 ≤ off ∧ off < 0x2100 then
      let c := s.core (8 * g + (off - 0x2000) / 32)
      if (off - 0x2000) % 32 = 0 then some (if 64 < c.dqlen then c.dqbase else v &&& ~~~0x3F)
      else if (off - 0x2000) % 32 = 8 then
        some (BitVec.ofNat 64 (if 64 < c.dqlen then c.dqcap else min (v.toNat % 2 ^ 17) 65536))
      else none
    else if 0x2100 ≤ off ∧ off < 0x2180 then
      let x := (s.cluster g).gang ((off - 0x2100) / 8)
      if x.members = 0 then some ((v &&& 0x7F) ||| (if 4 < codeOf v 7 3 then 0 else v &&& 0x380)) else some x.cfg
    else if 0x3000 ≤ off ∧ off < 0x4200 then
      let h := s.hart (8 * (8 * g + (off - 0x3000) / 64 / 8) + (off - 0x3000) / 64 % 8)
      if (off - 0x3000) / 64 < 64 ∧ hartKind k = 2 ∧ h.ctxState = 0 then
        if (off - 0x3000) % 64 = 0x10 then some (v &&& ~~~0x1FFFF)
        else if (off - 0x3000) % 64 = 0x18 then some (v &&& 7) else none
      else none
    else none
  | .agentBlock a off, v =>
    if off = 0x20 then some (if a % 6 / 2 = 2 then v &&& 1 else BitVec.setWidth 64 (BitVec.ofBool (s.agent a).pctl))
    else if 0x1000 ≤ off ∧ off < 0x1200 then
      let t := queueOf s a ((off - 0x1000) / 64)
      if (off - 0x1000) % 64 = 0 then some (if t.en then t.base else v &&& ~~~0xFFF)
      else if (off - 0x1000) % 64 = 8 then
        some (BitVec.ofNat 64 (if t.en then t.lg else if 4 ≤ codeOf v 0 5 ∧ codeOf v 0 5 ≤ 16 then codeOf v 0 5 else 4))
      else none
    else none
  | .partBlock q off, v =>
    let p := s.part q
    if 8 ≤ q then none
    else if 0x400 ≤ off ∧ off < 0x800 then
      let w := p.win ((off - 0x400) / 64)
      if (off - 0x400) % 64 = 8 then some (if w.en then w.pages.setWidth 64 else v &&& 0x7FFFF)
      else if (off - 0x400) % 64 = 0x10 then some (if w.en then w.ver else v &&& 0x3FFFFFFFFFF8)
      else none
    else if off = 0 then
      if isCtx k = true ∧ (s.hart k).mode = .s ∧ s.partOf k = q then
        some (let u := v &&& ~~~0xC0000000000
              if codeOf v 60 4 = 0 ∨ codeOf v 60 4 = 9 then u else u &&& 0xFFFFFFFFFFFFFFF)
      else some p.patp
    else if isOrr k = true ∧ p.pstate = 0 then
      if 0x40 ≤ off ∧ off < 0xC0 ∧ off % 16 = 0 then some (v &&& 0xFFFFFFE00000)
      else if 0x40 ≤ off ∧ off < 0xC0 ∧ off % 16 = 8 then some (v &&& 0x1FFFFE00000)
      else if off = 0x10 then some (v &&& 0xFFFF)
      else if off = 0x18 then some (v &&& 0xFF)
      else if off = 0x20 then some (v &&& 0x3FFFFFFFF001)
      else if off = 0x28 then some (v &&& 0x3FFFFFFFF000)
      else none
    else none
  | _, _ => none

end Sys2Proof.Spec

/-- The register blocks keep of a store what R172, R206, R243, R244, R281, R328 and R345 let them keep, and no byte of
memory changes. A window is enabled only where R207 allows it, and a `hwbase` write that clears `en` publishes it first; a
write of `hwver` zeroes `hwcnt`; only the service hart's `wdpet` resets the watchdog (R361), which a later hart of that
context does not. A write of `rcctl` leaves `wb` set where it was, and `HW_ENABLE` and `HW_DISABLE` are what their names say
whatever bit 0 of their operand is: the model's readings (logs 35 and 56). -/
def Sys2Proof.Spec.RegisterBlocksKeepTheirLegalValue : Prop :=
  open Sys2Proof Sys2Proof.Machine Sys2Proof.Spec in
  (∀ (s : State) (k : Nat) (r : Region) (v w : Word), regKept s k r v = some w →
    ∃ t, s.regStore k r v = some t ∧ (t.regLoad k r).map (·.1) = some w ∧ t.mem = s.mem) ∧
  (∀ (s : State) (q n : Nat) (v : Word), (Instr.hwEnable q n v).wf = true →
    let w := (s.part q).win n
    let base := v &&& 0xFFFFFFFFF000
    (w.en = true → exec (.hwEnable q n v) s = .next s) ∧
    (w.en = false → windowFits s base.toNat w →
      exec (.hwEnable q n v) s = .next (withWindow s q n { w with en := true, base := base })) ∧
    (w.en = false → ¬ windowFits s base.toNat w →
      exec (.hwEnable q n v) s = .next (withWindow s q n { w with base := base })) ∧
    (w.en = false → exec (.hwDisable q n v) s = .next (withWindow s q n { w with base := base })) ∧
    (w.en = true → ∃ t, exec (.hwDisable q n v) s = .next t ∧ ((t.part q).win n).en = false ∧
      ((t.part q).win n).base = w.base ∧ ((t.part q).win n).cnt = w.cnt + 1) ∧
    (w.en = true → exec (.hwverWrite q n v) s = .next s) ∧
    (w.en = false → exec (.hwverWrite q n v) s = .next (withWindow s q n { w with ver := v &&& 0x3FFFFFFFFFF8, cnt := 0 }))) ∧
  (∀ (s : State) (q k : Nat), q < 8 →
    ((s.part q).attached = true ∧ (s.part q).svcHart = k ∧ (s.part q).svcGen = (s.hart k).hgen →
      exec (.wdpet q k) s = .next (s.setPart q { s.part q with wdcnt := 0 })) ∧
    (¬ ((s.part q).attached = true ∧ (s.part q).svcHart = k ∧ (s.part q).svcGen = (s.hart k).hgen) → exec (.wdpet q k) s = .next s))

/-- The registers of harts, cores and clusters, as steps. `vlp` reaches the core `lsel` names, waits for what
is in flight on it, Lodestar with it, and clears the vector state of contexts whose lanes change, but `vmsp` (R27, R39; that
`vmsp` stays, and that an `lsel` which names nothing is ignored, are the model's choices of logs 92 and 91); of two slots that name one hart the higher is not
valid. `lmsplit` and `lmfmt` wait for the converting copies of their banks, and a bank that changes role reads as zero
(R34, R192, R232). The flags raised reach `cflags`, which is cleared by ones (R33). `sip` clears the latched notify by a
one (R324). `strmctl` keeps the register of an active stream, and never has two active streams on one register (R30, R240).
A register written by its address is written as its number or its block has it (R4, R35). -/
def Sys2Proof.Spec.RegisterEventsWriteTheirRegister : Prop :=
  open Sys2Proof Sys2Proof.Machine Sys2Proof.Spec in
  (∀ (s : State) (g : Nat) (v : Word),
    (selectedCore s g = none → exec (.vlpWrite g v) s = .next s) ∧
    (∀ c, selectedCore s g = some c →
      ((s.core c).absent = true → exec (.vlpWrite g v) s = .next s) ∧
      ((s.core c).absent = false → vectorInFlight s c →
        let t := s.setCore c { s.core c with vlpWait := some { v := v } }
        let k := lodeKey (clusterOfCore c)
        exec (.vlpWrite g v) s = .next (t.setHart k { t.hart k with stall := some .drain })) ∧
      ((s.core c).absent = false → ¬ vectorInFlight s c →
        ∃ t, exec (.vlpWrite g v) s = .next t ∧ lanesTaken s t c v))) ∧
  (∀ (s : State) (c : Nat), (Instr.vlpApply c).wf = true →
    let k := lodeKey (clusterOfCore c)
    ((s.core c).vlpWait = none → exec (.vlpApply c) s = .next s) ∧
    (∀ w, (s.core c).vlpWait = some w → (s.core c).absent = false → vectorInFlight s c →
      exec (.vlpApply c) s = .next s) ∧
    (∀ w, (s.core c).vlpWait = some w → (s.core c).absent = false → ¬ vectorInFlight s c →
      ∃ t, exec (.vlpApply c) s = .next t ∧ lanesTaken s t c w.v ∧ t.hart k = lodestarGoesOn (s.hart k) w.rd) ∧
    (∀ w, (s.core c).vlpWait = some w → (s.core c).absent = true →
      ∃ t, exec (.vlpApply c) s = .next t ∧ (t.core c).vlpWait = none ∧ (t.core c).vlp = (s.core c).vlp ∧
        t.mem = s.mem ∧ t.hart k = lodestarGoesOn (s.hart k) w.rd)) ∧
  (∀ (v : Word) (i j : Nat), i < j → j < 8 → (legalVlp v).getLsbD (4 * i + 11) = true →
    (legalVlp v).getLsbD (4 * j + 11) = true → codeOf (legalVlp v) (4 * i + 8) 3 ≠ codeOf (legalVlp v) (4 * j + 8) 3) ∧
  (∀ (s : State) (c : Nat) (v : Word),
    let changed (b : Nat) : Prop := b < 16 ∧ (s.core c).lmsplit.getLsbD b ≠ v.getLsbD b
    let bank (b : Nat) : Nat := s.pkg.toNat * 2 ^ 48 + 0xF00000000000 + 0x200000 * c + 0x20000 * b
    ((∃ b, changed b ∧ bankHeld s c b) → exec (.lmsplitWrite c v) s = .next s) ∧
    ((∀ b, changed b → ¬ bankHeld s c b) → Memory.wf s.mem = true →
      ∃ t, exec (.lmsplitWrite c v) s = .next t ∧ (t.core c).lmsplit = v.setWidth 16 ∧
        (∀ b a, changed b → bank b ≤ a → a < bank b + 0x20000 → Memory.get t.mem a = 0) ∧
        (∀ a, (∀ b, changed b → ¬ (bank b ≤ a ∧ a < bank b + 0x20000)) → Memory.get t.mem a = Memory.get s.mem a))) ∧
  (∀ (s : State) (c n : Nat) (v : Word), n < 16 →
    exec (.lmgroupWrite c v) s = .next (s.setCore c { s.core c with lmgroup := v.setWidth 4 }) ∧
    (bankHeld s c n → exec (.lmfmtWrite c n v) s = .next s) ∧
    (¬ bankHeld s c n → ∃ t, exec (.lmfmtWrite c n v) s = .next t ∧
      (t.core c).lmfmt[n]? = some (if codeOf v 0 3 = 1 then 0 else v.setWidth 3))) ∧
  (∀ (s : State) (g : Nat) (v : Word),
    exec (.cflagsClear g v) s =
      .next (s.setCluster g { s.cluster g with cflags := (s.cluster g).cflags &&& ~~~(v.setWidth 5) }) ∧
    exec (.flagUnion g) s = .next (s.setCluster g { s.cluster g with
      cflags := (s.cluster g).cflags ||| (s.cluster g).flagsDue, flagsDue := 0 })) ∧
  (∀ (s : State) (k : Nat) (v : Word),
    (isMsg k = true → exec (.scyccmpWrite k v) s = .next s) ∧
    (isMsg k = false → exec (.scyccmpWrite k v) s = .next (s.setHart k { s.hart k with scyccmp := v })) ∧
    (isCtx k = false → exec (.sipNotifyClear k v) s = .next s ∧ exec (.strmctlWrite k v) s = .next s) ∧
    (isCtx k = true →
      exec (.sipNotifyClear k v) s =
        .next (s.setHart k { s.hart k with sc := { (s.hart k).sc with notify := false } }) ∧
      ∃ t, exec (.strmctlWrite k v) s = .next t ∧ (t.hart k).strmctl = legalStrmctl (s.hart k).strmctl v ∧
        (t.hart k).x = (s.hart k).x ∧ (t.hart k).vec = (s.hart k).vec ∧ t.mem = s.mem)) ∧
  (∀ (old v : Word) (k : Nat), k < 4 →
    (strmEn old k = true → strmReg (legalStrmctl old v) k = strmReg old k) ∧
    (strmEn old k = false → strmReg (legalStrmctl old v) k = if strmReg v k = 0 then 1 else strmReg v k) ∧
    (strmEn (legalStrmctl old v) k = true ↔ v.getLsbD (16 + k) = true ∧
      ∀ j < k, strmEn (legalStrmctl old v) j = true → strmReg (legalStrmctl old v) j ≠ strmReg (legalStrmctl old v) k)) ∧
  (∀ (s : State) (k a : Nat) (v : Word),
    let u := { s with cur := k }
    (a < 4096 → u.csrOk a = false ∨ csrReadOnly a = true → exec (.registerWrite k a v) s = .next s) ∧
    (a < 4096 → u.csrOk a = true → csrReadOnly a = false →
      (∀ t, u.csrWrite a v = .done t → exec (.registerWrite k a v) s = .next t) ∧
      (∀ x t, u.csrWrite a v = .trap x t → exec (.registerWrite k a v) s = takeTrap x t) ∧
      (∀ w t, u.csrWrite a v = .wait w t → exec (.registerWrite k a v) s = .next s)) ∧
    (4096 ≤ a → s.regStore k (s.region none a) v = none → exec (.registerWrite k a v) s = .next s) ∧
    (∀ t, 4096 ≤ a → s.regStore k (s.region none a) v = some t → exec (.registerWrite k a v) s = .next t))

/-- The registers of blocks, harts, cores and clusters, as stores and as steps. -/
def Obligations.RegistersKeepWhatTheirFieldsAllow : Prop :=
  Sys2Proof.Spec.RegisterBlocksKeepTheirLegalValue ∧ Sys2Proof.Spec.RegisterEventsWriteTheirRegister

namespace Sys2Proof.Spec

/-! ### Orrery firmware (R303 to R317) -/

/-- The current hart is an Orrery core of the package. -/
def orrery (s : State) : Prop := 3936 ≤ s.cur ∧ s.cur < 3944

/-- A slot of complex d, and the complex with it replaced. -/
def slotOfComplex (s : State) (d i : Nat) : FwSlot := (s.complex d).slots[i]?.getD {}
def withSlot (x : Machine.Complex) (i : Nat) (t : FwSlot) : Machine.Complex := { x with slots := x.slots.setIfInBounds i t }

/-- The cause is that of a line in error (R349, R355), which reaches further than the access. -/
def lineInError (cause : BitVec 8) : Prop := cause = 0xB0 ∨ cause = 0xD5

/-- Every doubleword of a block can be accessed, none in register space (R189); or `f` is the first that cannot, with the
cause its check gives. -/
def accessible (s : State) (acc : Acc) (a : Word) (n : Nat) : Prop :=
  ∀ i < n, ∃ pa, s.check s.who acc (.scalar 8) 8 (a + BitVec.ofNat 64 (8 * i)) = .ok pa ∧
    (s.region s.who.core pa).isBlock = false
def failsAt (s : State) (acc : Acc) (a : Word) (n : Nat) (f : Word) : Prop :=
  ∃ i < n, f = a + BitVec.ofNat 64 (8 * i) ∧ accessible s acc a i ∧
    ((∃ e, s.check s.who acc (.scalar 8) 8 f = .error e ∧ ¬ lineInError e.cause) ∨
     ∃ pa, s.check s.who acc (.scalar 8) 8 f = .ok pa ∧ (s.region s.who.core pa).isBlock = true)

/-- The number of QCBs of an Almanac (R304). -/
def almanacSize (x : Machine.Complex) : Nat := if codeOf x.fwalm 0 5 = 0 then 0 else 2 ^ codeOf x.fwalm 0 5

/-- The pending-bitmap bit of queue q is stored, or kept to be stored (R306). -/
def bitmapBit (t : State) (d q : Nat) : Prop :=
  q ∈ (t.complex d).retry ∨ ∃ b z, (t.complex d).bitmap = some (b, z) ∧
    (Memory.get t.mem (t.pkg.toNat * 2 ^ 48 + b + q / 8)).getLsbD (q % 8) = true

/-- The core a dispatch target names, when the word keeps the table of R310. -/
def dispatchTarget (s : State) (v : Word) (c : Nat) : Prop :=
  v &&& ~~~0xE70FF8 = 0 ∧ codeOf v 6 4 ≤ 11 ∧
    s.ownerOfCluster (12 * codeOf v 10 2 + codeOf v 6 4) = some (codeOf v 16 3) ∧
    c = 96 * codeOf v 10 2 + 8 * codeOf v 6 4 + codeOf v 3 3

/-- The code of a lane request (R282). -/
def lanesField (n : Nat) : Nat := if n = 4 then 1 else if n = 8 then 2 else if n = 16 then 3 else if n = 32 then 4 else 0

end Sys2Proof.Spec

/-- The Xlfw instructions (R307 to R312). On any other hart each is 0x02. `fw.bext` extracts a field. `fw.ring` on a slot
that is not valid is 0x90, at an unaligned address 0x06; with nothing to read it answers 0, on an overrun 2; a block it
cannot access, or in register space, is 0x91 with the address; else it copies the record, moves `fwscons` and `cons` on and answers 1. `fw.swait`
takes the latched sources it asks for, and parks without one. `fw.disp` refuses a bad target with 0x92, an unaligned record
with 0x04 and a bad one with 0x93; a core that cannot take it answers 1 and is noted, else the record joins the inbox with
its class capped, and class 7 rings Lodestar's doorbell. `fw.qcbld` and `fw.qcbst` reach a doubleword of a QCB through
the cache, or are 0x94 or 0x95; what was stored is read back. A store that finds no room in a window stalls the core; the
statement is of states in which no window holds more than it may, and a line in error has a statement of its own. -/
def Obligations.FirmwareInstructionsDoTheirWork : Prop :=
  open Sys2Proof Sys2Proof.Machine Sys2Proof.Spec in
  (∀ (s : State) (rd rs1 rs2 : BitVec 5) (lo len : BitVec 6), isOrr s.cur = false →
    exec (.fwRing rd rs1 rs2) s = takeTrap (illegalTrap s) s ∧ exec (.fwBext rd rs1 lo len) s = takeTrap (illegalTrap s) s ∧
    exec (.fwSwait rd rs1) s = takeTrap (illegalTrap s) s ∧ exec (.fwDisp rd rs1 rs2) s = takeTrap (illegalTrap s) s ∧
    exec (.fwQcbld rd rs1) s = takeTrap (illegalTrap s) s ∧ exec (.fwQcbst rs1 rs2) s = takeTrap (illegalTrap s) s) ∧
  (∀ (s : State) (rd rs1 : BitVec 5) (lo len : BitVec 6), orrery s →
    (lo.toNat + len.toNat + 1 ≤ 64 → exec (.fwBext rd rs1 lo len) s =
      .next (wentOn s rd (BitVec.ofNat 64 (codeOf (s.x rs1) lo.toNat (len.toNat + 1))))) ∧
    (64 < lo.toNat + len.toNat + 1 → exec (.fwBext rd rs1 lo len) s = takeTrap (illegalTrap s) s)) ∧
  (∀ (s : State) (rd rs1 rs2 : BitVec 5), orrery s → s.overfull = false →
    let d := iodOf s.cur
    let i := codeOf (s.x rs1) 0 6
    let a := s.x rs2
    let t := slotOfComplex s d i
    let base := s.pkg.toNat * 2 ^ 48 + t.page.toNat
    let src : Word := BitVec.ofNat 64 (base + 0x800 + 64 * (t.cons.toNat % 32))
    let cons : Word := BitVec.ofNat 64 (base + 8)
    let out := exec (.fwRing rd rs1 rs2) s
    let answer (n : Word) : Word := n + t.cons <<< 32
    (t.valid = false → out = takeTrap ⟨0x90, BitVec.ofNat 64 i⟩ s) ∧
    (t.valid = true → a.toNat % 64 ≠ 0 → out = takeTrap ⟨0x06, a⟩ s) ∧
    (t.valid = true → a.toNat % 64 = 0 →
      (t.kick = t.cons → out = .next (wentOn s rd (answer 0))) ∧
      (32 < (t.kick - t.cons).toNat → out = .next (wentOn s rd (answer 2))) ∧
      (t.kick ≠ t.cons → (t.kick - t.cons).toNat ≤ 32 →
        (∀ f, failsAt s .load src 8 f → out = takeTrap ⟨0x91, f⟩ s) ∧
        (∀ f, accessible s .load src 8 → failsAt s .store a 8 f → out = takeTrap ⟨0x91, f⟩ s) ∧
        (∀ f, accessible s .load src 8 → accessible s .store a 8 → failsAt s .store cons 1 f → out = takeTrap ⟨0x91, f⟩ s) ∧
        (accessible s .load src 8 → accessible s .store a 8 → accessible s .store cons 1 →
          let u := s.blockWrite s.who a (s.blockRead s.who src 8)
          let u := u.setComplex d (withSlot (u.complex d) i { slotOfComplex u d i with cons := t.cons + 1 })
          let u := u.blockWrite s.who cons [t.cons + 1]
          (u.overfull = true → out = .next (stalled s .window)) ∧
          (u.overfull = false → out = .next (wentOn u rd (answer 1))))))) ∧
  (∀ (s : State) (rd rs1 : BitVec 5), orrery s →
    let m := (s.x rs1).setWidth 3
    let got := s.me.fwsig &&& m
    let out := exec (.fwSwait rd rs1) s
    (got ≠ 0 → out = .next (wentOn (s.setHart s.cur { s.me with fwsig := s.me.fwsig &&& ~~~got }) rd (got.setWidth 64))) ∧
    (got = 0 → s.enabledPending s.cur = 0 → out = .next (parked s (.swait rd m))) ∧
    (got = 0 → s.enabledPending s.cur ≠ 0 → s.me.globally = false → out = .next (wentOn s rd 0)) ∧
    (∀ c, got = 0 → s.enabledPending s.cur ≠ 0 → s.nextInterrupt s.cur = some c →
      out = .next (s.setHart s.cur (entered s.cur s.me true c 0)))) ∧
  (∀ (s : State) (k : Nat) (rd : BitVec 5) (m : BitVec 3), 3936 ≤ k → (s.hart k).park = some (.swait rd m) →
    let u := { s with cur := k }
    let got := (s.hart k).fwsig &&& m
    (s.runs k = false → exec (.fwSwaitWake k) s = .next s) ∧
    (got ≠ 0 → s.runs k = true → exec (.fwSwaitWake k) s =
      .next (wentOn (u.setHart k { s.hart k with fwsig := (s.hart k).fwsig &&& ~~~got }) rd (got.setWidth 64))) ∧
    (got = 0 → s.enabledPending k = 0 → exec (.fwSwaitWake k) s = .next s)) ∧
  (∀ (s : State) (rd rs1 rs2 : BitVec 5), orrery s → s.overfull = false →
    let a := s.x rs1
    let v := s.x rs2
    let q := codeOf v 16 3
    let out := exec (.fwDisp rd rs1 rs2) s
    ((∀ c, ¬ dispatchTarget s v c) → out = takeTrap ⟨0x92, v⟩ s) ∧
    (∀ c, dispatchTarget s v c →
      (a.toNat % 64 ≠ 0 → out = takeTrap ⟨0x04, a⟩ s) ∧
      (a.toNat % 64 = 0 → s.dispRecord q a = none →
        (∀ e, s.agentReads (s.whoFor q) a 8 = .error e → ¬ lineInError e.cause) → out = takeTrap ⟨0x93, a⟩ s) ∧
      (∀ r, a.toNat % 64 = 0 → s.dispRecord q a = some r →
        let x := s.core c
        let r := { r with cls := if codeOf v 21 3 < r.cls.toNat then BitVec.ofNat 8 (codeOf v 21 3) else r.cls }
        let y := s.complex (iodOf s.cur)
        (16 ≤ x.inbox.length ∨ x.fenced = true ∨ x.absent = true →
          out = .next (wentOn (s.setComplex (iodOf s.cur) { y with noted := insertNat y.noted c }) rd 1)) ∧
        (x.inbox.length < 16 → x.fenced = false → x.absent = false →
          let u := s.setCore c { x with inbox := x.inbox ++ [r] }
          let bell : Comet := .doorbell (12 * codeOf v 10 2 + codeOf v 6 4)
            (BitVec.ofNat 32 (7 + 8 * codeOf v 3 3 + 64 * lanesField r.lanes.toNat)) s.cur
          out = .next (wentOn (if r.cls = 7 then { u with comets := u.comets ++ [bell] } else u) rd 0))))) ∧
  (∀ (s : State) (rd rs1 rs2 : BitVec 5), orrery s → s.overfull = false →
    let d := iodOf s.cur
    let id := codeOf (s.x rs1) 0 20
    let w := codeOf (s.x rs1) 20 4
    (almanacSize (s.complex d) ≤ id →
      exec (.fwQcbld rd rs1) s = takeTrap ⟨0x94, s.x rs1⟩ s ∧ exec (.fwQcbst rs1 rs2) s = takeTrap ⟨0x94, s.x rs1⟩ s) ∧
    (∀ e, id < almanacSize (s.complex d) → s.qcbLine s.cur id = .error e → ¬ lineInError e.cause →
      exec (.fwQcbld rd rs1) s = takeTrap ⟨0x95, e.tval⟩ s ∧ exec (.fwQcbst rs1 rs2) s = takeTrap ⟨0x95, e.tval⟩ s) ∧
    (∀ l u, id < almanacSize (s.complex d) → s.qcbLine s.cur id = .ok (l, u) →
      (u.overfull = true → exec (.fwQcbld rd rs1) s = .next (stalled s .window) ∧
        exec (.fwQcbst rs1 rs2) s = .next (stalled s .window)) ∧
      (u.overfull = false → exec (.fwQcbld rd rs1) s = .next (wentOn u rd (l.data[w]?.getD 0)) ∧
        ∃ t, exec (.fwQcbst rs1 rs2) s = .next t ∧ t.me.pc = s.me.pc + 4 ∧ t.mem = u.mem ∧
          ∃ l' u', t.qcbLine s.cur id = .ok (l', u') ∧ l'.data[w]?.getD 0 = s.x rs2 ∧ l'.dirty = true)))

/-- The registers of a complex (R303, R304, R306). `fwkpend` is cleared by ones. A write of `fwalm` writes the cache back
first, and is 0x95 where that fails. Binding a free slot to a queue no other valid slot holds reads its `kick`, and what is
unread sets `fwkpend` and source 1; unbinding leaves a bitmap bit for what is unread. `fwpace` sends a pacing comet to
agents 0 to 5. The bitmap bits that could not be stored are stored again. A host's kick is seen by the slots that watch its
page, or becomes the queue's bitmap bit. `FWSMAP_BIND` takes its name whatever bit 0 of its operand is, and the kick it
reads is that of memory as it stands: the model's readings (logs 56 and 33). -/
def Obligations.ComplexRegistersAndKicks : Prop :=
  open Sys2Proof Sys2Proof.Machine Sys2Proof.Spec in
  (∀ (s : State) (d : Nat) (v : Word),
    exec (.fwkpendClear d v) s =
      .next (s.setComplex d { s.complex d with fwkpend := (s.complex d).fwkpend &&& ~~~v })) ∧
  (∀ (s : State) (d : Nat) (v : Word), d < 2 →
    let u := { s with cur := 3936 + 4 * d }
    let r := u.writeBackAll d (s.complex d).cache
    (r.2.overfull = true → exec (.fwalmWrite d v) s = .next s) ∧
    (∀ e, r.1 = some e → r.2.overfull = false → exec (.fwalmWrite d v) s = takeTrap ⟨0x95, e.tval⟩ r.2) ∧
    (r.1 = none → r.2.overfull = false → ∃ t, exec (.fwalmWrite d v) s = .next t ∧ (t.complex d).cache = [] ∧ t.mem = r.2.mem ∧
      codeOf (t.complex d).fwalm 27 21 = codeOf v 27 21 ∧ codeOf (t.complex d).fwalm 5 22 = 0 ∧
      codeOf (t.complex d).fwalm 48 16 = 0 ∧
      codeOf (t.complex d).fwalm 0 5 = if 14 ≤ codeOf v 0 5 ∧ codeOf v 0 5 ≤ 20 then codeOf v 0 5 else 14)) ∧
  (∀ (s : State) (d i : Nat) (v : Word), d < 2 → i < 64 →
    let x := s.complex d
    let t := slotOfComplex s d i
    let q : BitVec 20 := v.extractLsb' 1 20
    let k : Word := BitVec.ofNat 64 (Memory.read s.mem (s.pkg.toNat * 2 ^ 48 + t.page.toNat) 8)
    (t.valid = true ∨ (∃ u ∈ x.slots.toList, u.valid = true ∧ u.qid = q) → exec (.fwsmapBind d i v) s = .next s) ∧
    (t.valid = false → (∀ u ∈ x.slots.toList, u.valid = false ∨ u.qid ≠ q) →
      ∃ u, exec (.fwsmapBind d i v) s = .next u ∧ u.mem = s.mem ∧
        slotOfComplex u d i = { t with valid := true, qid := q, kick := k } ∧
        (∀ j < 64, j ≠ i → slotOfComplex u d j = slotOfComplex s d j) ∧
        (∀ j < 64, (u.complex d).fwkpend.getLsbD j = (x.fwkpend.getLsbD j || (decide (j = i) && decide (k ≠ t.cons)))) ∧
        (k ≠ t.cons → x.fwkpend.getLsbD i = false → ∀ c < 4, (u.hart (3936 + 4 * d + c)).fwsig.getLsbD 1 = true)) ∧
    (t.valid = false → exec (.fwsmapUnbind d i) s = .next s) ∧
    (t.valid = true → Memory.wf s.mem = true → ∃ u, exec (.fwsmapUnbind d i) s = .next u ∧
      slotOfComplex u d i = { t with valid := false } ∧ (∀ j < 64, j ≠ i → slotOfComplex u d j = slotOfComplex s d j) ∧
      (t.kick = t.cons → u.mem = s.mem) ∧ (t.kick ≠ t.cons → bitmapBit u d t.qid.toNat))) ∧
  (∀ (s : State) (d : Nat) (v : Word),
    (codeOf v 0 3 ≤ 5 → exec (.fwpaceWrite d v) s =
      .next { s with comets := s.comets ++ [.pacing (6 * codeOf v 3 2 + codeOf v 0 3) (3936 + 4 * d)] }) ∧
    (5 < codeOf v 0 3 → exec (.fwpaceWrite d v) s = .next s)) ∧
  (∀ (s : State) (d : Nat), d < 2 → Memory.wf s.mem = true →
    ((s.complex d).retry = [] → exec (.bitmapStoreRetry d) s = .next s) ∧
    (∃ t, exec (.bitmapStoreRetry d) s = .next t ∧ ∀ q ∈ (s.complex d).retry, bitmapBit t d q)) ∧
  (∀ (s : State) (port addr : Nat) (v : Word), port < 2 →
    (s.hostPort port = false ∨ addr < 0x2FFC000000 ∨ 0x3000000000 ≤ addr ∨ addr % 4096 ≠ 0 →
      exec (.hostKick port addr v) s = .next s) ∧
    (s.hostPort port = true → 0x2FFC000000 ≤ addr → addr < 0x3000000000 → addr % 4096 = 0 → Memory.wf s.mem = true →
      ∃ t, exec (.hostKick port addr v) s = .next t ∧
        (∀ i < 64, (slotOfComplex s port i).valid = true → (slotOfComplex s port i).page.toNat = addr →
          (slotOfComplex t port i).kick = v ∧ (t.complex port).fwkpend.getLsbD i = true) ∧
        ((∀ i < 64, (slotOfComplex s port i).valid = false ∨ (slotOfComplex s port i).page.toNat ≠ addr) →
          bitmapBit t port ((addr - 0x2FFC000000) / 4096))))

namespace Sys2Proof.Spec

/-- How a piece of the firmware's work ends its step: what it made of the state, once there is room for what it stores and
tells (R208, R329); or an access fault at the Almanac, 0x95, at the core that met it (R307). -/
def Becomes (s : State) (r : FwRes State) (out : Host.Outcome State Fault Refusal) : Prop :=
  match r with
  | .ok t => (s.ifRoom t = t → out = .next t) ∧ (t.overfull = true → out = .next s)
  | .error (k, e) => s.overfull = false → ¬ lineInError e.cause →
      ∃ u, takeTrap ⟨0x95, e.tval⟩ { s with cur := k } = .next u ∧ out = .next { u with cur := s.cur }

/-- The record event of a code: NOP, LAUNCH, SIGNAL, PACE (R314). -/
noncomputable def recordEvent (d i : Nat) : Nat → Instr
  | 0 => .nop d i
  | 1 => .launch d i
  | 2 => .signal d i
  | _ => .pace d i

end Sys2Proof.Spec

/-- The shipped firmware (R305, R313 to R317). A record event serves the next record of its slot, by the core of that slot,
when its queue is mapped and the record has its code; it is taken, then done as R314 says: a LAUNCH places its record on the
first core that takes it or keeps it, a SIGNAL adds, a PACE reaches an agent of the queue's partition; `cres` and `cdone`
follow, 2 for a fault; a queue whose page cannot be stored to enters the error state. A queue in error restarts at a kick
with bit 63 set that was stored since. A round runs once a source is latched, with the effective priority, order, choice of
slot and displaced state of R313. Lodestar never pre-empts a hart of the waiting class or above, nor one with such a member
in its gang, and of two lower classes takes the record that began last. What the firmware does where the rules leave it open
is the model's choice (logs 33 and 50). -/
def Obligations.FirmwareServesQueuesAndRecords : Prop :=
  open Sys2Proof Sys2Proof.Machine Sys2Proof.Spec in
  (∀ (s : State) (d i c : Nat), d < 2 → i < 64 → c < 4 →
    let k := 3936 + 4 * d + (1 + i % 3)
    let out := exec (recordEvent d i c) s
    (∀ e, s.getQcb k (slotOfComplex s d i).qid.toNat = .error e → Becomes s (.error e) out) ∧
    ∀ q w, s.getQcb k (slotOfComplex s d i).qid.toNat = .ok (q, w) →
    ((w.nextRecord k i q = none → Becomes s (.ok w) out) ∧
     (∀ n e, w.nextRecord k i q = some (n, .error e) → Becomes s (.ok w) out) ∧
     (∀ n l, w.nextRecord k i q = some (n, .ok l) → (l.getD 0 0).toNat % 256 ≠ c → Becomes s (.ok w) out) ∧
     (∀ n l, w.nextRecord k i q = some (n, .ok l) → (l.getD 0 0).toNat % 256 = c →
      let u := w.takeRecord k i
      let a := l.getD 1 0
      (slotOfComplex u d i).cons = n + 1 ∧
      (c = 0 → Becomes s (u.finishRecord k q n 1) out) ∧
      (c = 1 →
        let cores := u.coresFrom q.part (u.complex d).lastDisp
        (∀ r, a.toNat % 64 = 0 → cores ≠ [] → u.dispRecord q.part a = some r →
          let o := u.offer k (r.capped q.cmax) (cores.take 16)
          (o.1 = true → Becomes s (o.2.finishRecord k q n 1) out) ∧
          (o.1 = false → Becomes s (.ok (o.2.setComplex d { o.2.complex d with
            held := put (o.2.complex d).held q.id (r.capped q.cmax) })) out)) ∧
        (a.toNat % 64 ≠ 0 ∨ ((∀ e, u.agentReads (u.whoFor q.part) a 8 = .error e → ¬ lineInError e.cause) ∧
            (cores = [] ∨ u.dispRecord q.part a = none)) →
          Becomes s (u.finishRecord k q n 2) out)) ∧
      (c = 2 →
        let r := u.agentAmo (u.whoAgent q.part []) a 8 (fun x => x + (l.getD 2 0).toNat)
        (∀ v t, r = .ok (v, t) → Becomes s (t.finishRecord k q n 1) out) ∧
        (∀ e, r = .error e → ¬ lineInError e.cause → Becomes s (u.finishRecord k q n 2) out)) ∧
      (c = 3 →
        let g := a.toNat % 256
        let die := a.toNat / 256 % 256
        (g ≤ 5 ∧ die ≤ 3 ∧ u.ownerOfAgent (6 * die + g) = some q.part →
          Becomes s (State.finishRecord { u with comets := u.comets ++ [.pacing (6 * die + g) k] } k q n 1) out) ∧
        (¬ (g ≤ 5 ∧ die ≤ 3 ∧ u.ownerOfAgent (6 * die + g) = some q.part) →
          Becomes s (u.finishRecord k q n 2) out))))) ∧
  (∀ (s : State) (k i : Nat) (q : Qcb) (n : Word) (l : List Word), s.nextRecord k i q = some (n, .ok l) →
    let t := slotOfComplex s (iodOf k) i
    t.valid = true ∧ q.qstate = 3 ∧ n = t.cons ∧ t.kick ≠ n ∧ (t.kick - n).toNat ≤ 32 ∧
      (l.getD 0 0).toNat % 256 ≤ 3 ∧ l.length = 8) ∧
  (∀ (s : State) (k : Nat) (q : Qcb) (n : Word) (r : Nat),
    let first := s.pageStore k q.page (0x800 + 64 * (n.toNat % 32) + 1) r 1
    (∀ t u, first = some t → t.pageStore k q.page 0x10 (n + 1).toNat 8 = some u → s.finishRecord k q n r = .ok u) ∧
    (first = none → s.finishRecord k q n r = s.queueFail k q 3 n)) ∧
  (∀ (s t : State) (k : Nat) (q : Qcb) (n : Word) (code : Nat), s.queueFail k q code n = .ok t →
    (t.peekQcb (iodOf k) q.id).qstate = 4) ∧
  (∀ (s : State) (d n : Nat), d < 2 →
    let k := 3936 + 4 * d
    let out := exec (.kickRestart d n) s
    (almanacSize (s.complex d) ≤ n ∨ (s.peekQcb d n).qstate ≠ 4 → out = .next s) ∧
    (n < almanacSize (s.complex d) → (s.peekQcb d n).qstate = 4 →
      (∀ e, s.getQcb k n = .error e → Becomes s (.error e) out) ∧
      (∀ q w, s.getQcb k n = .ok (q, w) →
        let v : Word := if q.mapped then (slotOfComplex w d q.slot).kick
          else BitVec.ofNat 64 (Memory.read w.mem (w.pkg.toNat * 2 ^ 48 + q.page.toNat) 8)
        let restart : Prop := q.home = d ∧ v.getLsbD 63 = true ∧ (q.mapped = true ∨ v ≠ q.seen)
        (¬ restart → Becomes s (.ok w) out) ∧
        (∀ a b, restart → w.pageStore k q.page 0x18 0 8 = some a →
          a.putQcb k ({ q with seen := v }.setState (if q.mapped then 3 else 2)) = .ok b →
          Becomes s (.ok (if q.mapped then b.setComplex d (withSlot (b.complex d) q.slot
            { slotOfComplex b d q.slot with kick := v &&& 0x7FFFFFFFFFFFFFFF }) else b)) out)))) ∧
  (∀ (s : State) (d : Nat), d < 2 →
    ((s.hart (3936 + 4 * d)).fwsig = 0 → exec (.schedulingRound d) s = .next s) ∧
    ((s.hart (3936 + 4 * d)).fwsig ≠ 0 →
      Becomes s (State.round (s.setHart (3936 + 4 * d) { s.hart (3936 + 4 * d) with fwsig := 0 }) d)
        (exec (.schedulingRound d) s))) ∧
  (∀ q : Qcb, q.eff = if q.astep = 0 then q.bprio else min 7 (q.bprio + q.age / q.astep)) ∧
  (∀ a b : Qcb, a.before b = true ↔
    b.eff < a.eff ∨ (a.eff = b.eff ∧ (b.age < a.age ∨ (a.age = b.age ∧ a.id < b.id)))) ∧
  (∀ (s u : State) (d i : Nat) (q : Qcb), s.slotFor d q = .ok (some i, u) →
    let t (j : Nat) : FwSlot := slotOfComplex s d j
    i < 64 ∧
    (((t i).valid = false ∧ ∀ j < i, (t j).valid = true) ∨
     ((∀ j < 64, (t j).valid = true) ∧ (t i).kick = (t i).cons ∧ ∀ j < 64, i < j → (t j).kick ≠ (t j).cons) ∨
     ((∀ j < 64, (t j).valid = true ∧ (t j).kick ≠ (t j).cons) ∧ (∀ j < 64, (u.slotQcb d i).eff ≤ (u.slotQcb d j).eff) ∧
       ((u.slotQcb d i).eff < q.eff ∨ ((u.slotQcb d i).eff = q.eff ∧ 64 ≤ (u.slotQcb d i).held.toNat))))) ∧
  (∀ (s : State) (g n : Nat),
    ((s.unserved g)[n]? = none → exec (.unservedRecord g n) s = .next s) ∧
    (∀ at_ r, (s.unserved g)[n]? = some (at_, r) → ∃ t, exec (.unservedRecord g n) s = .next t ∧ t.mem = s.mem ∧
      ∀ k, (t.hart k).saveReq ≠ (s.hart k).saveReq →
        (t.hart k).saveReq = some (.save 0xF2) ∧ (s.hart k).task.tclass.toNat < r.cls.toNat)) ∧
  (∀ (s : State) (cores : List Nat) (cls k : Nat), s.victim cores cls = some k →
    let may (j : Nat) : Prop := (s.hart j).ctxState = 1 ∧ (s.hart j).idle = false ∧
      ∀ m ∈ s.gangMates j, (s.hart m).task.tclass.toNat < cls
    may k ∧ ∀ c ∈ cores, ∀ h < 8, may (8 * c + h) →
      (s.hart k).task.tclass.toNat < (s.hart (8 * c + h)).task.tclass.toNat ∨
      ((s.hart k).task.tclass = (s.hart (8 * c + h)).task.tclass ∧ (s.hart (8 * c + h)).beganAt ≤ (s.hart k).beganAt))

namespace Sys2Proof.Spec

/-! ### Saving and restoring harts (R326 to R331) -/

/-- 1 for true. -/
def one (b : Prop) [Decidable b] : Nat := if b then 1 else 0

/-- The doublewords of the save area of context k that the table of R331 gives by offset. -/
def savedWords (s : State) (k : Nat) (why : BitVec 8) : List (Nat × Word) :=
  let h := s.hart k
  let c := s.core (coreOf k)
  let n (v : Nat) : Word := BitVec.ofNat 64 v
  [(0, h.pc), (0x100, n (why.toNat + 256 * one (h.mode = .s) + 512 * h.ctxpart.toNat))] ++
  (List.range 31).map (fun i => (8 + 8 * i, h.x[i + 1]?.getD 0)) ++
  [(0x108, h.fcsr.setWidth 64), (0x110, h.vec.vstart.setWidth 64), (0x118, h.vec.vtype), (0x120, n h.vec.vl),
   (0x128, h.quant.qaxis), (0x130, h.vec.vmsp), (0x138, h.strmctl), (0x140, h.rcdesc), (0x148, h.scyccmp),
   (0x150, h.sc.sstatus), (0x158, h.sc.sie), (0x160, s.pending k), (0x168, h.sc.stvec), (0x170, h.sc.sscratch),
   (0x178, h.sc.sepc), (0x180, h.sc.scause), (0x188, h.sc.stval), (0x190, h.sc.satp),
   (0x198, n (h.vec.mstack.length + 65536 * (h.vec.spilled % 65536))), (0x1A0, n (s.lanes k)),
   (0x1A8, n (h.mvl.toNat + 4 * one (c.hold0 = some (slotOf k)) + 8 * one (c.hold1 = some (slotOf k)))),
   (0x1B0, n (h.task.tdepth.toNat + 2 ^ 8 * h.task.tmax.toNat + 2 ^ 16 * h.task.tclass.toNat +
      2 ^ 24 * one (h.task.member = true) + 2 ^ 28 * h.task.tgang.toNat)),
   (0x1B8, h.task.tjoin),
   (0x1C0, n (one (h.bar.bpend = true) + 2 * one (h.bar.brel = true) + 16 * h.bar.bn.toNat + 2 ^ 32 * h.bar.bphase.toNat)),
   (0x1C8, h.bar.bval),
   (0x1D0, match h.pin with
      | none => 0
      | some p => n (1 + 2 * (p.slot % 2) + 2 ^ 16 * p.epoch.toNat + 2 ^ 32 * (p.cluster % 12))),
   (0x1D8, match h.pin with
      | none => 0
      | some p => p.gen),
   (0x1E0, n h.deferred.length), (0x1E8, h.instret)] ++
  ((List.range h.deferred.length).zip h.deferred).flatMap (fun e =>
    [(0x200 + 16 * e.1, e.2.cause.setWidth 64), (0x208 + 16 * e.1, e.2.tval)])

/-- A save area in memory holds the hart (R331): its doublewords, its masks, its vector registers by their lanes, the arrays
it holds. -/
def areaHolds (s : State) (m : List Host.Cell) (k a : Nat) (why : BitVec 8) : Prop :=
  let h := s.hart k
  let c := s.core (coreOf k)
  (∀ e ∈ savedWords s k why, Memory.read m (a + e.1) 8 = e.2.toNat) ∧
  (∀ j (_ : j < h.vec.mstack.length), Memory.read m (a + 0x1000 + 256 * j) 256 = (h.vec.mstack.reverse[j]?.getD 0).toNat) ∧
  Memory.read m (a + 0x2000) 256 = h.vec.vfm.toNat ∧
  (∀ n < 16, Memory.read m (a + 0x4000 + 0x800 * n) (64 * s.lanes k) =
    (h.vec.v[n]?.getD 0).toNat % 2 ^ (512 * s.lanes k)) ∧
  (∀ i < 4096, c.hold0 = some (slotOf k) → Memory.read m (a + 0xC000 + 4 * i) 4 = (c.acc0[i]?.getD 0).toNat) ∧
  (∀ i < 4096, c.hold1 = some (slotOf k) → Memory.read m (a + 0x10000 + 4 * i) 4 = (c.acc1[i]?.getD 0).toNat)

/-- The bounds of a hart that its save area has room for (R26, R325). -/
def fitsArea (h : Hart) : Prop := h.deferred.length ≤ 32 ∧ h.vec.mstack.length ≤ 16

/-- The event of a context (R329). -/
def ctxEventOf (k : Nat) (kind : BitVec 4) (code : BitVec 8) (v : Word) : LsEvent :=
  { kind := kind, code := code, hart := BitVec.ofNat 3 (slotOf k), core := BitVec.ofNat 4 (coreInCluster (coreOf k)), val := v }

/-- The lines of a save area find room in the windows (R208). -/
def areaFits (s : State) (a : Nat) : Prop := s.overfull = false ∧ s.linesFit (linesOf a 0x20000) = true

/-- A hart Lodestar has pre-empted on the core of context k can be resumed there (R317, R330): the context has its lanes, and
the arrays it held are free. -/
def resumable (s : State) (k : Nat) (e : SavedHart) : Prop :=
  let c := s.core (coreOf k)
  e.core = coreInCluster (coreOf k) ∧ e.lanes = s.lanes k ∧ (e.arr0 = true → c.hold0 = none) ∧ (e.arr1 = true → c.hold1 = none)

/-- A `strmctl` a register can hold with any of its streams enabled (R30). -/
def legalStreams (v : Word) : Prop :=
  codeOf v 20 44 = 0 ∧ ∀ i < 4, strmEn v i = true → strmReg v i ≠ 0 ∧ ∀ j < i, strmEn v j = true → strmReg v j ≠ strmReg v i

/-- A saved doubleword. -/
def areaAt (s : State) (a : Word) (off : Nat) : Word := BitVec.ofNat 64 (Memory.read s.mem (a.toNat + off) 8)

/-- The first check of a restore that fails (R330 steps 1 and 2). -/
def refusedFor (s : State) (k : Nat) : Option (BitVec 8) :=
  let a := (s.hart k).ctxarea
  let c := s.core (coreOf k)
  if (s.areaFault a.toNat true).isSome then some 3
  else if areaAt s a 0x1A0 ≠ BitVec.ofNat 64 (s.lanes k) then some 1
  else if ((areaAt s a 0x1A8).getLsbD 2 ∧ c.hold0 ≠ none) ∨ ((areaAt s a 0x1A8).getLsbD 3 ∧ c.hold1 ≠ none) then some 2
  else if codeOf (areaAt s a 0x100) 9 3 ≠ (s.hart k).ctxpart.toNat then some 4
  else if (areaAt s a 0x1D0).getLsbD 0 ∧ codeOf (areaAt s a 0x1D0) 32 4 ≠ clusterOf k % 12 then some 5
  else none

end Sys2Proof.Spec

/-- Lodestar's commands and the save engine (R317, R327, R328, R331). Each command is accepted in one state of a context; a
restore by which Lodestar resumes takes the hart of the highest class that fits, and of those the one saved first. A save
ends once the hart is stopped and nothing of it is queued: the area holds the hart as R331 lays it out, no byte outside the
area changes, the context is given up and remembers the area, and Lodestar hears kind 2, or 7 for a service call. An area
that cannot be written stops the save there: the context stays in state 2, its core is fenced, Lodestar hears kind 8. An
area in a window waits for room there (R208), the model's reading (log 47). -/
def Sys2Proof.Spec.SavesWriteTheHartToItsArea : Prop :=
  open Sys2Proof Sys2Proof.Machine Sys2Proof.Spec in
  (∀ (s : State) (k : Nat) (i : Instr) (st : BitVec 2) (h : Hart),
    (i, st, h) ∈ [(Instr.ctxSave k, (1 : BitVec 2), { s.hart k with ctxState := 2, saveReq := some (.save 0xF2) }),
      (.ctxRestore ⟨k, false⟩, 0, { s.hart k with ctxState := 3 }),
      (.ctxRetire k, 1, { s.hart k with ctxState := 2, saveReq := some .retire })] →
    (isCtx k = true → (s.hart k).ctxState = st → exec i s = .next (s.setHart k h)) ∧
    (isCtx k = false ∨ (s.hart k).ctxState ≠ st →
      ∃ t, exec i s = .next t ∧ (∀ j, t.hart j = s.hart j) ∧ t = { s with harts := t.harts })) ∧
  (∀ (s : State) (k : Nat), isCtx k = true → (s.hart k).ctxState = 0 →
    (s.resumes k = none → exec (.ctxRestore ⟨k, true⟩) s = .next s) ∧
    (∀ e, s.resumes k = some e → exec (.ctxRestore ⟨k, true⟩) s = .next (s.setHart k { s.hart k with
      ctxState := 3, ctxarea := BitVec.ofNat 64 e.area, ctxpart := e.part }))) ∧
  (∀ (s : State) (k : Nat) (e : SavedHart), s.resumes k = some e →
    ∃ pre post, (s.cluster (clusterOf k)).preempted = pre ++ e :: post ∧ resumable s k e ∧
      (∀ f ∈ pre, resumable s k f → f.cls.toNat < e.cls.toNat) ∧ ∀ f ∈ post, resumable s k f → f.cls.toNat ≤ e.cls.toNat) ∧
  (∀ (s : State) (k : Nat), (isCtx k = false ∨ (s.hart k).stopped = false ∨ s.hasQueued k = true ∨
      (∀ why, (s.hart k).saveReq ≠ some (.save why)) → exec (.saveComplete k) s = .next s)) ∧
  (∀ (s : State) (k : Nat) (why : BitVec 8), isCtx k = true → (s.hart k).stopped = true → s.hasQueued k = false →
    (s.hart k).saveReq = some (.save why) → fitsArea (s.hart k) → Memory.wf s.mem = true → s.overfull = false →
    let a := (s.hart k).ctxarea
    (∀ f, s.areaFault a.toNat false = some f →
      ∃ t, exec (.saveComplete k) s = .next t ∧ t.mem = s.mem ∧ (t.core (coreOf k)).fenced = true ∧
        (t.core (coreOf k)).mq = [] ∧ (t.hart k).ctxState = (s.hart k).ctxState ∧
        told s t (clusterOf k) (ctxEventOf k 8 0 (BitVec.ofNat 64 f))) ∧
    (s.areaFault a.toNat false = none → ¬ areaFits s a.toNat → exec (.saveComplete k) s = .next s) ∧
    (s.areaFault a.toNat false = none → areaFits s a.toNat →
      ∃ t, exec (.saveComplete k) s = .next t ∧ areaHolds s t.mem k a.toNat why ∧
        (∀ x, x < a.toNat ∨ a.toNat + 0x20000 ≤ x → Memory.get t.mem x = Memory.get s.mem x) ∧
        (t.hart k).savedAt = some a ∧ (t.hart k).pin = none ∧ (t.hart k).resv = none ∧ (t.hart k).saveReq = none ∧
        (t.core (coreOf k)).hold0 ≠ some (slotOf k) ∧ (t.core (coreOf k)).hold1 ≠ some (slotOf k) ∧
        told s t (clusterOf k) (ctxEventOf k (if why = 0x09 then 7 else 2) 0 a) ∧
        (t.hart k).ctxState = (if s.eventRoom (clusterOf k) then 0 else (s.hart k).ctxState) ∧
        (∀ j, j ≠ k → (t.hart j).x = (s.hart j).x ∧ (t.hart j).pc = (s.hart j).pc) ∧
        ((s.hart k).preempted = true → ∃ l e, (t.cluster (clusterOf k)).preempted = l ++ [e] ∧ e.area = a.toNat ∧
          e.cls = (s.hart k).task.tclass ∧ e.lanes = s.lanes k)))

/-- Restores (R330). A restore of a context that is restoring makes its checks in order; the first that fails refuses it
with its code as event kind 4, and changes nothing else; otherwise the context holds the saved hart and its arrays, is
resident, keeps its `hgen` exactly where it returns to the area it was saved to, and Lodestar hears kind 3. A field that could not have
been saved is made legal as a write of its register makes it (`stvec` without its low bits), which is the model's reading
(log 31); one that could comes back as it is. Nothing is restored on an absent core (R359). -/
def Sys2Proof.Spec.RestoresFillTheContext : Prop :=
  open Sys2Proof Sys2Proof.Machine Sys2Proof.Spec in
  ∀ (s : State) (k : Nat),
    (isCtx k = false ∨ (s.hart k).ctxState ≠ 3 ∨ (s.core (coreOf k)).absent = true →
      exec (.restoreComplete k) s = .next s) ∧
    (isCtx k = true → (s.hart k).ctxState = 3 → (s.core (coreOf k)).absent = false → (s.cluster (clusterOf k)).evWait = [] →
      let a := (s.hart k).ctxarea
      let w (off : Nat) : Word := areaAt s a off
      (∀ c, refusedFor s k = some c →
        ∃ t, exec (.restoreComplete k) s = .next t ∧ t.mem = s.mem ∧ told s t (clusterOf k) (ctxEventOf k 4 c a) ∧
          (s.eventRoom (clusterOf k) = true → t.hart k = { s.hart k with ctxState := 0 })) ∧
      (refusedFor s k = none → (s.hart k).savedAt ≠ some a → s.maySwitch k = false →
        exec (.restoreComplete k) s = .next s) ∧
      (refusedFor s k = none → (s.hart k).savedAt = some a ∨ (s.maySwitch k = true ∧ (s.hart k).deferred = [] ∧
          (s.hart k).waiting = []) →
        ∃ t, exec (.restoreComplete k) s = .next t ∧ t.mem = s.mem ∧ told s t (clusterOf k) (ctxEventOf k 3 0 a) ∧
          (s.eventRoom (clusterOf k) = true → (t.hart k).ctxState = 1) ∧
          (t.hart k).hgen = (if (s.hart k).savedAt = some a then (s.hart k).hgen else (s.hart k).hgen + 1) ∧
          (t.hart k).savedAt = none ∧ (t.hart k).resv = none ∧ (t.hart k).park = none ∧
          (t.hart k).pc = w 0 ∧ (∀ n, 1 ≤ n → n < 32 → (t.hart k).x[n]? = some (w (8 * n))) ∧ (t.hart k).x[0] = 0 ∧
          (t.hart k).mode = (if (w 0x100).getLsbD 8 then .s else .u) ∧
          (t.hart k).sc.sscratch = w 0x170 ∧ (t.hart k).sc.sepc = w 0x178 ∧ (t.hart k).sc.stval = w 0x188 ∧
          (t.hart k).sc.stvec = w 0x168 &&& ~~~3 ∧ (t.hart k).sc.notify = (w 0x160).getLsbD 0 ∧
          (legalStreams (w 0x138) → (t.hart k).strmctl = w 0x138) ∧ (t.hart k).rcdesc = w 0x140 &&& ~~~0x3F ∧
          (t.hart k).vec.vstart = (w 0x110).setWidth 11 ∧ (t.hart k).vec.vmsp = w 0x130 ∧
          (∀ n < 16, (t.hart k).vec.v[n]? =
            some (BitVec.ofNat 16384 (Memory.read s.mem (a.toNat + 0x4000 + 0x800 * n) (64 * s.lanes k)))) ∧
          (t.hart k).instret = w 0x1E8 ∧ (t.hart k).task.tjoin = w 0x1B8 ∧ (t.hart k).bar.bval = w 0x1C8 ∧
          (t.hart k).task.tclass.toNat = codeOf (w 0x1B0) 16 3 ∧ (t.hart k).task.tdepth.toNat = codeOf (w 0x1B0) 0 8 ∧
          ((w 0x1A8).getLsbD 2 = true → (t.core (coreOf k)).hold0 = some (slotOf k) ∧
            ∀ i < 4096, (t.core (coreOf k)).acc0[i]? = some (BitVec.ofNat 32 (Memory.read s.mem (a.toNat + 0xC000 + 4 * i) 4))) ∧
          ((w 0x1A8).getLsbD 3 = true → (t.core (coreOf k)).hold1 = some (slotOf k) ∧
            ∀ i < 4096, (t.core (coreOf k)).acc1[i]? = some (BitVec.ofNat 32 (Memory.read s.mem (a.toNat + 0x10000 + 4 * i) 4)))))

/-- A hart that is saved and restored to its own context goes on as it was (R327, R330): the same `hgen`, general registers,
`pc`, mode, saved trap registers, vector registers, task and streams, these with the translation of their `strm.set` (R339).
-/
def Obligations.SavedHartsResumeAsTheyWere : Prop :=
  open Sys2Proof Sys2Proof.Machine Sys2Proof.Spec in
  ∀ (s t u v : State) (k : Nat) (why : BitVec 8), isCtx k = true → (s.hart k).stopped = true → s.hasQueued k = false →
    (s.hart k).saveReq = some (.save why) → fitsArea (s.hart k) → Memory.wf s.mem = true →
    areaFits s (s.hart k).ctxarea.toNat → (s.core (coreOf k)).absent = false → (s.hart k).mode ≠ .m → (s.hart k).x[0] = 0 →
    s.areaFault (s.hart k).ctxarea.toNat false = none → s.eventRoom (clusterOf k) = true →
    exec (.saveComplete k) s = .next t → exec (.ctxRestore ⟨k, false⟩) t = .next u → t.eventRoom (clusterOf k) = true →
    refusedFor u k = none → exec (.restoreComplete k) u = .next v →
    let h := s.hart k
    let g := v.hart k
    g.ctxState = 1 ∧ g.hgen = h.hgen ∧ g.x = h.x ∧ g.pc = h.pc ∧ g.mode = h.mode ∧ g.instret = h.instret ∧
      g.sc.sscratch = h.sc.sscratch ∧ g.sc.sepc = h.sc.sepc ∧ g.sc.stval = h.sc.stval ∧ g.sc.notify = h.sc.notify ∧
      g.vec.vstart = h.vec.vstart ∧ g.vec.vmsp = h.vec.vmsp ∧ g.task = h.task ∧ g.bar.bval = h.bar.bval ∧
      (legalStreams h.strmctl → g.strmctl = h.strmctl) ∧
      (∀ i < 4, (g.strm[i]?.getD {}).tr = (h.strm[i]?.getD {}).tr ∧ (g.strm[i]?.getD {}).pat = (h.strm[i]?.getD {}).pat) ∧
      (∀ n < 16, (g.vec.v[n]?.getD 0).toNat = (h.vec.v[n]?.getD 0).toNat % 2 ^ (512 * s.lanes k))

/-- R327, R328, R330, R331: the commands, the save and the restore of a context. -/
def Obligations.HartsAreSavedAndRestored : Prop :=
  Sys2Proof.Spec.SavesWriteTheHartToItsArea ∧ Sys2Proof.Spec.RestoresFillTheContext

namespace Sys2Proof.Spec

/-! ### Service calls, the watchdog, recovery (R355 to R365) -/

/-- Context k waits in a service call of partition q, saved in the area at `a`, with a request code (R326, R360). -/
def callWaits (s : State) (k q : Nat) (a : Word) (code : Nat) : Prop :=
  isCtx k = true ∧ (s.hart k).ctxState = 0 ∧ (s.hart k).call = some a ∧ codeOf (areaAt s a 0x100) 9 3 = q ∧
    codeOf (areaAt s a 0x88) 0 16 = code

/-- Argument i of the call saved at `a` (R360). -/
def callArg (s : State) (a : Word) (i : Nat) : Word := areaAt s a (0x50 + 8 * i)

/-- The caller saved at `a` from context k can be restored now: its own context, or another free one of its core, which is
not fenced. -/
def canReturn (s : State) (k : Nat) (a : Word) : Prop :=
  (s.core (coreOf k)).fenced = false ∧ (((s.hart k).ctxState = 0 ∧ (s.hart k).savedAt = some (BitVec.ofNat 64 a.toNat)) ∨
    ∃ h < 8, (s.hart (8 * coreOf k + h)).ctxState = 0)

/-- No window is enabled, and none holds more lines than it may: no store has to wait (R208). -/
def noWindows (s : State) : Prop := s.overfull = false ∧ s.windowOn = false

/-- What an answer writes into the area at `a` has room in the windows (R208). -/
def roomy (s : State) (a : Word) : Prop := noWindows s ∨ areaFits s a.toNat

/-- The call saved at `a` is answered with a status: `a0` of its area holds it, and a context of its core is being restored
from the area (R326, R360). -/
def answered (t : State) (k : Nat) (a : Word) (status : Word) : Prop :=
  Memory.read t.mem (a.toNat + 0x50) 8 = status.toNat ∧
    ∃ j, coreOf j = coreOf k ∧ (t.hart j).ctxState = 3 ∧ (t.hart j).ctxarea = BitVec.ofNat 64 a.toNat

/-- The area at `a` resumes past its `ecall`, whose address it has in `u` (R326). -/
def resumesPast (u t : State) (a : Word) : Prop := Memory.read t.mem a.toNat 8 = (areaAt u a 0 + 4).toNat

/-- The service hart of partition q is attached and has not been lost (R361). -/
def serves (s : State) (q k : Nat) : Prop :=
  (s.part q).attached = true ∧ (s.part q).svcLost = false ∧ (s.part q).svcHart = k ∧ (s.hart k).hgen = (s.part q).svcGen

/-- The answer of a call that can be answered at once; it waits while its core has no free context. -/
def Answers (s : State) (i : Instr) (k : Nat) (a : Word) (status : Word) : Prop :=
  (canReturn s k a → roomy s a → ∃ t, exec i s = .next t ∧ answered t k a status ∧ resumesPast s t a) ∧
  (¬ canReturn s k a → exec i s = .next s)

end Sys2Proof.Spec

/-- Service calls (R360 to R362). SVC_ATTACH makes the caller the service hart of the journal at the canonical address of
bits [47:14] of its argument, unless another resident one is attached or the limit is 0, which is the model's choice (log 75).
SVC_REPLY closes an applied entry for the service hart, and is a bad request of anyone else.
QCB_WRITE writes a QCB that is free or the partition's, through the cache of its home complex (log 79). Codes that no handler has are bad requests; codes from 256 are
journaled for the service hart, or have no service. Choices where the rules are open (codes 0 and 4 to 255 at one event, a
call that waits for a free context, or for room in a window that holds its area or the journal) are the model's (logs 76, 78 and 47). -/
def Sys2Proof.Spec.ServiceCallsAreAnswered : Prop :=
  open Sys2Proof Sys2Proof.Machine Sys2Proof.Spec in
  (∀ (s : State) (k : Nat), (∀ q a code, ¬ callWaits s k q a code) →
    exec (.svcAttach k) s = .next s ∧ exec (.svcReply k) s = .next s ∧ exec (.qcbWrite k) s = .next s ∧
      exec (.svcForwarded k) s = .next s) ∧
  (∀ (s : State) (k q : Nat) (a : Word) (code : Nat), callWaits s k q a code →
    (code ≠ 1 → exec (.svcAttach k) s = .next s) ∧ (code ≠ 2 → exec (.svcReply k) s = .next s) ∧
    (code ≠ 3 → exec (.qcbWrite k) s = .next s) ∧ (1 ≤ code → code ≤ 3 → exec (.svcForwarded k) s = .next s)) ∧
  (∀ (s : State) (k q : Nat) (a : Word), callWaits s k q a 1 → Memory.wf s.mem = true →
    let j := callArg s a 0
    let lim := codeOf (callArg s a 2) 0 8
    let other : Prop := s.svcResident q = true ∧ ¬ serves s q k
    (lim = 0 ∨ other → Answers s (.svcAttach k) k a 1) ∧
    (lim ≠ 0 → ¬ other → ¬ canReturn s k a → exec (.svcAttach k) s = .next s) ∧
    (lim ≠ 0 → ¬ other → canReturn s k a → roomy s a →
      let idle : Prop := (s.part q).notices = [] ∧ ∀ c ∈ (s.part q).callers, c.entry ≠ none
      noWindows s ∨ idle →
      ∃ t, exec (.svcAttach k) s = .next t ∧ answered t k a 0 ∧ (idle → resumesPast s t a) ∧
        (t.part q).attached = true ∧ (t.part q).wdcnt = 0 ∧ (t.part q).wdlimit.toNat = lim ∧ (t.part q).svcLost = false ∧
        (∀ i < 64, (t.part q).journal.getLsbD i = (decide (14 ≤ i) && j.getLsbD (min i 47))) ∧
        ∃ b, (t.part q).svcHart = b ∧ coreOf b = coreOf k ∧ (t.hart b).ctxState = 3 ∧ (t.hart b).ctxarea = BitVec.ofNat 64 a.toNat ∧
          (t.part q).svcGen = (s.hart b).hgen + (if (s.hart b).savedAt = some (BitVec.ofNat 64 a.toNat) then 0 else 1))) ∧
  (∀ (s : State) (k q : Nat) (a : Word), callWaits s k q a 2 → Memory.wf s.mem = true →
    (¬ serves s q k → Answers s (.svcReply k) k a 1) ∧
    (serves s q k → s.svcReplyTo q (callArg s a 0) = none → exec (.svcReply k) s = .next s) ∧
    (∀ st t, serves s q k → s.svcReplyTo q (callArg s a 0) = some (st, t) → canReturn t k a → Memory.wf t.mem = true →
      s.addsWaiting t = false → roomy t a →
      ∃ u, exec (.svcReply k) s = .next u ∧ answered u k a st ∧ resumesPast t u a)) ∧
  (∀ (s : State) (q : Nat) (v : Word),
    let u := s.setPart q { s.part q with wdcnt := 0 }
    (u.jRead q v.toNat = none → s.svcReplyTo q v = some (1, u)) ∧
    (∀ l, u.jRead q v.toNat = some l → (l.getD 0 0).toNat % 256 ≠ 2 ∨ (l.getD 0 0).toNat / 2 ^ 32 ≠ v.toNat % 2 ^ 32 →
      s.svcReplyTo q v = some (1, u))) ∧
  (∀ (s : State) (k q : Nat) (a : Word), callWaits s k q a 3 → Memory.wf s.mem = true →
    let id := (callArg s a 0).toNat
    let got := s.agentReads (s.whoAgent q []) (callArg s a 1) 16
    (∀ e, got = .error e → ¬ lineInError e.cause → Answers s (.qcbWrite k) k a 1) ∧
    (∀ l, got = .ok l →
      let d := codeOf (l.getD 0 0) 38 1
      let core := 3936 + 4 * d
      (almanacSize (s.complex d) ≤ id ∨ codeOf (l.getD 0 0) 40 3 ≠ q → Answers s (.qcbWrite k) k a 1) ∧
      (id < almanacSize (s.complex d) → codeOf (l.getD 0 0) 40 3 = q → canReturn s k a →
        (∀ j e, s.getQcb core id = .error (j, e) → ¬ lineInError e.cause → roomy s a →
          ∃ u, exec (.qcbWrite k) s = .next u ∧ answered u k a 1 ∧
            (u.hart core).mc = (entered core (s.hart core) false 0x95 e.tval).mc ∧
            (u.hart core).pc = (entered core (s.hart core) false 0x95 e.tval).pc) ∧
        (∀ old t, s.getQcb core id = .ok (old, t) → Memory.wf t.mem = true → roomy t a →
          (old.qstate = 0 ∨ old.part = q →
            ∃ u, exec (.qcbWrite k) s = .next u ∧ answered u k a 0 ∧ resumesPast t u a ∧
              ∀ i < 16, ∃ y ∈ (u.complex d).cache, y.id = id ∧ y.dirty = true ∧ y.data[i]? = some (l.getD i 0)) ∧
          (¬ (old.qstate = 0 ∨ old.part = q) →
            ∃ u, exec (.qcbWrite k) s = .next u ∧ answered u k a 1 ∧ resumesPast t u a))))) ∧
  (∀ (s : State) (k q : Nat) (a : Word) (code : Nat), callWaits s k q a code → Memory.wf s.mem = true →
    (code = 0 ∨ (4 ≤ code ∧ code < 256) → Answers s (.svcForwarded k) k a 1) ∧
    (256 ≤ code → (s.part q).attached = false → Answers s (.svcForwarded k) k a 3) ∧
    (256 ≤ code → (s.part q).attached = true →
      ∃ t, exec (.svcForwarded k) s = .next t ∧ ((t = s ∧ ¬ noWindows s) ∨
        ((t.hart k).call = none ∧ ∃ c ∈ (t.part q).callers, c.ctx = k ∧ c.area = a.toNat))))

/-- The watchdog (R363, R364). At a round the count of every service kept in the cluster advances while its hart is resident
and an entry is open. An expired watchdog tells Lodestar 0xD3 and restarts the service: `svcrst` is one higher, the count
starts again, and the restart image is being restored in a free context. Which free context, and that it all waits for room in
Lodestar's queue and in the windows, are the model's choices (logs 77, 62 and 47). -/
def Sys2Proof.Spec.WatchdogsCountAndRestart : Prop :=
  open Sys2Proof Sys2Proof.Machine Sys2Proof.Spec in
  (∀ (s : State) (g : Nat), (∀ q, (s.part q).svcLost = false) → s.overfull = false →
    ∃ t, exec (.serviceRingRound g) s = .next t ∧ t.mem = s.mem ∧ t.harts = s.harts ∧
      ∀ q < 8, t.part q = { s.part q with
        wdcnt := (s.part q).wdcnt + one ((s.part q).attached = true ∧ clusterOf (s.part q).svcHart = g ∧
          s.svcResident q = true ∧ s.openEntries q ≠ [] ∧ (s.part q).wdcnt < (s.part q).wdlimit.toNat) }) ∧
  (∀ (s : State) (q : Nat), q < 8 →
    let p := s.part q
    let k := p.svcHart
    (¬ serves s q k ∨ p.wdcnt < p.wdlimit.toNat → exec (.watchdogExpiry q) s = .next s) ∧
    (serves s q k → p.wdlimit.toNat ≤ p.wdcnt →
      let u := s.ctxEvent k 1 0xD3 (BitVec.ofNat 64 q)
      (u.restartService q = none → exec (.watchdogExpiry q) s = .next s) ∧
      (∀ t, u.restartService q = some t →
        (s.ifRoom t ≠ t → exec (.watchdogExpiry q) s = .next s) ∧
        (s.ifRoom t = t → exec (.watchdogExpiry q) s = .next t) ∧
        (t.part q).svcrst = p.svcrst + 1 ∧ (t.part q).wdcnt = 0 ∧ (t.part q).svcLost = false ∧
        (t.hart (t.part q).svcHart).ctxState = 3 ∧ (t.part q).svcGen = (t.hart (t.part q).svcHart).hgen + 1)))

namespace Sys2Proof.Spec

/-- Core c is fenced (R356): its matrix queue is empty, and of its harts only what stalled them has gone; one that had taken
a record and waited to begin it runs it where it stands (R290). -/
def fencedIn (s t : State) (c : Nat) : Prop :=
  (t.core c).fenced = true ∧ (t.core c).mq = [] ∧ (t.core c).vlp = (s.core c).vlp ∧
    ∀ h < 8, let x := s.hart (8 * c + h)
      (x.begun = none → t.hart (8 * c + h) = { x with stall := none }) ∧
      (∀ r, x.begun = some r → ∃ n, t.hart (8 * c + h) = { begun x r n with task := x.task })

/-- The event of core c that tells its Lodestar of a cause (R324, R355). -/
def coreEvent (c : Nat) (cause : BitVec 8) (v : Word) : LsEvent :=
  { kind := 1, code := cause, core := BitVec.ofNat 4 (coreInCluster c), val := v }

/-- The core is there: not absent, and not a spare that has replaced another (R358, R359). -/
def present (s : State) (c : Nat) : Prop :=
  (s.core c).absent = false ∧ ¬ (384 ≤ c ∧ (s.cluster (clusterOfCore c)).spareUsed = true)

end Sys2Proof.Spec

/-- Hardware errors (R354 to R356). An uncorrectable error of a core's SRAM or a parity error is 0xD0 or 0xD1 to Lodestar and
fences the core; a lost line reads as a value no statement knows, a lost record is counted for its notice, and a lost message
ends as a FAULT of cause 0xD0. How an operand names an entry, or a register and its context, is the model's choice (logs 60, 59). A fenced core is reported with 0xD2 once. A corrected error only counts. Tier memory that
cannot be corrected is poisoned: a context that reads it takes 0xD5; where Lodestar or Orrery reads it the partition enters
ERROR and a Lodestar hears 0xD5. The other storages lose what R355 says. -/
def Sys2Proof.Spec.HardwareErrorsAreContained : Prop :=
  open Sys2Proof Sys2Proof.Machine Sys2Proof.Spec in
  (∀ (s : State) (c addr : Nat), c < 432 →
    (¬ present s c → exec (.uncorrectableSramError c addr) s = .next s) ∧
    (present s c → addr < 2 ^ 54 → ∃ t, exec (.uncorrectableSramError c addr) s = .next t ∧ fencedIn s t c ∧
      told s t (clusterOfCore c) (coreEvent c 0xD0 (BitVec.ofNat 64 addr)) ∧
      (s.region none addr = .tier → Memory.wf s.mem = true →
        Memory.read t.mem (addr / 64 * 64) 64 = (Config.lostLine s.free).toNat ∧
        ∀ x, x / 64 ≠ addr / 64 → Memory.get t.mem x = Memory.get s.mem x) ∧
      (s.region none addr ≠ .tier → t.mem = s.mem)) ∧
    (∀ n, present s c → addr = 2 ^ 54 + n → s.overfull = false →
      let x := s.core c
      let left (t : State) : Prop := exec (.uncorrectableSramError c addr) s = .next t ∧ fencedIn s t c ∧
        told s t (clusterOfCore c) (coreEvent c 0xD0 (BitVec.ofNat 64 addr))
      (n % 3 = 0 → n / 3 < x.deque.length → ∃ t, left t ∧ t.mem = s.mem ∧ (t.core c).deque = x.deque.eraseIdx (n / 3) ∧
        (t.core c).lostRecs = x.lostRecs + 1) ∧
      (n % 3 = 1 → n / 3 < x.inbox.length → ∃ t, left t ∧ t.mem = s.mem ∧ (t.core c).inbox = x.inbox.eraseIdx (n / 3) ∧
        (t.core c).lostRecs = x.lostRecs + 1) ∧
      (∀ m, n % 3 = 2 → x.msgBuf[n / 3]? = some m → m.srcPkg ≠ s.pkg → ∃ t, left t ∧ t.mem = s.mem ∧
        (t.core c).msgBuf = x.msgBuf.eraseIdx (n / 3) ∧ t.replies = s.replies ++ [replyOf m (.ended 4 0xD0)]) ∧
      (∀ m, n % 3 = 2 → x.msgBuf[n / 3]? = some m → m.srcPkg = s.pkg → m.cpl = 0 →
        ∃ t, exec (.uncorrectableSramError c addr) s = .next t ∧ (t.core c).fenced = true ∧ t.mem = s.mem ∧
          told s t (clusterOfCore c) (coreEvent c 0xD0 (BitVec.ofNat 64 addr)) ∧
          (t.core c).msgBuf = x.msgBuf.eraseIdx (n / 3) ∧ EntryEnds t m))) ∧
  (∀ (s : State) (c n : Nat), c < 432 →
    (¬ present s c → exec (.registerFileParityError c n) s = .next s) ∧
    (present s c → ∃ t, exec (.registerFileParityError c n) s = .next t ∧ fencedIn s t c ∧ t.mem = s.mem ∧
      n / 256 % 8 ∈ (t.core c).badCtx ∧
      told s t (clusterOfCore c) (coreEvent c 0xD1 (BitVec.ofNat 64 (n % 256))))) ∧
  (∀ (s : State) (c : Nat), c < 432 →
    ((s.core c).fenced = false ∨ (s.core c).told = true → exec (.coreFenced c) s = .next s) ∧
    ((s.core c).fenced = true → (s.core c).told = false → ∃ t, exec (.coreFenced c) s = .next t ∧
      t.core c = { s.core c with told := true } ∧ t.harts = s.harts ∧ t.mem = s.mem ∧
      told s t (clusterOfCore c) (coreEvent c 0xD2 (BitVec.ofNat 64 (coreInCluster c))))) ∧
  (∀ (s : State) (n : Nat), exec (.correctableError n) s =
    .next { s with corrected := s.corrected.setIfInBounds n (s.corrected[n]?.getD 0 + 1) }) ∧
  (∀ (s : State) (k addr : Nat),
    let out := exec (.uncorrectableTierMemoryError k addr) s
    let poisoned : State := { s with poisoned := insertNat s.poisoned (localOf addr / 64) }
    (s.rangeOwner (localOf addr) = none ∨ s.region none addr ≠ .tier ∨ s.runs k = false → out = .next s) ∧
    (∀ q, s.rangeOwner (localOf addr) = some q → s.region none addr = .tier → s.runs k = true →
      let g := if isOrr k then s.firstCluster q else clusterOf k
      (isMach k = false → s.partOf k ≠ q → out = .next s) ∧
      (isMach k = false → s.partOf k = q → out = takeTrap ⟨0xD5, BitVec.ofNat 64 addr⟩ { poisoned with cur := k }) ∧
      (isMach k = true → g < 48 → s.eventRoom g = false → out = .next s) ∧
      (isMach k = true → s.overfull = false → s.eventRoom g = true → ∃ t, out = .next t ∧ t.poisoned = poisoned.poisoned ∧
        t.mem = s.mem ∧ told s t g { kind := 1, code := 0xD5, val := BitVec.ofNat 64 addr } ∧
        t.parts = (s.partError q 4).parts ∧ t.harts = (s.partError q 4).harts))) ∧
  (∀ (s : State) (n addr : Nat), s.overfull = false →
    let poisoned : State := { s with poisoned := insertNat s.poisoned (localOf addr / 64) }
    exec (.uncorrectableError .cleanLine n addr) s = .next s ∧
    (s.region none addr = .tier → exec (.uncorrectableError .l2Dirty n addr) s = .next poisoned) ∧
    (s.region none addr ≠ .tier → exec (.uncorrectableError .l2Dirty n addr) s = .next s) ∧
    (s.region none addr = .tier → s.rangeOwner (localOf addr) = none →
      exec (.uncorrectableError .outsideRange n addr) s = .next poisoned) ∧
    (n < 48 → s.windowOn = false → ∃ t, exec (.uncorrectableError .radianceStore n addr) s = .next t ∧ (unit t n).state = 0 ∧
      (unit t n).rcbind = 0 ∧ (unit t n).slot0 = [] ∧ (unit t n).slot1 = [] ∧ (unit t n).epoch = (unit s n).epoch + 1) ∧
    (n < 48 → addr < (s.cluster n).pls.length → s.windowOn = false →
      ∃ t, exec (.uncorrectableError .pendingLaunch n addr) s = .next t ∧
        (t.cluster n).pls = (s.cluster n).pls.eraseIdx addr) ∧
    (∀ c, s.copy? n addr = some c → c.left ≠ 0 → c.stop = none → c.ended = false →
      exec (.uncorrectableError .copyBuffer n addr) s =
        .next (s.setCopy n { c with stop := some ⟨c.sourceAt, c.least⟩ })))

/-- A partition in ERROR (R348, R349, R355). A running partition that an error is found in enters ERROR with its reason: every
resident context of it is asked to save with `why` 0xF2 (log 30), its agents' running queues stop with `err` 3, and nothing else of the
package changes but the comets these send; a partition that does not run stays as it is. A context that reads a line with an
integrity tag fault traps with 0xB0 besides; one that reads an uncorrectable error is itself saved, with `why` 0xD5, and its
Lodestar hears 0xD5. A message hart's message ends with FAULT. Lodestar and Orrery trap on a tag fault, and on an
uncorrectable error go on, with a value no statement knows in the destination, once the event has room: no event enters as a
trap (R329). Which partition such an error stops, and which Lodestar hears of it, are the model's
readings (logs 23, 29 and 51). -/
def Sys2Proof.Spec.PartitionsInErrorStop : Prop :=
  open Sys2Proof Sys2Proof.Machine Sys2Proof.Spec in
  (∀ (s : State) (q : Nat) (why : BitVec 4),
    ((s.part q).pstate ≠ 2 → s.partError q why = s) ∧
    (q < 8 → (s.part q).pstate = 2 →
      let t := s.partError q why
      let hit (k : Nat) : Prop := isCtx k = true ∧ (s.hart k).ctxState = 1 ∧ (s.hart k).ctxpart.toNat = q ∧
        (s.hart k).saveReq = none
      t = { s with parts := t.parts, harts := t.harts, agents := t.agents, comets := t.comets } ∧
      t.part q = { s.part q with pstate := 3, reason := why } ∧ (∀ p, p ≠ q → t.part p = s.part p) ∧
      (∀ k, hit k → t.hart k = { s.hart k with saveReq := some (.save 0xF2), ctxState := 2 }) ∧
      (∀ k, ¬ hit k → t.hart k = s.hart k) ∧
      (∀ a < 24, s.ownerOfAgent a = some q → ∀ i < 8,
        let x := queueOf s a i
        (x.state ≠ 1 → queueOf t a i = x) ∧
        (x.state = 1 → queueOf t a i = { x with
          state := 2, err := 3, faddr := x.base + 64 * BitVec.ofNat 64 (x.head.toNat % 2 ^ x.lg), entry := none, settled := none
          prog := none, posted := false })) ∧
      (∀ a, s.ownerOfAgent a ≠ some q → t.agent a = s.agent a))) ∧
  (∀ (s : State) (a : Word), isCtx s.cur = true →
    let q := (s.hart s.cur).ctxpart.toNat
    let u := s.setHart s.cur { s.me with
      saveReq := some (.save 0xD5), stopped := true, ctxState := 2, resv := none, park := none, stall := none }
    takeTrap ⟨0xB0, a⟩ s = .next ((s.setHart s.cur (sEntry s.me false 0xB0 a)).partError q 1) ∧
    ∃ t, takeTrap ⟨0xD5, a⟩ s = .next t ∧ told s t (clusterOf s.cur) (causeEvent (coreOf s.cur) (slotOf s.cur) 0xD5 a) ∧
      t = { u.partError q 4 with clusters := t.clusters }) ∧
  (∀ (s : State) (a : Word), isMsg s.cur = true →
    let c := coreOf s.cur
    let q := (s.ownerOfCluster (clusterOfCore c)).getD 0
    let u := s.endMessage c 4
    ((u 0xB0).overfull = false → takeTrap ⟨0xB0, a⟩ s = .next ((u 0xB0).partError ((u 0xB0).partOf s.cur) 1)) ∧
    ((u 0xD5).overfull = false → ∃ t, takeTrap ⟨0xD5, a⟩ s = .next t ∧
      t = { (u 0xD5).partError q 4 with clusters := t.clusters })) ∧
  (∀ (s : State) (a : Word), isMach s.cur = true →
    let owner := s.rangeOwner (localOf a.toNat)
    let g := if isOrr s.cur then s.firstCluster (owner.getD 0) else clusterOf s.cur
    let trapped := s.setHart s.cur (mEntry s.me false 0xB0 a)
    (∀ q, owner = some q → takeTrap ⟨0xB0, a⟩ s = .next (trapped.partError q 1)) ∧
    (owner = none → takeTrap ⟨0xB0, a⟩ s = .next trapped) ∧
    (s.eventRoom g = false → takeTrap ⟨0xD5, a⟩ s = .next (stalled s .event)) ∧
    (s.eventRoom g = true → ∃ u, told s u g { kind := 1, code := 0xD5, val := a } ∧ u.cur = s.cur ∧
      (∀ q, owner = some q → u.parts = (s.partError q 4).parts ∧ u.harts = (s.partError q 4).harts) ∧
      (owner = none → u.parts = s.parts ∧ u.harts = s.harts) ∧
      takeTrap ⟨0xD5, a⟩ s = .next (wentOn u (s.ir.extractLsb' 7 5) (Config.badLoad s.free))))

/-- Repair (R357 to R359). Lodestar repairs a fenced logical core it has been told of: a spare that is left becomes the core with its settings, shared registers and chunk masks zero, and the fence is lifted; without a spare the core is
absent, with no lanes and no message queued. A repair's details, and that it waits for room for its events and stores, are the
model's choices (log 61); it is made where nothing of the core is left to save or to tell. -/
def Sys2Proof.Spec.FencedCoresAreRepaired : Prop :=
  open Sys2Proof Sys2Proof.Machine Sys2Proof.Spec in
  ∀ (s : State) (c : Nat),
    let g := clusterOfCore c
    let x := s.core c
    let idle : Prop := noWindows s ∧ (∀ h < 8, (s.hart (8 * c + h)).ctxState = 0 ∧ (s.hart (8 * c + h)).savedAt = none) ∧
      x.deque = [] ∧ x.spilled = [] ∧ x.inbox = [] ∧ x.lostRecs = 0 ∧ x.running = none ∧ x.msgBuf = [] ∧ x.refused = [] ∧
      ∀ q < 8, (s.part q).svcLost = false
    (384 ≤ c ∨ x.fenced = false ∨ x.told = false ∨ (s.cluster g).evWait ≠ [] → exec (.coreRepair c) s = .next s) ∧
    (c < 384 → x.fenced = true → x.told = true → (s.cluster g).evWait = [] →
      ((s.cluster g).spareUsed = false → (s.core (384 + g)).fenced = false →
        ∃ t, exec (.coreRepair c) s = .next t ∧ ((t = s ∧ ¬ idle) ∨
          ((t.core c).fenced = false ∧ (t.cluster g).spareUsed = true ∧
            (t.core c).vlp = x.vlp ∧ (t.core c).issuepol = x.issuepol ∧ (t.core c).lmsplit = x.lmsplit ∧
            (t.core c).lmgroup = x.lmgroup ∧ (t.core c).lmfmt = x.lmfmt ∧ (t.core c).sv = Vector.replicate 16 0 ∧
            (t.core c).cmask = Vector.replicate 8 0))) ∧
      ((s.cluster g).spareUsed = true ∨ (s.core (384 + g)).fenced = true →
        ∃ t, exec (.coreRepair c) s = .next t ∧ ((t = s ∧ ¬ idle) ∨
          ((t.core c).fenced = false ∧ (t.core c).absent = true ∧
            (t.core c).vlp = 0 ∧ (t.core c).msgBuf = [] ∧ (t.core c).running = none))))

/-- R360 to R364: service calls, and the watchdog of a service. -/
def Obligations.ServicesAnswerAndRestart : Prop :=
  Sys2Proof.Spec.ServiceCallsAreAnswered ∧ Sys2Proof.Spec.WatchdogsCountAndRestart

/-- R348, R349, R354 to R359: hardware errors, partitions in ERROR, the fence and its repair. -/
def Obligations.HardwareErrorsAreContainedAndRepaired : Prop :=
  Sys2Proof.Spec.HardwareErrorsAreContained ∧ Sys2Proof.Spec.PartitionsInErrorStop ∧ Sys2Proof.Spec.FencedCoresAreRepaired

namespace Sys2Proof.Spec

/-! ### Lifecycle, host and fabric requests, links, reset and boot -/

/-- The ranges of a partition in use: base and size (R345). -/
def rangesOf (p : Partition) : List (Nat × Nat) :=
  ((p.pmrbase.toList.zip p.pmrsize.toList).map (fun e => (e.1.toNat, e.2.toNat))).filter (fun e => e.2 ≠ 0)

/-- Two spans of local addresses, each a base and a size, overlap. -/
def Overlap (a b : Nat × Nat) : Prop := a.1 < b.1 + b.2 ∧ b.1 < a.1 + a.2

/-- The local address l lies in a range of partition q. -/
def inSomeRange (s : State) (q l : Nat) : Prop := ∃ r ∈ rangesOf (s.part q), r.1 ≤ l ∧ l < r.1 + r.2

/-- A span that partition q's ranges must not overlap: the command window and every enabled window, the Almanac with its
bitmap, the save areas that contexts remember or name, and the ranges of the other partitions. -/
def Taken (s : State) (q : Nat) (b : Nat × Nat) : Prop :=
  b = (0x2FFC000000, 0x4000000) ∨
  (∃ p ∈ s.parts.toList, ∃ v ∈ p.wins.toList, v.en = true ∧ b = (v.base.toNat, 4096 * v.pages.toNat)) ∨
  (∃ x ∈ s.orr.toList, codeOf x.fwalm 0 5 ≠ 0 ∧
    b = ((x.fwalm &&& 0xFFFFF8000000).toNat, 128 * 2 ^ codeOf x.fwalm 0 5 + 2 ^ codeOf x.fwalm 0 5 / 8)) ∨
  (∃ e ∈ s.harts, isCtx e.1 = true ∧ ((∃ a, e.2.savedAt = some a ∧ b = (a.toNat % 2 ^ 48, 0x20000)) ∨
    (e.2.ctxarea ≠ 0 ∧ b = (e.2.ctxarea.toNat % 2 ^ 48, 0x20000)))) ∨
  (∃ o < 8, o ≠ q ∧ b ∈ rangesOf (s.part o))

/-- R348: the lock of partition q is refused. -/
def LockRefused (s : State) (q : Nat) : Prop :=
  ¬ (rangesOf (s.part q)).Pairwise (fun a b => ¬ Overlap a b) ∨
  (∃ a ∈ rangesOf (s.part q), ∃ b, Taken s q b ∧ Overlap a b) ∨
  (∃ o < 8, o ≠ q ∧ (s.part o).pown &&& (s.part q).pown ≠ 0)

/-- The domain address of a local address of this package. -/
def domainAt (s : State) (l : Nat) : Nat := s.pkg.toNat * 2 ^ 48 + l

/-- Every byte of partition q's ranges reads as zero in t. -/
def rangesZeroed (s t : State) (q : Nat) : Prop := ∀ l, inSomeRange s q l → Memory.get t.mem (domainAt s l) = 0

/-- Partition q keeps its ranges, its half-dies, its tenant and its aperture. -/
def keepsResources (s t : State) (q : Nat) : Prop :=
  (t.part q).pmrbase = (s.part q).pmrbase ∧ (t.part q).pmrsize = (s.part q).pmrsize ∧ (t.part q).pown = (s.part q).pown ∧
    (t.part q).ptid = (s.part q).ptid ∧ (t.part q).phab = (s.part q).phab ∧ (t.part q).phas = (s.part q).phas

end Sys2Proof.Spec

/-- R348. LOCK_INTERFACE_REQUEST takes an unlocked partition to CONFIG_LOCKED: fresh memory keys, every range zero, the
shared registers and chunk masks of its cores, their deques, its clusters' gangs, stores and radiance units and its agents
zero, and the report digest extended into register 16 + q. START takes a locked partition to RUN. STOP takes any other to
CONFIG_UNLOCKED: it has its contexts retired, and once none holds a hart its agents' queues and its windows are disabled, its
radiance units unbound, its ranges zero, its keys gone and its digest cleared. A request that is not valid in the state, or a
lock of resources that overlap, gets the TDISP error response and changes nothing else. What a lock refuses beyond R348 (other
partitions' ranges, the command window), that it empties stores, deques and gangs (log 71), and that STOP takes the service
with it (log 72) are the model's choices. -/
def Obligations.PartitionsPassThroughTheirStates : Prop :=
  open Sys2Proof Sys2Proof.Machine Sys2Proof.Spec in
  ∀ (s : State) (q : Nat), q < 8 →
    let lock := exec (.lockInterfaceRequest q) s
    let start := exec (.startInterfaceRequest q) s
    let stop := exec (.stopInterfaceRequest q) s
    let refused : Host.Outcome State Fault Refusal := .next { s with mgmt := s.mgmt ++ [.tdispError q] }
    let holds (e : Nat × Hart) : Prop :=
      isCtx e.1 = true ∧ e.2.ctxpart.toNat = q ∧ (e.2.ctxState ≠ 0 ∨ e.2.savedAt ≠ none)
    ((s.part q).pstate ≠ 0 ∨ LockRefused s q → lock = refused) ∧
    ((s.part q).pstate = 0 → ¬ LockRefused s q → ∃ t, lock = .next t ∧
      (t.part q).pstate = 1 ∧ (t.part q).reason = 0 ∧ (t.part q).hasKeys = true ∧
      (t.part q).keyGen = (s.part q).keyGen + 1 ∧ keepsResources s t q ∧ rangesZeroed s t q ∧
      (Memory.wf s.mem = true → ∀ a, (∀ l, inSomeRange s q l → a ≠ domainAt s l) →
        Memory.get t.mem a = Memory.get s.mem a) ∧
      (∀ g < 48, s.ownerOfCluster g = some q →
        (∀ n < 8, (t.core (8 * g + n)).sv = Vector.replicate 16 0 ∧ (t.core (8 * g + n)).cmask = Vector.replicate 8 0 ∧
          (t.core (8 * g + n)).dqbase = 0 ∧ (t.core (8 * g + n)).dqcap = 0 ∧ (t.core (8 * g + n)).deque = []) ∧
        (t.cluster g).gangs = Vector.replicate 16 {} ∧ (t.cluster g).pls = [] ∧ (unit t g).state = 0 ∧ (unit t g).rcbind = 0) ∧
      (∀ a < 24, s.ownerOfAgent a = some q → t.agent a = {}) ∧
      look t.meas (16 + q) 0 = Config.sha512 [look s.meas (16 + q) 0, t.tdiDigest q]) ∧
    ((s.part q).pstate = 1 → start = .next (s.setPart q { s.part q with pstate := 2, svcrst := 0 })) ∧
    ((s.part q).pstate ≠ 1 → start = refused) ∧
    ((s.part q).pstate = 0 → stop = refused) ∧
    ((s.part q).pstate ≠ 0 → (∃ e ∈ s.harts, holds e) → ∃ t, stop = .next t ∧ t.mem = s.mem ∧
      t.part q = { s.part q with stopping := true } ∧
      ∀ k, holds (k, s.hart k) → (t.hart k).ctxState = 2 ∧
        ((s.hart k).ctxState ≠ 2 → (t.hart k).saveReq = some .retire ∧ (t.hart k).stopped = ((s.hart k).stopped ||
          decide ((s.hart k).ctxState ≠ 1)))) ∧
    ((s.part q).pstate ≠ 0 → (∀ e ∈ s.harts, ¬ holds e) → ∃ t, stop = .next t ∧
      (t.part q).pstate = 0 ∧ (t.part q).hasKeys = false ∧ (t.part q).attached = false ∧ (t.part q).stopping = false ∧
      rangesZeroed s t q ∧
      (∀ a < 24, s.ownerOfAgent a = some q → ∀ n < 8, ((t.agent a).q n).en = false ∧ ((t.agent a).q n).state = 0) ∧
      (∀ n < 16, ((t.part q).win n).en = false) ∧
      (∀ g < 48, s.ownerOfCluster g = some q → (unit t g).state = 0 ∧ (unit t g).rcbind = 0) ∧
      (∀ l < 16, ∀ d < 2, ((t.link l).dir d).keys = del ((s.link l).dir d).keys q) ∧ t.meas = del s.meas (16 + q))

namespace Sys2Proof.Spec

/-- The host on a port can ask for the doubleword at a local address: the port is a host's (R12), the address is that of
device memory, the command window or the port's own aperture. -/
def hostAsks (s : State) (port addr : Nat) : Prop :=
  (port = 0 ∨ (port = 1 ∧ s.twoHosts = true)) ∧ addr % 8 = 0 ∧ addr < 2 ^ 48 ∧
    (s.region none (domainAt s addr) = .tier ∨ s.region none (domainAt s addr) = .window ∨
      s.region none (domainAt s addr) = .aperture port)

/-- R350: a request of the host for a local address is served: over the stream of the partition that has it, and with the
attribute. -/
def HostServed (s : State) (port : Nat) (strm : IdeStream) (addr : Nat) : Prop :=
  ∀ q, s.rangeOwner addr = some q → (s.part q).pstate = 2 ∧ codeOf (s.part q).phab 0 1 = port ∧ strm.tdi = some q ∧
    strm.tee = true

/-- The line of a local address can be read: it is no line of tier memory with a tag fault or an uncorrectable error. -/
def readsWell (s : State) (addr : Nat) : Prop :=
  s.region none (domainAt s addr) ≠ .tier ∨ (addr / 64 ∉ s.badTags ∧ addr / 64 ∉ s.poisoned)

/-- The byte of the pending bitmap that the host's store to a page of the command window may also mark, and the mark (R306):
through the complex of its port. -/
def hostMark (s : State) (port addr : Nat) : Option (Nat × Byte) :=
  if addr % 4096 = 0 ∧ 0x2FFC000000 ≤ addr ∧ addr < 0x3000000000 then
    let q := (addr - 0x2FFC000000) / 4096
    (s.complex port).bitmap.map (fun b => (domainAt s (b.1 + q / 8), BitVec.ofNat 8 (2 ^ (q % 8))))
  else none

/-- The doubleword at a local address is v in t, and every other byte is as in s, but for a mark of the pending bitmap. -/
def hostStored (s t : State) (port addr : Nat) (v : Word) : Prop :=
  let a := domainAt s addr
  ∀ x, let b : Byte := if a ≤ x ∧ x < a + 8 then BitVec.ofNat 8 (v.toNat / 256 ^ (x - a)) else Memory.get s.mem x
    Memory.get t.mem x = b ∨ ∃ k, hostMark s port addr = some (x, k) ∧ Memory.get t.mem x = b ||| k

/-- The n bytes at domain address a hold the low bytes of v in t, and every other byte is as in s. -/
def onlyStored (s t : State) (a n : Nat) (v : Word) : Prop :=
  Memory.read t.mem a n = v.toNat % 256 ^ n ∧ ∀ b, b < a ∨ a + n ≤ b → Memory.get t.mem b = Memory.get s.mem b

/-- The reply to a read from outside. -/
def replied (s : State) (port addr : Nat) (v : Word) : State := { s with hostOut := s.hostOut ++ [⟨port, addr, v⟩] }

/-- The lines that are pending in some window, with what the host sees of them (R208). -/
def pendingLines (s : State) : List (Nat × BitVec 512) :=
  s.parts.toList.flatMap (fun p => p.wins.toList.flatMap (fun v => v.pending))

end Sys2Proof.Spec

/-- R350: the host on its port reads or writes a doubleword of device memory, the command window or its aperture. A request
for a range of a partition that is not in RUN, or from another port, or over another stream, or without the attribute, is not
served: a read gives all ones, a write is dropped, and nothing is raised. R208: a host read of a pending line gives the value
last published. That a host store makes no line pending and is made on a device-owned page too is the model's reading (log
64). -/
def Obligations.HostRequestsAreServedToTheirPartition : Prop :=
  open Sys2Proof Sys2Proof.Machine Sys2Proof.Spec in
  ∀ (s : State) (port addr : Nat) (strm : IdeStream) (wr : Bool) (v : Word),
    let pa := domainAt s addr
    let out := exec (.hostMemoryRequest port strm wr addr v) s
    (¬ hostAsks s port addr → out = .next s) ∧
    (hostAsks s port addr → ¬ HostServed s port strm addr →
      out = .next (if wr = true then s else replied s port addr 0xFFFFFFFFFFFFFFFF)) ∧
    (hostAsks s port addr → HostServed s port strm addr → wr = true → ∃ t, out = .next t ∧ t.hostOut = s.hostOut ∧
      (hostMark s port addr = none → t.parts = s.parts) ∧ (Memory.wf s.mem = true → hostStored s t port addr v)) ∧
    (hostAsks s port addr → HostServed s port strm addr → wr = false → readsWell s addr → ∃ w : Word,
      out = .next (replied s port addr w) ∧
      ((∀ e ∈ pendingLines s, e.1 ≠ pa / 64) → w.toNat = Memory.read s.mem pa 8) ∧
      (∀ e l r, pendingLines s = l ++ e :: r → (∀ f ∈ l, f.1 ≠ pa / 64) → e.1 = pa / 64 →
        w.toNat = e.2.toNat / 2 ^ (8 * (pa % 64)) % 2 ^ 64))

namespace Sys2Proof.Spec

/-- A party of another package may access n bytes at a local address for its tenant (R346, R347): device-owned tier memory in
a range of the tenant's partition here, both partitions in RUN, with link keys. -/
def remoteMay (s : State) (r : RemotePart) (addr n : Nat) : Prop :=
  addr % n = 0 ∧ addr < 2 ^ 48 ∧ s.region none (domainAt s addr) = .tier ∧ s.hostOwned .tier (domainAt s addr) = false ∧
    r.run = true ∧ r.keyed = true ∧ r.ptid ≠ 0 ∧
    ∃ q < 8, (s.part q).pstate = 2 ∧ (s.part q).ptid = r.ptid ∧ s.inRange q addr = true

/-- What a memory operation of another package writes over the value it finds, if it writes. -/
def remoteWrite (old v : Word) : FabricOp → Option Word
  | .store _ => some v
  | .amo op n => some (amoResult op (8 * n) old v)
  | _ => none

/-- A message of another package's hart as it reaches the package (R262, R263). -/
def foreignMessage (r : RemotePart) (src : BitVec 18) (gen : W32) (ptid : BitVec 16) (rec : List Word) (d : Word) (seq : W32)
    (scope : BitVec 3) (trapping : Bool) : Msg :=
  { handler := rec.getD 0 0, cpl := rec.getD 1 0
    payload := #v[rec.getD 2 0, rec.getD 3 0, rec.getD 4 0, rec.getD 5 0, rec.getD 6 0]
    dst := d.setWidth 18, tohart := d.getLsbD 18, gen := BitVec.ofNat 32 (d.toNat / 2 ^ 32)
    src := hartOfHloc src, srcPkg := r.pkg, srcGen := gen, tr := {}, ptid := ptid, seq := seq, scope := scope.toNat
    trapping := trapping }

/-- The entries of a hart's send queue that hold its message to a core under a number. -/
def entriesOf (t : State) (m : Msg) : List SendEntry :=
  (t.hart m.src).sendQ.filter (fun e => destOf e.msg.dst = destOf m.dst && e.msg.seq = m.seq)

end Sys2Proof.Spec

/-- Ownership and other packages. A flip to the host (R224, R225) makes the page host-owned and clears the reservations in
it; a flip back (R227) only makes it device-owned; no page of an enabled window flips. An operation of another package (R205)
waits for its number; a load, a store or an AMO is applied at its home package where R346 allows it, a message joins those
under way to its core, an answer settles the message it is about, and its number then advances. A read from outside of a line
in error sends its partition to ERROR (R349, R355). What such a read gives (log 63), which pages may flip (log 65), the numbering of
operations and what packages tell each other of messages (logs 66 and 16), keys of a tenant's route (log 67), and that a store
from another package waits for room in a window (log 47) are the model's choices. -/
def Obligations.PagesChangeHandsAndPackagesReachThem : Prop :=
  open Sys2Proof Sys2Proof.Machine Sys2Proof.Spec in
  (∀ (s : State) (port addr : Nat) (strm : IdeStream) (v : Word), hostAsks s port addr → HostServed s port strm addr →
    ¬ readsWell s addr →
    let out := exec (.hostMemoryRequest port strm false addr v) s
    (s.overfull = false →
      (∀ q, s.rangeOwner addr = some q → addr / 64 ∈ s.badTags ∨ s.eventRoom (s.firstCluster q) = true) → ∃ t w, out = .next t ∧
      t.hostOut = s.hostOut ++ [⟨port, addr, w⟩] ∧ t.mem = s.mem ∧
      ∀ q, s.rangeOwner addr = some q → (t.part q).pstate = 3) ∧
    (∀ q, s.rangeOwner addr = some q → addr / 64 ∉ s.badTags → s.eventRoom (s.firstCluster q) = false → out = .next s)) ∧
  (∀ (s : State) (page : Nat),
    let a := 4096 * page
    let inWindow : Prop := ∃ p ∈ s.parts.toList, ∃ v ∈ p.wins.toList, v.holds a = true
    let can : Prop := a < 2 ^ 48 ∧ s.inTier a = true ∧ ¬ inWindow ∧ ∀ q, s.rangeOwner a = some q → (s.part q).pstate = 2
    (¬ can → exec (.ownershipFlipToHost page) s = .next s) ∧
    (can → ∃ t, exec (.ownershipFlipToHost page) s = .next t ∧ t.mem = s.mem ∧ t.parts = s.parts ∧
      (∀ p, p ∈ t.hostPages ↔ p = page ∨ p ∈ s.hostPages) ∧
      ∀ k, (∀ r, (t.hart k).resv = some r → ¬ (domainAt s a ≤ 64 * r.line ∧ 64 * r.line < domainAt s a + 4096)) ∧
        ∃ r, t.hart k = { s.hart k with resv := r }) ∧
    (inWindow → exec (.ownershipFlipToDevice page) s = .next s) ∧
    (¬ inWindow → exec (.ownershipFlipToDevice page) s =
      .next { s with hostPages := s.hostPages.filter (· ≠ page) })) ∧
  (∀ (s : State) (src addr : Nat) (seq : W32) (op : FabricOp) (v : Word),
    (s.remotes[src % 4096]? = none ∨ look s.fabric src 0 ≠ seq ∨ s.routed = false →
      exec (.fabricRemoteOperation src seq op addr v) s = .next s)) ∧
  (∀ (s : State) (src addr n : Nat) (op : FabricOp) (v : Word) (r : RemotePart), s.remotes[src % 4096]? = some r →
    s.routed = true → s.overfull = false → (op, n) ∈ [(FabricOp.load 1, 1), (.load 2, 2), (.load 4, 4), (.load 8, 8),
      (.store 1, 1), (.store 2, 2), (.store 4, 4), (.store 8, 8)] ∨ (∃ o, op = .amo o n ∧ (n = 4 ∨ n = 8)) →
    let pa := domainAt s addr
    let seq := look s.fabric src 0
    let out := exec (.fabricRemoteOperation src seq op addr v) s
    let done (t : State) : State := { t with fabric := put t.fabric src (seq + 1) }
    let reads : Bool := match op with
      | .store _ => false
      | _ => true
    let old : Word := BitVec.ofNat 64 (Memory.read s.mem pa n)
    (¬ remoteMay s r addr n → out = .next (done s)) ∧
    (remoteMay s r addr n → (reads = true → readsWell s addr) →
      (remoteWrite old v op = none → out = .next (done (replied s (2 + src) addr old))) ∧
      (∀ w, remoteWrite old v op = some w → s.windowFull pa = true → out = .next s) ∧
      (∀ w, remoteWrite old v op = some w → s.windowFull pa = false → ∃ t, out = .next t ∧ look t.fabric src 0 = seq + 1 ∧
        t.hostOut = (if reads = true then (replied s (2 + src) addr old).hostOut else s.hostOut) ∧
        (Memory.wf s.mem = true → onlyStored s t pa n w))) ∧
    (remoteMay s r addr n → reads = true → ¬ readsWell s addr → (∀ q, s.eventRoom (s.firstCluster q) = true) →
      ∃ t, out = .next t ∧ look t.fabric src 0 = seq + 1 ∧ t.mem = s.mem ∧ t.hostOut = s.hostOut ∧
        ∀ q, s.rangeOwner addr = some q → (s.part q).pstate = 2 → (t.part q).pstate = 3)) ∧
  (∀ (s : State) (who addr : Nat) (v : Word) (r : RemotePart) (src : BitVec 18) (gen : W32) (ptid : BitVec 16)
    (rec : List Word) (d : Word) (num : W32) (scope : BitVec 3) (trapping : Bool), s.remotes[who % 4096]? = some r →
    s.routed = true → s.overfull = false →
    let seq := look s.fabric who 0
    let out := exec (.fabricRemoteOperation who seq (.message src gen ptid rec d num scope trapping) addr v) s
    let done (t : State) : State := { t with fabric := put t.fabric who (seq + 1) }
    let legal : Prop := src.extractLsb' 12 6 = r.pkg ∧ BitVec.ofNat 6 (d.toNat / 2 ^ 12) = s.pkg ∧ legalMsg s rec d
    let m := foreignMessage r src gen ptid rec d num scope trapping
    (¬ legal → out = .next (done s)) ∧
    (legal → out = .next (done { s with flights := s.flights ++ [⟨coreOfHloc m.dst, m⟩] }))) ∧
  (∀ (s : State) (who addr hart : Nat) (v : Word) (r : RemotePart) (dst : BitVec 18) (num : W32) (a : MsgAnswer),
    s.remotes[who % 4096]? = some r → s.routed = true → s.overfull = false →
    let seq := look s.fabric who 0
    let out := exec (.fabricRemoteOperation who seq (.answer hart dst num a) addr v) s
    let about := s.outMsgs.find? (fun m => m.src = hart && m.dst = dst && m.seq = num)
    let done (t : State) : Prop := out = .next t ∧ look t.fabric who 0 = seq + 1 ∧ t.mem = s.mem
    let nothing : Prop := out = .next { s with fabric := put s.fabric who (seq + 1) }
    (dst.extractLsb' 12 6 ≠ r.pkg → nothing) ∧
    (dst.extractLsb' 12 6 = r.pkg →
      (a = .notice → ∃ t, done t ∧ ∀ e ∈ (t.hart hart).sendQ, destOf e.msg.dst = destOf dst → e.isRefused = false) ∧
      (a ≠ .notice → about = none → nothing) ∧
      (∀ m, about = some m →
        (a = .accepted → ∃ t, done t ∧ ∀ e ∈ entriesOf t m, e.state = .outcome ∨ (m.trapping = true ∧ e.state = .accepted)) ∧
        (∀ u, a = .refused u → ∃ t, done t ∧ ∀ e ∈ entriesOf t m, e.settled = true ∨ e.state = .refused u) ∧
        (∀ status cause, a = .ended status cause → m.cpl = 0 → m.srcPkg = s.pkg →
          (status ≠ 2 ∧ status ≠ 3) ∨ m.trapping = false →
          ∃ t, done t ∧ EntryEnds t m ∧ ∀ n ∈ t.outMsgs, n.same m = false))))

namespace Sys2Proof.Spec

/-- The Orrery core that hears of link l: core 0 of its I/O die. -/
def linkCore (l : Nat) : Nat := 3936 + 4 * (l / 8)

/-- The core has trapped to M mode with a cause that names link l (R322, R351, R366). -/
def linkTrap (s t : State) (l : Nat) (cause : BitVec 8) : Prop :=
  let e := mEntry (s.hart (linkCore l)) false cause (BitVec.ofNat 64 l)
  (t.hart (linkCore l)).pc = e.pc ∧ (t.hart (linkCore l)).mc = e.mc ∧ (t.hart (linkCore l)).x = e.x

/-- A stage's image is run: it is verified, and its security version is not below the fused one (R352). -/
def stageRuns (s : State) (img : BootImages) (i : Nat) : Prop :=
  img.verified[i - 1]?.getD false = true ∧ s.fuseVer ≤ img.version[i - 1]?.getD 0

/-- A measurement extends a register (R353). -/
def extends_ (s t : State) (i : Nat) (d : BitVec 512) : Prop := look t.meas i 0 = Config.sha512 [look s.meas i 0, d]

/-- Stage i's digest and security version extend its register (R353). -/
def stageMeasured (s t : State) (img : BootImages) (i : Nat) : Prop :=
  extends_ s t (1 + i) (Config.sha512 [img.digest[i - 1]?.getD 0, BitVec.ofNat 512 (img.version[i - 1]?.getD 0)])

/-- The bytes of stage i's image are in tier memory, where the image gives each address once (R352). -/
def stageLoaded (s t : State) (img : BootImages) (i : Nat) : Prop :=
  let l := img.load[i - 1]?.getD []
  l.Pairwise (fun a b => a.1 ≠ b.1) → ∀ e ∈ l, s.region none e.1 = .tier → Memory.get t.mem e.1 = e.2

/-- Flits have passed on link l: each direction's nonce counter is not behind what it was and below 2^48 (R351), and nothing
else of the links has changed. -/
def flitsPassed (s t : State) (l : Nat) : Prop :=
  (∀ m < 16, m ≠ l → t.link m = s.link m) ∧ t.link l = { s.link l with dirs := (t.link l).dirs } ∧
    ∀ d < 2, let x := (s.link l).dir d
      (t.link l).dir d = { x with nonce := ((t.link l).dir d).nonce } ∧ ((t.link l).dir d).nonce < 2 ^ 48 ∧
        (x.nonce < 2 ^ 48 → x.nonce ≤ ((t.link l).dir d).nonce)

/-- Reset: what the package's reset leaves (R20, R349); what belongs to the module and to the outside stays. -/
def wasReset (s t : State) : Prop :=
  t.boot = .off ∧ t.parts = State.reset.parts ∧ t.harts = State.reset.harts ∧ t.cores = State.reset.cores ∧
    t.clusters = State.reset.clusters ∧ t.agents = State.reset.agents ∧ t.orr = State.reset.orr ∧
    t.hostPages = [] ∧ t.meas = [] ∧ t.devKeyGen = s.devKeyGen + 1 ∧ t.form = s.form ∧ t.pkg = s.pkg ∧
    (∀ a, pkgOf a = s.pkg.toNat → (∀ p, s.region none a ≠ .aperture p) → Memory.get t.mem a = 0) ∧
    (Memory.wf s.mem = true → ∀ a, pkgOf a ≠ s.pkg.toNat → Memory.get t.mem a = Memory.get s.mem a)

end Sys2Proof.Spec

/-- Links, power, reset, boot and management. R351: a flit that fails its tag is 0xB1 at Orrery, and ERROR for the partition
whose key failed; one that only fails its CRC passes. R366: a retraining drops the lane, the link going on at half width or
down, with 0xD4 at Orrery; a key update restarts the direction's nonces. Keys are installed for a locked or running tenant, a
direction each. Throttled cycles are counted and nothing else moves (R17); a core rail lies between 450 and 620 mV, and the
module's power below 1,600 W (R16). Reset zeroes the package (R20). Boot runs the stages one after another, each verified,
measured, loaded and run, and stops with a report at the first that is not (R352, R353). Which Orrery core hears of a link
(log 69), what keys a route has (log 67), that nonces restart at 0 and how many flits pass (log 70), what stays over a reset
(log 73), and what a stage's measurement holds and when it is made (log 74) are the model's choices. -/
def Obligations.LinksPowerBootAndManagement : Prop :=
  open Sys2Proof Sys2Proof.Machine Sys2Proof.Spec in
  (∀ (s : State) (l q : Nat) (tag : Bool), l < 16 →
    let keyed : Prop := ∃ e ∈ ((s.link l).dir 1).keys, e.1 = q
    ((s.link l).up = false ∨ (tag = true ∧ q ≠ 8 ∧ ¬ keyed) → exec (.flitFailure l q tag) s = .next s) ∧
    ((s.link l).up = true → tag = false → ∃ t, exec (.flitFailure l q tag) s = .next t ∧ flitsPassed s t l ∧
      t.harts = s.harts ∧ t.parts = s.parts ∧ t.mem = s.mem) ∧
    ((s.link l).up = true → tag = true → q = 8 ∨ keyed → ∃ t, exec (.flitFailure l q tag) s = .next t ∧ flitsPassed s t l ∧
      linkTrap s t l 0xB1 ∧ t.mem = s.mem ∧ (q = 8 → t.parts = s.parts) ∧
      (q < 8 → (s.part q).pstate = 2 → (t.part q).pstate = 3 ∧ (t.part q).reason = 2))) ∧
  (∀ (s : State) (l lane : Nat), l < 16 → s.overfull = false →
    let left := (s.link l).lanes.filter (· ≠ lane)
    let works : Prop := (s.link l).up = true ∧ lane ∈ (s.link l).lanes
    let lastRoute : Prop := left = [] ∧ ∀ m < 16, m ≠ l → (s.link m).up = false
    (¬ works → exec (.linkRetrain l lane) s = .next s) ∧
    (works → ∃ t, exec (.linkRetrain l lane) s = .next t ∧
      ((t = s ∧ lastRoute ∧ (s.outMsgs ≠ [] ∨ ∃ e ∈ s.harts, e.2.sendQ ≠ [])) ∨
       (linkTrap s t l 0xD4 ∧ (lastRoute → t.outMsgs = []) ∧
        t.link l = { s.link l with lanes := left, half := true, up := decide (left ≠ []), dirs := (t.link l).dirs } ∧
        ∀ m < 16, m ≠ l → t.link m = s.link m)))) ∧
  (∀ (s : State) (l dir : Nat), l < 16 → dir < 2 →
    ((s.link l).up = false → exec (.keyUpdate l dir) s = .next s) ∧
    ((s.link l).up = true → ∃ t, exec (.keyUpdate l dir) s = .next t ∧ t.mem = s.mem ∧ t.harts = s.harts ∧
      ((t.link l).dir dir).rekeys = ((s.link l).dir dir).rekeys + 1 ∧ ((t.link l).dir dir).nonce = 0 ∧
      ((t.link l).dir (1 - dir)).rekeys = ((s.link l).dir (1 - dir)).rekeys)) ∧
  (∀ (s : State) (q l : Nat) (secret : Word), l < 16 →
    let may : Prop := (s.part q).ptid ≠ 0 ∧ ((s.part q).pstate = 1 ∨ (s.part q).pstate = 2)
    (¬ may → exec (.linkKeyInstall q l secret) s = .next s) ∧
    (may → ∃ t, exec (.linkKeyInstall q l secret) s = .next t ∧ t.parts = s.parts ∧ t.mem = s.mem ∧
      (∀ d < 2, look ((t.link l).dir d).keys q 0 = Config.linkKey secret (s.part q).ptid l d) ∧
      ∀ r ∈ t.remotes, r.ptid = (s.part q).ptid → r.keyed = true)) ∧
  (∀ (s : State) (die n : Nat), die < 4 →
    (exec (.coreThrottle die n) s = .next { s with sstop := s.sstop.setIfInBounds die (s.sstop[die]?.getD 0 + BitVec.ofNat 64 n) }) ∧
    ∃ v, 450 ≤ v ∧ v ≤ 620 ∧ (450 ≤ Config.railFor die n → Config.railFor die n ≤ 620 → v = Config.railFor die n) ∧
      exec (.coreRailSetting die n) s = .next { s with rails := s.rails.setIfInBounds die v }) ∧
  (∀ s : State, ∃ t, exec .deviceReset s = .next t ∧ exec .mgmtResetRequest s = .next t ∧ wasReset s t) ∧
  (∀ (s : State) (img : BootImages),
    let out := exec (.boot img) s
    let fails (i : Nat) : Prop := ∃ t, out = .next t ∧ t.boot = .failed i ∧ t.mgmt = s.mgmt ++ [.bootFailed i] ∧
      t.harts = s.harts ∧ t.mem = s.mem
    let runs (i : Nat) (t : State) : Prop := out = .next t ∧ stageMeasured s t img i ∧ (Memory.wf s.mem = true → stageLoaded s t img i)
    let rom (t : State) : Prop := extends_ s t 1 Config.romDigest ∧
      extends_ s t 5 (Config.sha512 [BitVec.ofNat 512 s.fuseVer, Config.debugFuses]) ∧
      extends_ s t 6 (Config.sha512 [s.form.setWidth 512, Config.enabled])
    ((s.boot = .running ∨ ∃ i, s.boot = .failed i) → out = .next s) ∧
    (s.boot = .off → ¬ stageRuns s img 1 → fails 1) ∧
    (s.boot = .off → stageRuns s img 1 → ∃ t, runs 1 t ∧ rom t ∧ t.boot = .loader ∧ (t.hart 3936).pc = img.loaderPc) ∧
    (s.boot = .loader → ¬ stageRuns s img 2 → fails 2) ∧
    (s.boot = .loader → stageRuns s img 2 → ∃ t, runs 2 t ∧ t.boot = .orrery ∧
      ∀ k, 3936 ≤ k → k < 3944 → (t.hart k).pc = img.orrPc) ∧
    (s.boot = .orrery → ¬ stageRuns s img 3 → fails 3) ∧
    (s.boot = .orrery → stageRuns s img 3 → ∃ t, runs 3 t ∧ t.boot = .running ∧
      ∀ g < 48, (t.hart (3888 + g)).pc = img.lodePc)) ∧
  (∀ (s : State) (n : Nat),
    ((1 ≤ n ∧ n ≤ 6) ∨ (16 ≤ n ∧ n < 24) →
      exec (.getMeasurements n) s = .next { s with mgmt := s.mgmt ++ [.measurements n (look s.meas n 0)] }) ∧
    (¬ ((1 ≤ n ∧ n ≤ 6) ∨ (16 ≤ n ∧ n < 24)) → exec (.getMeasurements n) s = .next s) ∧
    exec .mgmtReadIdentity s = .next { s with mgmt := s.mgmt ++ [.identity s.form 0 0x4B4C 1
      (Config.aliasCert [look s.meas 1 0, look s.meas 2 0, look s.meas 3 0, look s.meas 4 0])] } ∧
    (∃ t temps power, exec .mgmtReadTelemetry s = .next t ∧ t.harts = s.harts ∧ t.mem = s.mem ∧
      power ≤ 1600 ∧ t.mgmt = s.mgmt ++ [.telemetry temps s.rails.toList power s.sstop.toList s.corrected.toList]))

namespace Sys2Proof.Spec

open Sys2Proof.Machine Sys2Proof.Machine.Gydas

/-- The fields of the word that a relocation leaves (R68). -/
def patched (r : Rel) (x : Int) (w : W32) : Fields := Fields.ofWord (BitVec.ofNat 32 (r.patch x w.toNat))

/-- The relocations that act on a section of an object. -/
def actsOn (p : Placed) (s : Sect) (r : ObjRel) : Prop := r ∈ p.obj.rels ∧ r.sec = s.name ∧ r.rel ≠ .none

/-- Every section has an address, and every field lies inside its section. -/
def laidOut (all : List Placed) : Prop :=
  ∀ p ∈ all, ∀ s ∈ p.obj.sects, (∃ a, p.addr s.name 0 = some a) ∧
    ∀ r, actsOn p s r → r.off + r.rel.size ≤ s.bytes.length

/-- The n bytes of a file from byte i, little-endian. -/
def leAt (l : List Byte) (i : Nat) : Nat → Nat
  | 0 => 0
  | n + 1 => (l.getD i 0).toNat + 256 * leAt l (i + 1) n

/-- The header of an ELF64 file of this machine with its `e_flags` (R65). -/
def krylasElf (b : List Byte) (flags : Nat) : Prop :=
  b.take 6 = [0x7F, 0x45, 0x4C, 0x46, 2, 1] ∧ leAt b 18 2 = 0x4B4C ∧ leAt b 48 4 = flags % 2 ^ 32

end Sys2Proof.Spec

/-- R63: `li rd, imm` is one `addi` for −2,048 to 2,047, and otherwise within signed 32 bits `lui` and `addiw`; running them
leaves `imm` in `rd` and changes nothing else (`Spec.wentOn`). Outside signed 32 bits it is an error. -/
def Sys2Proof.Spec.LiLeavesItsValue : Prop :=
  open Sys2Proof Sys2Proof.Machine Sys2Proof.Machine.Gydas Sys2Proof.Spec in
  ∀ (rd : BitVec 5) (imm : Int),
    ((imm < -2 ^ 31 ∨ 2 ^ 31 ≤ imm) → liWords rd.toNat imm = none) ∧
    (-2048 ≤ imm → imm ≤ 2047 → ∃ w lo, liWords rd.toNat imm = some [w] ∧ decode false w = .ok (.addi rd 0 lo) ∧
      ∀ s : State, exec (.addi rd 0 lo) s = .next (wentOn s rd (BitVec.ofInt 64 imm))) ∧
    (-2 ^ 31 ≤ imm → imm < 2 ^ 31 → (imm < -2048 ∨ 2047 < imm) → ∃ w₁ w₂ hi lo, liWords rd.toNat imm = some [w₁, w₂] ∧
      decode false w₁ = .ok (.lui rd hi) ∧ decode false w₂ = .ok (.addiw rd rd lo) ∧
      ∀ s : State, ∃ t v, t = wentOn s rd v ∧ exec (.lui rd hi) s = .next t ∧
        exec (.addiw rd rd lo) t = .next (wentOn t rd (BitVec.ofInt 64 imm)))

/-- R68: where a value fits, the immediate of the patched word is the value, the word's other fields stay as they were, and
the upper and the lower half of a pair give the value together; data fields hold the value in their width. -/
def Sys2Proof.Spec.RelocatedFieldsHoldTheirValue : Prop :=
  open Sys2Proof Sys2Proof.Machine Sys2Proof.Machine.Gydas Sys2Proof.Spec in
  ∀ (x : Int) (w u : W32),
    let f := Fields.ofWord w
    (Rel.branch.fits x = true → let g := patched .branch x w
      2 * g.immB.toInt = x ∧ g.op = f.op ∧ g.f3 = f.f3 ∧ g.rs1 = f.rs1 ∧ g.rs2 = f.rs2) ∧
    (Rel.jal.fits x = true → let g := patched .jal x w
      2 * g.immJ.toInt = x ∧ g.op = f.op ∧ g.rd = f.rd) ∧
    (∀ h l, (h = Rel.pcrelHi20 ∧ l = Rel.pcrelLo12I ∨ h = Rel.hi20 ∧ l = Rel.lo12I) → h.fits x = true →
      (patched h x w).immU.toInt * 4096 + (patched l x u).immI.toInt = x ∧
      (patched h x w).op = f.op ∧ (patched h x w).rd = f.rd ∧
      (let g := Fields.ofWord u
       (patched l x u).op = g.op ∧ (patched l x u).rd = g.rd ∧ (patched l x u).f3 = g.f3 ∧ (patched l x u).rs1 = g.rs1)) ∧
    (∀ h l, (h = Rel.pcrelHi20 ∧ l = Rel.pcrelLo12S ∨ h = Rel.hi20 ∧ l = Rel.lo12S) → h.fits x = true →
      (patched h x w).immU.toInt * 4096 + (patched l x u).immS.toInt = x ∧
      (let g := Fields.ofWord u
       (patched l x u).op = g.op ∧ (patched l x u).f3 = g.f3 ∧ (patched l x u).rs1 = g.rs1 ∧ (patched l x u).rs2 = g.rs2)) ∧
    (Rel.call.fits x = true → let v := Rel.call.patch x (w.toNat + u.toNat * 2 ^ 32)
      let a := Fields.ofWord (BitVec.ofNat 32 v)
      let b := Fields.ofWord (BitVec.ofNat 32 (v / 2 ^ 32))
      a.immU.toInt * 4096 + b.immI.toInt = x ∧ a.op = f.op ∧ a.rd = f.rd ∧
      b.op = (Fields.ofWord u).op ∧ b.rd = (Fields.ofWord u).rd ∧ b.rs1 = (Fields.ofWord u).rs1) ∧
    (Rel.abs32.fits x = true → BitVec.ofNat 32 (Rel.abs32.patch x w.toNat) = BitVec.ofInt 32 x) ∧
    BitVec.ofNat 64 (Rel.abs64.patch x w.toNat) = BitVec.ofInt 64 x ∧
    BitVec.ofNat 64 (Rel.task64.patch x w.toNat) = BitVec.ofInt 64 x

/-- R65, R68, R69: gydas and gydld write ELF64 files, little-endian, for machine 0x4B4C, with the extensions used in `e_flags`,
and relocations by their numbers as Elf64_Rela records; how the file is laid out besides is the model's choice (log 87). An
undefined symbol, a value that does not fit its field and a condition that fails reject the whole, and the
error names the type, the section and offset, the symbol and the value of a failing relocation; otherwise every section
comes out in its length. An object that sets Xlfw together with Xlgfx is rejected. Where sections lie is given to the
linker (`Spec.laidOut`, log 88). -/
def Obligations.LinkingRejectsWhatDoesNotFit : Prop :=
  open Sys2Proof Sys2Proof.Machine Sys2Proof.Machine.Gydas Sys2Proof.Spec in
  (∀ o : Object, krylasElf o.elf o.eFlags) ∧
  (∀ (all : List Placed), (∀ e, link all = .error e → gydld all = .error e) ∧
    (∀ out, link all = .ok out → ∃ b, gydld all = .ok b ∧
      krylasElf b (all.foldl (fun f p => f ||| p.obj.eFlags) 0))) ∧
  [Rel.none, .abs64, .abs32, .branch, .jal, .call, .pcrelHi20, .pcrelLo12I, .pcrelLo12S, .hi20, .lo12I, .lo12S,
    .task64].map Rel.number = List.range 13 ∧
  (∀ (r : ObjRel) (sym : Nat), sym < 2 ^ 32 → (r.record sym).length = 24 ∧ leAt (r.record sym) 0 8 = r.off % 2 ^ 64 ∧
    leAt (r.record sym) 8 4 = r.rel.number ∧ leAt (r.record sym) 12 4 = sym ∧
    leAt (r.record sym) 16 8 = r.addend.toNat % 2 ^ 64) ∧
  (∀ (all : List Placed), (∃ p ∈ all, p.obj.eFlags &&& 20 = 20) → link all = .error .flags) ∧
  (∀ (all : List Placed), (∀ p ∈ all, p.obj.eFlags &&& 20 ≠ 20) → laidOut all →
    ((∀ p ∈ all, ∀ s ∈ p.obj.sects, ∀ r, actsOn p s r → ∃ x, fieldValue all p r = .ok x) →
      ∃ out, link all = .ok out ∧
        out.map (fun o => o.2.length) = (all.flatMap (fun p => p.obj.sects)).map (fun s => s.bytes.length)) ∧
    ((∃ p ∈ all, ∃ s ∈ p.obj.sects, ∃ r, actsOn p s r ∧ ∃ v, fieldValue all p r = .error v) →
      ∃ p ∈ all, ∃ s ∈ p.obj.sects, ∃ r, actsOn p s r ∧ ∃ v, fieldValue all p r = .error v ∧
        link all = .error (.reloc r.rel r.sec r.off r.sym v))) ∧
  (∀ (all : List Placed) (p : Placed) (r : ObjRel),
    (refDef all p r.sym = none → fieldValue all p r = .error none) ∧
    (∀ x, fieldValue all p r = .ok x → r.rel.fits x = true) ∧
    (∀ x, relValue all p r = some x → r.rel.fits x = false → fieldValue all p r = .error (some x)))

/-- R119: the value of each special function, where the operand is none of those the table lists, rounds as the exact value
does in every mode and with the same flags: it compares as that does with every number of the format widened by one bit. That
one of the model's five precisions decides each irrational value is PRESUMED (assumption log 13), and a premise here. -/
def Obligations.SpecialFunctionsRoundAsTheirExactValue : Prop := Sys2Proof.Spec.SpecialValuesAreExact

/-- R63, R68: the values that gydas and gydld leave. -/
def Obligations.LiAndRelocationsLeaveTheirValue : Prop :=
  Sys2Proof.Spec.LiLeavesItsValue ∧ Sys2Proof.Spec.RelocatedFieldsHoldTheirValue
end

