-- ==== Sys2Proof/Laws/State.lean ====
section
/-!
SUPPORT. Laws/State.lean: what each update of the state leaves of each field, what reading a part gives after an
update of it, and the keyed lists.
-/

namespace Sys2Proof.Machine

/-! ### `setHart` -/

@[simp] theorem State.setHart_mem (s : State) (k : Nat) (h : Hart) : (s.setHart k h).mem = s.mem := rfl
@[simp] theorem State.setHart_cores (s : State) (k : Nat) (h : Hart) : (s.setHart k h).cores = s.cores := rfl
@[simp] theorem State.setHart_clusters (s : State) (k : Nat) (h : Hart) : (s.setHart k h).clusters = s.clusters := rfl
@[simp] theorem State.setHart_agents (s : State) (k : Nat) (h : Hart) : (s.setHart k h).agents = s.agents := rfl
@[simp] theorem State.setHart_parts (s : State) (k : Nat) (h : Hart) : (s.setHart k h).parts = s.parts := rfl
@[simp] theorem State.setHart_orr (s : State) (k : Nat) (h : Hart) : (s.setHart k h).orr = s.orr := rfl
@[simp] theorem State.setHart_links (s : State) (k : Nat) (h : Hart) : (s.setHart k h).links = s.links := rfl
@[simp] theorem State.setHart_remotes (s : State) (k : Nat) (h : Hart) : (s.setHart k h).remotes = s.remotes := rfl
@[simp] theorem State.setHart_tlb (s : State) (k : Nat) (h : Hart) : (s.setHart k h).tlb = s.tlb := rfl
@[simp] theorem State.setHart_savedNotes (s : State) (k : Nat) (h : Hart) : (s.setHart k h).savedNotes = s.savedNotes := rfl
@[simp] theorem State.setHart_begins (s : State) (k : Nat) (h : Hart) : (s.setHart k h).begins = s.begins := rfl
@[simp] theorem State.setHart_comets (s : State) (k : Nat) (h : Hart) : (s.setHart k h).comets = s.comets := rfl
@[simp] theorem State.setHart_flights (s : State) (k : Nat) (h : Hart) : (s.setHart k h).flights = s.flights := rfl
@[simp] theorem State.setHart_outMsgs (s : State) (k : Nat) (h : Hart) : (s.setHart k h).outMsgs = s.outMsgs := rfl
@[simp] theorem State.setHart_replies (s : State) (k : Nat) (h : Hart) : (s.setHart k h).replies = s.replies := rfl
@[simp] theorem State.setHart_hostPages (s : State) (k : Nat) (h : Hart) : (s.setHart k h).hostPages = s.hostPages := rfl
@[simp] theorem State.setHart_poisoned (s : State) (k : Nat) (h : Hart) : (s.setHart k h).poisoned = s.poisoned := rfl
@[simp] theorem State.setHart_badTags (s : State) (k : Nat) (h : Hart) : (s.setHart k h).badTags = s.badTags := rfl
@[simp] theorem State.setHart_corrected (s : State) (k : Nat) (h : Hart) : (s.setHart k h).corrected = s.corrected := rfl
@[simp] theorem State.setHart_domain (s : State) (k : Nat) (h : Hart) : (s.setHart k h).domain = s.domain := rfl
@[simp] theorem State.setHart_form (s : State) (k : Nat) (h : Hart) : (s.setHart k h).form = s.form := rfl
@[simp] theorem State.setHart_pkg (s : State) (k : Nat) (h : Hart) : (s.setHart k h).pkg = s.pkg := rfl
@[simp] theorem State.setHart_twoHosts (s : State) (k : Nat) (h : Hart) : (s.setHart k h).twoHosts = s.twoHosts := rfl
@[simp] theorem State.setHart_cap1 (s : State) (k : Nat) (h : Hart) : (s.setHart k h).cap1 = s.cap1 := rfl
@[simp] theorem State.setHart_cap2 (s : State) (k : Nat) (h : Hart) : (s.setHart k h).cap2 = s.cap2 := rfl
@[simp] theorem State.setHart_rails (s : State) (k : Nat) (h : Hart) : (s.setHart k h).rails = s.rails := rfl
@[simp] theorem State.setHart_sstop (s : State) (k : Nat) (h : Hart) : (s.setHart k h).sstop = s.sstop := rfl
@[simp] theorem State.setHart_meas (s : State) (k : Nat) (h : Hart) : (s.setHart k h).meas = s.meas := rfl
@[simp] theorem State.setHart_fuseVer (s : State) (k : Nat) (h : Hart) : (s.setHart k h).fuseVer = s.fuseVer := rfl
@[simp] theorem State.setHart_boot (s : State) (k : Nat) (h : Hart) : (s.setHart k h).boot = s.boot := rfl
@[simp] theorem State.setHart_devKeyGen (s : State) (k : Nat) (h : Hart) : (s.setHart k h).devKeyGen = s.devKeyGen := rfl
@[simp] theorem State.setHart_mgmt (s : State) (k : Nat) (h : Hart) : (s.setHart k h).mgmt = s.mgmt := rfl
@[simp] theorem State.setHart_hostOut (s : State) (k : Nat) (h : Hart) : (s.setHart k h).hostOut = s.hostOut := rfl
@[simp] theorem State.setHart_fabric (s : State) (k : Nat) (h : Hart) : (s.setHart k h).fabric = s.fabric := rfl
@[simp] theorem State.setHart_cur (s : State) (k : Nat) (h : Hart) : (s.setHart k h).cur = s.cur := rfl
@[simp] theorem State.setHart_ir (s : State) (k : Nat) (h : Hart) : (s.setHart k h).ir = s.ir := rfl
@[simp] theorem State.setHart_focus (s : State) (k : Nat) (h : Hart) : (s.setHart k h).focus = s.focus := rfl
@[simp] theorem State.setHart_agenda (s : State) (k : Nat) (h : Hart) : (s.setHart k h).agenda = s.agenda := rfl
@[simp] theorem State.setHart_free (s : State) (k : Nat) (h : Hart) : (s.setHart k h).free = s.free := rfl

/-! ### `setCore` -/

@[simp] theorem State.setCore_mem (s : State) (c : Nat) (x : Core) : (s.setCore c x).mem = s.mem := rfl
@[simp] theorem State.setCore_harts (s : State) (c : Nat) (x : Core) : (s.setCore c x).harts = s.harts := rfl
@[simp] theorem State.setCore_clusters (s : State) (c : Nat) (x : Core) : (s.setCore c x).clusters = s.clusters := rfl
@[simp] theorem State.setCore_agents (s : State) (c : Nat) (x : Core) : (s.setCore c x).agents = s.agents := rfl
@[simp] theorem State.setCore_parts (s : State) (c : Nat) (x : Core) : (s.setCore c x).parts = s.parts := rfl
@[simp] theorem State.setCore_orr (s : State) (c : Nat) (x : Core) : (s.setCore c x).orr = s.orr := rfl
@[simp] theorem State.setCore_links (s : State) (c : Nat) (x : Core) : (s.setCore c x).links = s.links := rfl
@[simp] theorem State.setCore_remotes (s : State) (c : Nat) (x : Core) : (s.setCore c x).remotes = s.remotes := rfl
@[simp] theorem State.setCore_tlb (s : State) (c : Nat) (x : Core) : (s.setCore c x).tlb = s.tlb := rfl
@[simp] theorem State.setCore_savedNotes (s : State) (c : Nat) (x : Core) : (s.setCore c x).savedNotes = s.savedNotes := rfl
@[simp] theorem State.setCore_begins (s : State) (c : Nat) (x : Core) : (s.setCore c x).begins = s.begins := rfl
@[simp] theorem State.setCore_comets (s : State) (c : Nat) (x : Core) : (s.setCore c x).comets = s.comets := rfl
@[simp] theorem State.setCore_flights (s : State) (c : Nat) (x : Core) : (s.setCore c x).flights = s.flights := rfl
@[simp] theorem State.setCore_outMsgs (s : State) (c : Nat) (x : Core) : (s.setCore c x).outMsgs = s.outMsgs := rfl
@[simp] theorem State.setCore_replies (s : State) (c : Nat) (x : Core) : (s.setCore c x).replies = s.replies := rfl
@[simp] theorem State.setCore_hostPages (s : State) (c : Nat) (x : Core) : (s.setCore c x).hostPages = s.hostPages := rfl
@[simp] theorem State.setCore_poisoned (s : State) (c : Nat) (x : Core) : (s.setCore c x).poisoned = s.poisoned := rfl
@[simp] theorem State.setCore_badTags (s : State) (c : Nat) (x : Core) : (s.setCore c x).badTags = s.badTags := rfl
@[simp] theorem State.setCore_corrected (s : State) (c : Nat) (x : Core) : (s.setCore c x).corrected = s.corrected := rfl
@[simp] theorem State.setCore_domain (s : State) (c : Nat) (x : Core) : (s.setCore c x).domain = s.domain := rfl
@[simp] theorem State.setCore_form (s : State) (c : Nat) (x : Core) : (s.setCore c x).form = s.form := rfl
@[simp] theorem State.setCore_pkg (s : State) (c : Nat) (x : Core) : (s.setCore c x).pkg = s.pkg := rfl
@[simp] theorem State.setCore_twoHosts (s : State) (c : Nat) (x : Core) : (s.setCore c x).twoHosts = s.twoHosts := rfl
@[simp] theorem State.setCore_cap1 (s : State) (c : Nat) (x : Core) : (s.setCore c x).cap1 = s.cap1 := rfl
@[simp] theorem State.setCore_cap2 (s : State) (c : Nat) (x : Core) : (s.setCore c x).cap2 = s.cap2 := rfl
@[simp] theorem State.setCore_rails (s : State) (c : Nat) (x : Core) : (s.setCore c x).rails = s.rails := rfl
@[simp] theorem State.setCore_sstop (s : State) (c : Nat) (x : Core) : (s.setCore c x).sstop = s.sstop := rfl
@[simp] theorem State.setCore_meas (s : State) (c : Nat) (x : Core) : (s.setCore c x).meas = s.meas := rfl
@[simp] theorem State.setCore_fuseVer (s : State) (c : Nat) (x : Core) : (s.setCore c x).fuseVer = s.fuseVer := rfl
@[simp] theorem State.setCore_boot (s : State) (c : Nat) (x : Core) : (s.setCore c x).boot = s.boot := rfl
@[simp] theorem State.setCore_devKeyGen (s : State) (c : Nat) (x : Core) : (s.setCore c x).devKeyGen = s.devKeyGen := rfl
@[simp] theorem State.setCore_mgmt (s : State) (c : Nat) (x : Core) : (s.setCore c x).mgmt = s.mgmt := rfl
@[simp] theorem State.setCore_hostOut (s : State) (c : Nat) (x : Core) : (s.setCore c x).hostOut = s.hostOut := rfl
@[simp] theorem State.setCore_fabric (s : State) (c : Nat) (x : Core) : (s.setCore c x).fabric = s.fabric := rfl
@[simp] theorem State.setCore_cur (s : State) (c : Nat) (x : Core) : (s.setCore c x).cur = s.cur := rfl
@[simp] theorem State.setCore_ir (s : State) (c : Nat) (x : Core) : (s.setCore c x).ir = s.ir := rfl
@[simp] theorem State.setCore_focus (s : State) (c : Nat) (x : Core) : (s.setCore c x).focus = s.focus := rfl
@[simp] theorem State.setCore_agenda (s : State) (c : Nat) (x : Core) : (s.setCore c x).agenda = s.agenda := rfl
@[simp] theorem State.setCore_free (s : State) (c : Nat) (x : Core) : (s.setCore c x).free = s.free := rfl

/-! ### `setCluster` -/

@[simp] theorem State.setCluster_mem (s : State) (g : Nat) (x : Cluster) : (s.setCluster g x).mem = s.mem := rfl
@[simp] theorem State.setCluster_harts (s : State) (g : Nat) (x : Cluster) : (s.setCluster g x).harts = s.harts := rfl
@[simp] theorem State.setCluster_cores (s : State) (g : Nat) (x : Cluster) : (s.setCluster g x).cores = s.cores := rfl
@[simp] theorem State.setCluster_agents (s : State) (g : Nat) (x : Cluster) : (s.setCluster g x).agents = s.agents := rfl
@[simp] theorem State.setCluster_parts (s : State) (g : Nat) (x : Cluster) : (s.setCluster g x).parts = s.parts := rfl
@[simp] theorem State.setCluster_orr (s : State) (g : Nat) (x : Cluster) : (s.setCluster g x).orr = s.orr := rfl
@[simp] theorem State.setCluster_links (s : State) (g : Nat) (x : Cluster) : (s.setCluster g x).links = s.links := rfl
@[simp] theorem State.setCluster_remotes (s : State) (g : Nat) (x : Cluster) : (s.setCluster g x).remotes = s.remotes := rfl
@[simp] theorem State.setCluster_tlb (s : State) (g : Nat) (x : Cluster) : (s.setCluster g x).tlb = s.tlb := rfl
@[simp] theorem State.setCluster_savedNotes (s : State) (g : Nat) (x : Cluster) : (s.setCluster g x).savedNotes = s.savedNotes := rfl
@[simp] theorem State.setCluster_begins (s : State) (g : Nat) (x : Cluster) : (s.setCluster g x).begins = s.begins := rfl
@[simp] theorem State.setCluster_comets (s : State) (g : Nat) (x : Cluster) : (s.setCluster g x).comets = s.comets := rfl
@[simp] theorem State.setCluster_flights (s : State) (g : Nat) (x : Cluster) : (s.setCluster g x).flights = s.flights := rfl
@[simp] theorem State.setCluster_outMsgs (s : State) (g : Nat) (x : Cluster) : (s.setCluster g x).outMsgs = s.outMsgs := rfl
@[simp] theorem State.setCluster_replies (s : State) (g : Nat) (x : Cluster) : (s.setCluster g x).replies = s.replies := rfl
@[simp] theorem State.setCluster_hostPages (s : State) (g : Nat) (x : Cluster) : (s.setCluster g x).hostPages = s.hostPages := rfl
@[simp] theorem State.setCluster_poisoned (s : State) (g : Nat) (x : Cluster) : (s.setCluster g x).poisoned = s.poisoned := rfl
@[simp] theorem State.setCluster_badTags (s : State) (g : Nat) (x : Cluster) : (s.setCluster g x).badTags = s.badTags := rfl
@[simp] theorem State.setCluster_corrected (s : State) (g : Nat) (x : Cluster) : (s.setCluster g x).corrected = s.corrected := rfl
@[simp] theorem State.setCluster_domain (s : State) (g : Nat) (x : Cluster) : (s.setCluster g x).domain = s.domain := rfl
@[simp] theorem State.setCluster_form (s : State) (g : Nat) (x : Cluster) : (s.setCluster g x).form = s.form := rfl
@[simp] theorem State.setCluster_pkg (s : State) (g : Nat) (x : Cluster) : (s.setCluster g x).pkg = s.pkg := rfl
@[simp] theorem State.setCluster_twoHosts (s : State) (g : Nat) (x : Cluster) : (s.setCluster g x).twoHosts = s.twoHosts := rfl
@[simp] theorem State.setCluster_cap1 (s : State) (g : Nat) (x : Cluster) : (s.setCluster g x).cap1 = s.cap1 := rfl
@[simp] theorem State.setCluster_cap2 (s : State) (g : Nat) (x : Cluster) : (s.setCluster g x).cap2 = s.cap2 := rfl
@[simp] theorem State.setCluster_rails (s : State) (g : Nat) (x : Cluster) : (s.setCluster g x).rails = s.rails := rfl
@[simp] theorem State.setCluster_sstop (s : State) (g : Nat) (x : Cluster) : (s.setCluster g x).sstop = s.sstop := rfl
@[simp] theorem State.setCluster_meas (s : State) (g : Nat) (x : Cluster) : (s.setCluster g x).meas = s.meas := rfl
@[simp] theorem State.setCluster_fuseVer (s : State) (g : Nat) (x : Cluster) : (s.setCluster g x).fuseVer = s.fuseVer := rfl
@[simp] theorem State.setCluster_boot (s : State) (g : Nat) (x : Cluster) : (s.setCluster g x).boot = s.boot := rfl
@[simp] theorem State.setCluster_devKeyGen (s : State) (g : Nat) (x : Cluster) : (s.setCluster g x).devKeyGen = s.devKeyGen := rfl
@[simp] theorem State.setCluster_mgmt (s : State) (g : Nat) (x : Cluster) : (s.setCluster g x).mgmt = s.mgmt := rfl
@[simp] theorem State.setCluster_hostOut (s : State) (g : Nat) (x : Cluster) : (s.setCluster g x).hostOut = s.hostOut := rfl
@[simp] theorem State.setCluster_fabric (s : State) (g : Nat) (x : Cluster) : (s.setCluster g x).fabric = s.fabric := rfl
@[simp] theorem State.setCluster_cur (s : State) (g : Nat) (x : Cluster) : (s.setCluster g x).cur = s.cur := rfl
@[simp] theorem State.setCluster_ir (s : State) (g : Nat) (x : Cluster) : (s.setCluster g x).ir = s.ir := rfl
@[simp] theorem State.setCluster_focus (s : State) (g : Nat) (x : Cluster) : (s.setCluster g x).focus = s.focus := rfl
@[simp] theorem State.setCluster_agenda (s : State) (g : Nat) (x : Cluster) : (s.setCluster g x).agenda = s.agenda := rfl
@[simp] theorem State.setCluster_free (s : State) (g : Nat) (x : Cluster) : (s.setCluster g x).free = s.free := rfl

/-! ### `setAgent` -/

@[simp] theorem State.setAgent_mem (s : State) (a : Nat) (x : Agent) : (s.setAgent a x).mem = s.mem := rfl
@[simp] theorem State.setAgent_harts (s : State) (a : Nat) (x : Agent) : (s.setAgent a x).harts = s.harts := rfl
@[simp] theorem State.setAgent_cores (s : State) (a : Nat) (x : Agent) : (s.setAgent a x).cores = s.cores := rfl
@[simp] theorem State.setAgent_clusters (s : State) (a : Nat) (x : Agent) : (s.setAgent a x).clusters = s.clusters := rfl
@[simp] theorem State.setAgent_parts (s : State) (a : Nat) (x : Agent) : (s.setAgent a x).parts = s.parts := rfl
@[simp] theorem State.setAgent_orr (s : State) (a : Nat) (x : Agent) : (s.setAgent a x).orr = s.orr := rfl
@[simp] theorem State.setAgent_links (s : State) (a : Nat) (x : Agent) : (s.setAgent a x).links = s.links := rfl
@[simp] theorem State.setAgent_remotes (s : State) (a : Nat) (x : Agent) : (s.setAgent a x).remotes = s.remotes := rfl
@[simp] theorem State.setAgent_tlb (s : State) (a : Nat) (x : Agent) : (s.setAgent a x).tlb = s.tlb := rfl
@[simp] theorem State.setAgent_savedNotes (s : State) (a : Nat) (x : Agent) : (s.setAgent a x).savedNotes = s.savedNotes := rfl
@[simp] theorem State.setAgent_begins (s : State) (a : Nat) (x : Agent) : (s.setAgent a x).begins = s.begins := rfl
@[simp] theorem State.setAgent_comets (s : State) (a : Nat) (x : Agent) : (s.setAgent a x).comets = s.comets := rfl
@[simp] theorem State.setAgent_flights (s : State) (a : Nat) (x : Agent) : (s.setAgent a x).flights = s.flights := rfl
@[simp] theorem State.setAgent_outMsgs (s : State) (a : Nat) (x : Agent) : (s.setAgent a x).outMsgs = s.outMsgs := rfl
@[simp] theorem State.setAgent_replies (s : State) (a : Nat) (x : Agent) : (s.setAgent a x).replies = s.replies := rfl
@[simp] theorem State.setAgent_hostPages (s : State) (a : Nat) (x : Agent) : (s.setAgent a x).hostPages = s.hostPages := rfl
@[simp] theorem State.setAgent_poisoned (s : State) (a : Nat) (x : Agent) : (s.setAgent a x).poisoned = s.poisoned := rfl
@[simp] theorem State.setAgent_badTags (s : State) (a : Nat) (x : Agent) : (s.setAgent a x).badTags = s.badTags := rfl
@[simp] theorem State.setAgent_corrected (s : State) (a : Nat) (x : Agent) : (s.setAgent a x).corrected = s.corrected := rfl
@[simp] theorem State.setAgent_domain (s : State) (a : Nat) (x : Agent) : (s.setAgent a x).domain = s.domain := rfl
@[simp] theorem State.setAgent_form (s : State) (a : Nat) (x : Agent) : (s.setAgent a x).form = s.form := rfl
@[simp] theorem State.setAgent_pkg (s : State) (a : Nat) (x : Agent) : (s.setAgent a x).pkg = s.pkg := rfl
@[simp] theorem State.setAgent_twoHosts (s : State) (a : Nat) (x : Agent) : (s.setAgent a x).twoHosts = s.twoHosts := rfl
@[simp] theorem State.setAgent_cap1 (s : State) (a : Nat) (x : Agent) : (s.setAgent a x).cap1 = s.cap1 := rfl
@[simp] theorem State.setAgent_cap2 (s : State) (a : Nat) (x : Agent) : (s.setAgent a x).cap2 = s.cap2 := rfl
@[simp] theorem State.setAgent_rails (s : State) (a : Nat) (x : Agent) : (s.setAgent a x).rails = s.rails := rfl
@[simp] theorem State.setAgent_sstop (s : State) (a : Nat) (x : Agent) : (s.setAgent a x).sstop = s.sstop := rfl
@[simp] theorem State.setAgent_meas (s : State) (a : Nat) (x : Agent) : (s.setAgent a x).meas = s.meas := rfl
@[simp] theorem State.setAgent_fuseVer (s : State) (a : Nat) (x : Agent) : (s.setAgent a x).fuseVer = s.fuseVer := rfl
@[simp] theorem State.setAgent_boot (s : State) (a : Nat) (x : Agent) : (s.setAgent a x).boot = s.boot := rfl
@[simp] theorem State.setAgent_devKeyGen (s : State) (a : Nat) (x : Agent) : (s.setAgent a x).devKeyGen = s.devKeyGen := rfl
@[simp] theorem State.setAgent_mgmt (s : State) (a : Nat) (x : Agent) : (s.setAgent a x).mgmt = s.mgmt := rfl
@[simp] theorem State.setAgent_hostOut (s : State) (a : Nat) (x : Agent) : (s.setAgent a x).hostOut = s.hostOut := rfl
@[simp] theorem State.setAgent_fabric (s : State) (a : Nat) (x : Agent) : (s.setAgent a x).fabric = s.fabric := rfl
@[simp] theorem State.setAgent_cur (s : State) (a : Nat) (x : Agent) : (s.setAgent a x).cur = s.cur := rfl
@[simp] theorem State.setAgent_ir (s : State) (a : Nat) (x : Agent) : (s.setAgent a x).ir = s.ir := rfl
@[simp] theorem State.setAgent_focus (s : State) (a : Nat) (x : Agent) : (s.setAgent a x).focus = s.focus := rfl
@[simp] theorem State.setAgent_agenda (s : State) (a : Nat) (x : Agent) : (s.setAgent a x).agenda = s.agenda := rfl
@[simp] theorem State.setAgent_free (s : State) (a : Nat) (x : Agent) : (s.setAgent a x).free = s.free := rfl

/-! ### `setPart` -/

@[simp] theorem State.setPart_mem (s : State) (q : Nat) (x : Partition) : (s.setPart q x).mem = s.mem := rfl
@[simp] theorem State.setPart_harts (s : State) (q : Nat) (x : Partition) : (s.setPart q x).harts = s.harts := rfl
@[simp] theorem State.setPart_cores (s : State) (q : Nat) (x : Partition) : (s.setPart q x).cores = s.cores := rfl
@[simp] theorem State.setPart_clusters (s : State) (q : Nat) (x : Partition) : (s.setPart q x).clusters = s.clusters := rfl
@[simp] theorem State.setPart_agents (s : State) (q : Nat) (x : Partition) : (s.setPart q x).agents = s.agents := rfl
@[simp] theorem State.setPart_orr (s : State) (q : Nat) (x : Partition) : (s.setPart q x).orr = s.orr := rfl
@[simp] theorem State.setPart_links (s : State) (q : Nat) (x : Partition) : (s.setPart q x).links = s.links := rfl
@[simp] theorem State.setPart_remotes (s : State) (q : Nat) (x : Partition) : (s.setPart q x).remotes = s.remotes := rfl
@[simp] theorem State.setPart_tlb (s : State) (q : Nat) (x : Partition) : (s.setPart q x).tlb = s.tlb := rfl
@[simp] theorem State.setPart_savedNotes (s : State) (q : Nat) (x : Partition) : (s.setPart q x).savedNotes = s.savedNotes := rfl
@[simp] theorem State.setPart_begins (s : State) (q : Nat) (x : Partition) : (s.setPart q x).begins = s.begins := rfl
@[simp] theorem State.setPart_comets (s : State) (q : Nat) (x : Partition) : (s.setPart q x).comets = s.comets := rfl
@[simp] theorem State.setPart_flights (s : State) (q : Nat) (x : Partition) : (s.setPart q x).flights = s.flights := rfl
@[simp] theorem State.setPart_outMsgs (s : State) (q : Nat) (x : Partition) : (s.setPart q x).outMsgs = s.outMsgs := rfl
@[simp] theorem State.setPart_replies (s : State) (q : Nat) (x : Partition) : (s.setPart q x).replies = s.replies := rfl
@[simp] theorem State.setPart_hostPages (s : State) (q : Nat) (x : Partition) : (s.setPart q x).hostPages = s.hostPages := rfl
@[simp] theorem State.setPart_poisoned (s : State) (q : Nat) (x : Partition) : (s.setPart q x).poisoned = s.poisoned := rfl
@[simp] theorem State.setPart_badTags (s : State) (q : Nat) (x : Partition) : (s.setPart q x).badTags = s.badTags := rfl
@[simp] theorem State.setPart_corrected (s : State) (q : Nat) (x : Partition) : (s.setPart q x).corrected = s.corrected := rfl
@[simp] theorem State.setPart_domain (s : State) (q : Nat) (x : Partition) : (s.setPart q x).domain = s.domain := rfl
@[simp] theorem State.setPart_form (s : State) (q : Nat) (x : Partition) : (s.setPart q x).form = s.form := rfl
@[simp] theorem State.setPart_pkg (s : State) (q : Nat) (x : Partition) : (s.setPart q x).pkg = s.pkg := rfl
@[simp] theorem State.setPart_twoHosts (s : State) (q : Nat) (x : Partition) : (s.setPart q x).twoHosts = s.twoHosts := rfl
@[simp] theorem State.setPart_cap1 (s : State) (q : Nat) (x : Partition) : (s.setPart q x).cap1 = s.cap1 := rfl
@[simp] theorem State.setPart_cap2 (s : State) (q : Nat) (x : Partition) : (s.setPart q x).cap2 = s.cap2 := rfl
@[simp] theorem State.setPart_rails (s : State) (q : Nat) (x : Partition) : (s.setPart q x).rails = s.rails := rfl
@[simp] theorem State.setPart_sstop (s : State) (q : Nat) (x : Partition) : (s.setPart q x).sstop = s.sstop := rfl
@[simp] theorem State.setPart_meas (s : State) (q : Nat) (x : Partition) : (s.setPart q x).meas = s.meas := rfl
@[simp] theorem State.setPart_fuseVer (s : State) (q : Nat) (x : Partition) : (s.setPart q x).fuseVer = s.fuseVer := rfl
@[simp] theorem State.setPart_boot (s : State) (q : Nat) (x : Partition) : (s.setPart q x).boot = s.boot := rfl
@[simp] theorem State.setPart_devKeyGen (s : State) (q : Nat) (x : Partition) : (s.setPart q x).devKeyGen = s.devKeyGen := rfl
@[simp] theorem State.setPart_mgmt (s : State) (q : Nat) (x : Partition) : (s.setPart q x).mgmt = s.mgmt := rfl
@[simp] theorem State.setPart_hostOut (s : State) (q : Nat) (x : Partition) : (s.setPart q x).hostOut = s.hostOut := rfl
@[simp] theorem State.setPart_fabric (s : State) (q : Nat) (x : Partition) : (s.setPart q x).fabric = s.fabric := rfl
@[simp] theorem State.setPart_cur (s : State) (q : Nat) (x : Partition) : (s.setPart q x).cur = s.cur := rfl
@[simp] theorem State.setPart_ir (s : State) (q : Nat) (x : Partition) : (s.setPart q x).ir = s.ir := rfl
@[simp] theorem State.setPart_focus (s : State) (q : Nat) (x : Partition) : (s.setPart q x).focus = s.focus := rfl
@[simp] theorem State.setPart_agenda (s : State) (q : Nat) (x : Partition) : (s.setPart q x).agenda = s.agenda := rfl
@[simp] theorem State.setPart_free (s : State) (q : Nat) (x : Partition) : (s.setPart q x).free = s.free := rfl

/-! ### `setComplex` -/

@[simp] theorem State.setComplex_mem (s : State) (d : Nat) (x : Complex) : (s.setComplex d x).mem = s.mem := rfl
@[simp] theorem State.setComplex_harts (s : State) (d : Nat) (x : Complex) : (s.setComplex d x).harts = s.harts := rfl
@[simp] theorem State.setComplex_cores (s : State) (d : Nat) (x : Complex) : (s.setComplex d x).cores = s.cores := rfl
@[simp] theorem State.setComplex_clusters (s : State) (d : Nat) (x : Complex) : (s.setComplex d x).clusters = s.clusters := rfl
@[simp] theorem State.setComplex_agents (s : State) (d : Nat) (x : Complex) : (s.setComplex d x).agents = s.agents := rfl
@[simp] theorem State.setComplex_parts (s : State) (d : Nat) (x : Complex) : (s.setComplex d x).parts = s.parts := rfl
@[simp] theorem State.setComplex_links (s : State) (d : Nat) (x : Complex) : (s.setComplex d x).links = s.links := rfl
@[simp] theorem State.setComplex_remotes (s : State) (d : Nat) (x : Complex) : (s.setComplex d x).remotes = s.remotes := rfl
@[simp] theorem State.setComplex_tlb (s : State) (d : Nat) (x : Complex) : (s.setComplex d x).tlb = s.tlb := rfl
@[simp] theorem State.setComplex_savedNotes (s : State) (d : Nat) (x : Complex) : (s.setComplex d x).savedNotes = s.savedNotes := rfl
@[simp] theorem State.setComplex_begins (s : State) (d : Nat) (x : Complex) : (s.setComplex d x).begins = s.begins := rfl
@[simp] theorem State.setComplex_comets (s : State) (d : Nat) (x : Complex) : (s.setComplex d x).comets = s.comets := rfl
@[simp] theorem State.setComplex_flights (s : State) (d : Nat) (x : Complex) : (s.setComplex d x).flights = s.flights := rfl
@[simp] theorem State.setComplex_outMsgs (s : State) (d : Nat) (x : Complex) : (s.setComplex d x).outMsgs = s.outMsgs := rfl
@[simp] theorem State.setComplex_replies (s : State) (d : Nat) (x : Complex) : (s.setComplex d x).replies = s.replies := rfl
@[simp] theorem State.setComplex_hostPages (s : State) (d : Nat) (x : Complex) : (s.setComplex d x).hostPages = s.hostPages := rfl
@[simp] theorem State.setComplex_poisoned (s : State) (d : Nat) (x : Complex) : (s.setComplex d x).poisoned = s.poisoned := rfl
@[simp] theorem State.setComplex_badTags (s : State) (d : Nat) (x : Complex) : (s.setComplex d x).badTags = s.badTags := rfl
@[simp] theorem State.setComplex_corrected (s : State) (d : Nat) (x : Complex) : (s.setComplex d x).corrected = s.corrected := rfl
@[simp] theorem State.setComplex_domain (s : State) (d : Nat) (x : Complex) : (s.setComplex d x).domain = s.domain := rfl
@[simp] theorem State.setComplex_form (s : State) (d : Nat) (x : Complex) : (s.setComplex d x).form = s.form := rfl
@[simp] theorem State.setComplex_pkg (s : State) (d : Nat) (x : Complex) : (s.setComplex d x).pkg = s.pkg := rfl
@[simp] theorem State.setComplex_twoHosts (s : State) (d : Nat) (x : Complex) : (s.setComplex d x).twoHosts = s.twoHosts := rfl
@[simp] theorem State.setComplex_cap1 (s : State) (d : Nat) (x : Complex) : (s.setComplex d x).cap1 = s.cap1 := rfl
@[simp] theorem State.setComplex_cap2 (s : State) (d : Nat) (x : Complex) : (s.setComplex d x).cap2 = s.cap2 := rfl
@[simp] theorem State.setComplex_rails (s : State) (d : Nat) (x : Complex) : (s.setComplex d x).rails = s.rails := rfl
@[simp] theorem State.setComplex_sstop (s : State) (d : Nat) (x : Complex) : (s.setComplex d x).sstop = s.sstop := rfl
@[simp] theorem State.setComplex_meas (s : State) (d : Nat) (x : Complex) : (s.setComplex d x).meas = s.meas := rfl
@[simp] theorem State.setComplex_fuseVer (s : State) (d : Nat) (x : Complex) : (s.setComplex d x).fuseVer = s.fuseVer := rfl
@[simp] theorem State.setComplex_boot (s : State) (d : Nat) (x : Complex) : (s.setComplex d x).boot = s.boot := rfl
@[simp] theorem State.setComplex_devKeyGen (s : State) (d : Nat) (x : Complex) : (s.setComplex d x).devKeyGen = s.devKeyGen := rfl
@[simp] theorem State.setComplex_mgmt (s : State) (d : Nat) (x : Complex) : (s.setComplex d x).mgmt = s.mgmt := rfl
@[simp] theorem State.setComplex_hostOut (s : State) (d : Nat) (x : Complex) : (s.setComplex d x).hostOut = s.hostOut := rfl
@[simp] theorem State.setComplex_fabric (s : State) (d : Nat) (x : Complex) : (s.setComplex d x).fabric = s.fabric := rfl
@[simp] theorem State.setComplex_cur (s : State) (d : Nat) (x : Complex) : (s.setComplex d x).cur = s.cur := rfl
@[simp] theorem State.setComplex_ir (s : State) (d : Nat) (x : Complex) : (s.setComplex d x).ir = s.ir := rfl
@[simp] theorem State.setComplex_focus (s : State) (d : Nat) (x : Complex) : (s.setComplex d x).focus = s.focus := rfl
@[simp] theorem State.setComplex_agenda (s : State) (d : Nat) (x : Complex) : (s.setComplex d x).agenda = s.agenda := rfl
@[simp] theorem State.setComplex_free (s : State) (d : Nat) (x : Complex) : (s.setComplex d x).free = s.free := rfl

/-! ### `modHart` -/

@[simp] theorem State.modHart_mem (s : State) (k : Nat) (f : Hart → Hart) : (s.modHart k f).mem = s.mem := rfl
@[simp] theorem State.modHart_cores (s : State) (k : Nat) (f : Hart → Hart) : (s.modHart k f).cores = s.cores := rfl
@[simp] theorem State.modHart_clusters (s : State) (k : Nat) (f : Hart → Hart) : (s.modHart k f).clusters = s.clusters := rfl
@[simp] theorem State.modHart_agents (s : State) (k : Nat) (f : Hart → Hart) : (s.modHart k f).agents = s.agents := rfl
@[simp] theorem State.modHart_parts (s : State) (k : Nat) (f : Hart → Hart) : (s.modHart k f).parts = s.parts := rfl
@[simp] theorem State.modHart_orr (s : State) (k : Nat) (f : Hart → Hart) : (s.modHart k f).orr = s.orr := rfl
@[simp] theorem State.modHart_links (s : State) (k : Nat) (f : Hart → Hart) : (s.modHart k f).links = s.links := rfl
@[simp] theorem State.modHart_remotes (s : State) (k : Nat) (f : Hart → Hart) : (s.modHart k f).remotes = s.remotes := rfl
@[simp] theorem State.modHart_tlb (s : State) (k : Nat) (f : Hart → Hart) : (s.modHart k f).tlb = s.tlb := rfl
@[simp] theorem State.modHart_savedNotes (s : State) (k : Nat) (f : Hart → Hart) : (s.modHart k f).savedNotes = s.savedNotes := rfl
@[simp] theorem State.modHart_begins (s : State) (k : Nat) (f : Hart → Hart) : (s.modHart k f).begins = s.begins := rfl
@[simp] theorem State.modHart_comets (s : State) (k : Nat) (f : Hart → Hart) : (s.modHart k f).comets = s.comets := rfl
@[simp] theorem State.modHart_flights (s : State) (k : Nat) (f : Hart → Hart) : (s.modHart k f).flights = s.flights := rfl
@[simp] theorem State.modHart_outMsgs (s : State) (k : Nat) (f : Hart → Hart) : (s.modHart k f).outMsgs = s.outMsgs := rfl
@[simp] theorem State.modHart_replies (s : State) (k : Nat) (f : Hart → Hart) : (s.modHart k f).replies = s.replies := rfl
@[simp] theorem State.modHart_hostPages (s : State) (k : Nat) (f : Hart → Hart) : (s.modHart k f).hostPages = s.hostPages := rfl
@[simp] theorem State.modHart_poisoned (s : State) (k : Nat) (f : Hart → Hart) : (s.modHart k f).poisoned = s.poisoned := rfl
@[simp] theorem State.modHart_badTags (s : State) (k : Nat) (f : Hart → Hart) : (s.modHart k f).badTags = s.badTags := rfl
@[simp] theorem State.modHart_corrected (s : State) (k : Nat) (f : Hart → Hart) : (s.modHart k f).corrected = s.corrected := rfl
@[simp] theorem State.modHart_domain (s : State) (k : Nat) (f : Hart → Hart) : (s.modHart k f).domain = s.domain := rfl
@[simp] theorem State.modHart_form (s : State) (k : Nat) (f : Hart → Hart) : (s.modHart k f).form = s.form := rfl
@[simp] theorem State.modHart_pkg (s : State) (k : Nat) (f : Hart → Hart) : (s.modHart k f).pkg = s.pkg := rfl
@[simp] theorem State.modHart_twoHosts (s : State) (k : Nat) (f : Hart → Hart) : (s.modHart k f).twoHosts = s.twoHosts := rfl
@[simp] theorem State.modHart_cap1 (s : State) (k : Nat) (f : Hart → Hart) : (s.modHart k f).cap1 = s.cap1 := rfl
@[simp] theorem State.modHart_cap2 (s : State) (k : Nat) (f : Hart → Hart) : (s.modHart k f).cap2 = s.cap2 := rfl
@[simp] theorem State.modHart_rails (s : State) (k : Nat) (f : Hart → Hart) : (s.modHart k f).rails = s.rails := rfl
@[simp] theorem State.modHart_sstop (s : State) (k : Nat) (f : Hart → Hart) : (s.modHart k f).sstop = s.sstop := rfl
@[simp] theorem State.modHart_meas (s : State) (k : Nat) (f : Hart → Hart) : (s.modHart k f).meas = s.meas := rfl
@[simp] theorem State.modHart_fuseVer (s : State) (k : Nat) (f : Hart → Hart) : (s.modHart k f).fuseVer = s.fuseVer := rfl
@[simp] theorem State.modHart_boot (s : State) (k : Nat) (f : Hart → Hart) : (s.modHart k f).boot = s.boot := rfl
@[simp] theorem State.modHart_devKeyGen (s : State) (k : Nat) (f : Hart → Hart) : (s.modHart k f).devKeyGen = s.devKeyGen := rfl
@[simp] theorem State.modHart_mgmt (s : State) (k : Nat) (f : Hart → Hart) : (s.modHart k f).mgmt = s.mgmt := rfl
@[simp] theorem State.modHart_hostOut (s : State) (k : Nat) (f : Hart → Hart) : (s.modHart k f).hostOut = s.hostOut := rfl
@[simp] theorem State.modHart_fabric (s : State) (k : Nat) (f : Hart → Hart) : (s.modHart k f).fabric = s.fabric := rfl
@[simp] theorem State.modHart_cur (s : State) (k : Nat) (f : Hart → Hart) : (s.modHart k f).cur = s.cur := rfl
@[simp] theorem State.modHart_ir (s : State) (k : Nat) (f : Hart → Hart) : (s.modHart k f).ir = s.ir := rfl
@[simp] theorem State.modHart_focus (s : State) (k : Nat) (f : Hart → Hart) : (s.modHart k f).focus = s.focus := rfl
@[simp] theorem State.modHart_agenda (s : State) (k : Nat) (f : Hart → Hart) : (s.modHart k f).agenda = s.agenda := rfl
@[simp] theorem State.modHart_free (s : State) (k : Nat) (f : Hart → Hart) : (s.modHart k f).free = s.free := rfl

/-! ### `modCore` -/

@[simp] theorem State.modCore_mem (s : State) (c : Nat) (f : Core → Core) : (s.modCore c f).mem = s.mem := rfl
@[simp] theorem State.modCore_harts (s : State) (c : Nat) (f : Core → Core) : (s.modCore c f).harts = s.harts := rfl
@[simp] theorem State.modCore_clusters (s : State) (c : Nat) (f : Core → Core) : (s.modCore c f).clusters = s.clusters := rfl
@[simp] theorem State.modCore_agents (s : State) (c : Nat) (f : Core → Core) : (s.modCore c f).agents = s.agents := rfl
@[simp] theorem State.modCore_parts (s : State) (c : Nat) (f : Core → Core) : (s.modCore c f).parts = s.parts := rfl
@[simp] theorem State.modCore_orr (s : State) (c : Nat) (f : Core → Core) : (s.modCore c f).orr = s.orr := rfl
@[simp] theorem State.modCore_links (s : State) (c : Nat) (f : Core → Core) : (s.modCore c f).links = s.links := rfl
@[simp] theorem State.modCore_remotes (s : State) (c : Nat) (f : Core → Core) : (s.modCore c f).remotes = s.remotes := rfl
@[simp] theorem State.modCore_tlb (s : State) (c : Nat) (f : Core → Core) : (s.modCore c f).tlb = s.tlb := rfl
@[simp] theorem State.modCore_savedNotes (s : State) (c : Nat) (f : Core → Core) : (s.modCore c f).savedNotes = s.savedNotes := rfl
@[simp] theorem State.modCore_begins (s : State) (c : Nat) (f : Core → Core) : (s.modCore c f).begins = s.begins := rfl
@[simp] theorem State.modCore_comets (s : State) (c : Nat) (f : Core → Core) : (s.modCore c f).comets = s.comets := rfl
@[simp] theorem State.modCore_flights (s : State) (c : Nat) (f : Core → Core) : (s.modCore c f).flights = s.flights := rfl
@[simp] theorem State.modCore_outMsgs (s : State) (c : Nat) (f : Core → Core) : (s.modCore c f).outMsgs = s.outMsgs := rfl
@[simp] theorem State.modCore_replies (s : State) (c : Nat) (f : Core → Core) : (s.modCore c f).replies = s.replies := rfl
@[simp] theorem State.modCore_hostPages (s : State) (c : Nat) (f : Core → Core) : (s.modCore c f).hostPages = s.hostPages := rfl
@[simp] theorem State.modCore_poisoned (s : State) (c : Nat) (f : Core → Core) : (s.modCore c f).poisoned = s.poisoned := rfl
@[simp] theorem State.modCore_badTags (s : State) (c : Nat) (f : Core → Core) : (s.modCore c f).badTags = s.badTags := rfl
@[simp] theorem State.modCore_corrected (s : State) (c : Nat) (f : Core → Core) : (s.modCore c f).corrected = s.corrected := rfl
@[simp] theorem State.modCore_domain (s : State) (c : Nat) (f : Core → Core) : (s.modCore c f).domain = s.domain := rfl
@[simp] theorem State.modCore_form (s : State) (c : Nat) (f : Core → Core) : (s.modCore c f).form = s.form := rfl
@[simp] theorem State.modCore_pkg (s : State) (c : Nat) (f : Core → Core) : (s.modCore c f).pkg = s.pkg := rfl
@[simp] theorem State.modCore_twoHosts (s : State) (c : Nat) (f : Core → Core) : (s.modCore c f).twoHosts = s.twoHosts := rfl
@[simp] theorem State.modCore_cap1 (s : State) (c : Nat) (f : Core → Core) : (s.modCore c f).cap1 = s.cap1 := rfl
@[simp] theorem State.modCore_cap2 (s : State) (c : Nat) (f : Core → Core) : (s.modCore c f).cap2 = s.cap2 := rfl
@[simp] theorem State.modCore_rails (s : State) (c : Nat) (f : Core → Core) : (s.modCore c f).rails = s.rails := rfl
@[simp] theorem State.modCore_sstop (s : State) (c : Nat) (f : Core → Core) : (s.modCore c f).sstop = s.sstop := rfl
@[simp] theorem State.modCore_meas (s : State) (c : Nat) (f : Core → Core) : (s.modCore c f).meas = s.meas := rfl
@[simp] theorem State.modCore_fuseVer (s : State) (c : Nat) (f : Core → Core) : (s.modCore c f).fuseVer = s.fuseVer := rfl
@[simp] theorem State.modCore_boot (s : State) (c : Nat) (f : Core → Core) : (s.modCore c f).boot = s.boot := rfl
@[simp] theorem State.modCore_devKeyGen (s : State) (c : Nat) (f : Core → Core) : (s.modCore c f).devKeyGen = s.devKeyGen := rfl
@[simp] theorem State.modCore_mgmt (s : State) (c : Nat) (f : Core → Core) : (s.modCore c f).mgmt = s.mgmt := rfl
@[simp] theorem State.modCore_hostOut (s : State) (c : Nat) (f : Core → Core) : (s.modCore c f).hostOut = s.hostOut := rfl
@[simp] theorem State.modCore_fabric (s : State) (c : Nat) (f : Core → Core) : (s.modCore c f).fabric = s.fabric := rfl
@[simp] theorem State.modCore_cur (s : State) (c : Nat) (f : Core → Core) : (s.modCore c f).cur = s.cur := rfl
@[simp] theorem State.modCore_ir (s : State) (c : Nat) (f : Core → Core) : (s.modCore c f).ir = s.ir := rfl
@[simp] theorem State.modCore_focus (s : State) (c : Nat) (f : Core → Core) : (s.modCore c f).focus = s.focus := rfl
@[simp] theorem State.modCore_agenda (s : State) (c : Nat) (f : Core → Core) : (s.modCore c f).agenda = s.agenda := rfl
@[simp] theorem State.modCore_free (s : State) (c : Nat) (f : Core → Core) : (s.modCore c f).free = s.free := rfl

/-! ### `modCluster` -/

@[simp] theorem State.modCluster_mem (s : State) (g : Nat) (f : Cluster → Cluster) : (s.modCluster g f).mem = s.mem := rfl
@[simp] theorem State.modCluster_harts (s : State) (g : Nat) (f : Cluster → Cluster) : (s.modCluster g f).harts = s.harts := rfl
@[simp] theorem State.modCluster_cores (s : State) (g : Nat) (f : Cluster → Cluster) : (s.modCluster g f).cores = s.cores := rfl
@[simp] theorem State.modCluster_agents (s : State) (g : Nat) (f : Cluster → Cluster) : (s.modCluster g f).agents = s.agents := rfl
@[simp] theorem State.modCluster_parts (s : State) (g : Nat) (f : Cluster → Cluster) : (s.modCluster g f).parts = s.parts := rfl
@[simp] theorem State.modCluster_orr (s : State) (g : Nat) (f : Cluster → Cluster) : (s.modCluster g f).orr = s.orr := rfl
@[simp] theorem State.modCluster_links (s : State) (g : Nat) (f : Cluster → Cluster) : (s.modCluster g f).links = s.links := rfl
@[simp] theorem State.modCluster_remotes (s : State) (g : Nat) (f : Cluster → Cluster) : (s.modCluster g f).remotes = s.remotes := rfl
@[simp] theorem State.modCluster_tlb (s : State) (g : Nat) (f : Cluster → Cluster) : (s.modCluster g f).tlb = s.tlb := rfl
@[simp] theorem State.modCluster_savedNotes (s : State) (g : Nat) (f : Cluster → Cluster) : (s.modCluster g f).savedNotes = s.savedNotes := rfl
@[simp] theorem State.modCluster_begins (s : State) (g : Nat) (f : Cluster → Cluster) : (s.modCluster g f).begins = s.begins := rfl
@[simp] theorem State.modCluster_comets (s : State) (g : Nat) (f : Cluster → Cluster) : (s.modCluster g f).comets = s.comets := rfl
@[simp] theorem State.modCluster_flights (s : State) (g : Nat) (f : Cluster → Cluster) : (s.modCluster g f).flights = s.flights := rfl
@[simp] theorem State.modCluster_outMsgs (s : State) (g : Nat) (f : Cluster → Cluster) : (s.modCluster g f).outMsgs = s.outMsgs := rfl
@[simp] theorem State.modCluster_replies (s : State) (g : Nat) (f : Cluster → Cluster) : (s.modCluster g f).replies = s.replies := rfl
@[simp] theorem State.modCluster_hostPages (s : State) (g : Nat) (f : Cluster → Cluster) : (s.modCluster g f).hostPages = s.hostPages := rfl
@[simp] theorem State.modCluster_poisoned (s : State) (g : Nat) (f : Cluster → Cluster) : (s.modCluster g f).poisoned = s.poisoned := rfl
@[simp] theorem State.modCluster_badTags (s : State) (g : Nat) (f : Cluster → Cluster) : (s.modCluster g f).badTags = s.badTags := rfl
@[simp] theorem State.modCluster_corrected (s : State) (g : Nat) (f : Cluster → Cluster) : (s.modCluster g f).corrected = s.corrected := rfl
@[simp] theorem State.modCluster_domain (s : State) (g : Nat) (f : Cluster → Cluster) : (s.modCluster g f).domain = s.domain := rfl
@[simp] theorem State.modCluster_form (s : State) (g : Nat) (f : Cluster → Cluster) : (s.modCluster g f).form = s.form := rfl
@[simp] theorem State.modCluster_pkg (s : State) (g : Nat) (f : Cluster → Cluster) : (s.modCluster g f).pkg = s.pkg := rfl
@[simp] theorem State.modCluster_twoHosts (s : State) (g : Nat) (f : Cluster → Cluster) : (s.modCluster g f).twoHosts = s.twoHosts := rfl
@[simp] theorem State.modCluster_cap1 (s : State) (g : Nat) (f : Cluster → Cluster) : (s.modCluster g f).cap1 = s.cap1 := rfl
@[simp] theorem State.modCluster_cap2 (s : State) (g : Nat) (f : Cluster → Cluster) : (s.modCluster g f).cap2 = s.cap2 := rfl
@[simp] theorem State.modCluster_rails (s : State) (g : Nat) (f : Cluster → Cluster) : (s.modCluster g f).rails = s.rails := rfl
@[simp] theorem State.modCluster_sstop (s : State) (g : Nat) (f : Cluster → Cluster) : (s.modCluster g f).sstop = s.sstop := rfl
@[simp] theorem State.modCluster_meas (s : State) (g : Nat) (f : Cluster → Cluster) : (s.modCluster g f).meas = s.meas := rfl
@[simp] theorem State.modCluster_fuseVer (s : State) (g : Nat) (f : Cluster → Cluster) : (s.modCluster g f).fuseVer = s.fuseVer := rfl
@[simp] theorem State.modCluster_boot (s : State) (g : Nat) (f : Cluster → Cluster) : (s.modCluster g f).boot = s.boot := rfl
@[simp] theorem State.modCluster_devKeyGen (s : State) (g : Nat) (f : Cluster → Cluster) : (s.modCluster g f).devKeyGen = s.devKeyGen := rfl
@[simp] theorem State.modCluster_mgmt (s : State) (g : Nat) (f : Cluster → Cluster) : (s.modCluster g f).mgmt = s.mgmt := rfl
@[simp] theorem State.modCluster_hostOut (s : State) (g : Nat) (f : Cluster → Cluster) : (s.modCluster g f).hostOut = s.hostOut := rfl
@[simp] theorem State.modCluster_fabric (s : State) (g : Nat) (f : Cluster → Cluster) : (s.modCluster g f).fabric = s.fabric := rfl
@[simp] theorem State.modCluster_cur (s : State) (g : Nat) (f : Cluster → Cluster) : (s.modCluster g f).cur = s.cur := rfl
@[simp] theorem State.modCluster_ir (s : State) (g : Nat) (f : Cluster → Cluster) : (s.modCluster g f).ir = s.ir := rfl
@[simp] theorem State.modCluster_focus (s : State) (g : Nat) (f : Cluster → Cluster) : (s.modCluster g f).focus = s.focus := rfl
@[simp] theorem State.modCluster_agenda (s : State) (g : Nat) (f : Cluster → Cluster) : (s.modCluster g f).agenda = s.agenda := rfl
@[simp] theorem State.modCluster_free (s : State) (g : Nat) (f : Cluster → Cluster) : (s.modCluster g f).free = s.free := rfl

/-! ### `modAgent` -/

@[simp] theorem State.modAgent_mem (s : State) (a : Nat) (f : Agent → Agent) : (s.modAgent a f).mem = s.mem := rfl
@[simp] theorem State.modAgent_harts (s : State) (a : Nat) (f : Agent → Agent) : (s.modAgent a f).harts = s.harts := rfl
@[simp] theorem State.modAgent_cores (s : State) (a : Nat) (f : Agent → Agent) : (s.modAgent a f).cores = s.cores := rfl
@[simp] theorem State.modAgent_clusters (s : State) (a : Nat) (f : Agent → Agent) : (s.modAgent a f).clusters = s.clusters := rfl
@[simp] theorem State.modAgent_parts (s : State) (a : Nat) (f : Agent → Agent) : (s.modAgent a f).parts = s.parts := rfl
@[simp] theorem State.modAgent_orr (s : State) (a : Nat) (f : Agent → Agent) : (s.modAgent a f).orr = s.orr := rfl
@[simp] theorem State.modAgent_links (s : State) (a : Nat) (f : Agent → Agent) : (s.modAgent a f).links = s.links := rfl
@[simp] theorem State.modAgent_remotes (s : State) (a : Nat) (f : Agent → Agent) : (s.modAgent a f).remotes = s.remotes := rfl
@[simp] theorem State.modAgent_tlb (s : State) (a : Nat) (f : Agent → Agent) : (s.modAgent a f).tlb = s.tlb := rfl
@[simp] theorem State.modAgent_savedNotes (s : State) (a : Nat) (f : Agent → Agent) : (s.modAgent a f).savedNotes = s.savedNotes := rfl
@[simp] theorem State.modAgent_begins (s : State) (a : Nat) (f : Agent → Agent) : (s.modAgent a f).begins = s.begins := rfl
@[simp] theorem State.modAgent_comets (s : State) (a : Nat) (f : Agent → Agent) : (s.modAgent a f).comets = s.comets := rfl
@[simp] theorem State.modAgent_flights (s : State) (a : Nat) (f : Agent → Agent) : (s.modAgent a f).flights = s.flights := rfl
@[simp] theorem State.modAgent_outMsgs (s : State) (a : Nat) (f : Agent → Agent) : (s.modAgent a f).outMsgs = s.outMsgs := rfl
@[simp] theorem State.modAgent_replies (s : State) (a : Nat) (f : Agent → Agent) : (s.modAgent a f).replies = s.replies := rfl
@[simp] theorem State.modAgent_hostPages (s : State) (a : Nat) (f : Agent → Agent) : (s.modAgent a f).hostPages = s.hostPages := rfl
@[simp] theorem State.modAgent_poisoned (s : State) (a : Nat) (f : Agent → Agent) : (s.modAgent a f).poisoned = s.poisoned := rfl
@[simp] theorem State.modAgent_badTags (s : State) (a : Nat) (f : Agent → Agent) : (s.modAgent a f).badTags = s.badTags := rfl
@[simp] theorem State.modAgent_corrected (s : State) (a : Nat) (f : Agent → Agent) : (s.modAgent a f).corrected = s.corrected := rfl
@[simp] theorem State.modAgent_domain (s : State) (a : Nat) (f : Agent → Agent) : (s.modAgent a f).domain = s.domain := rfl
@[simp] theorem State.modAgent_form (s : State) (a : Nat) (f : Agent → Agent) : (s.modAgent a f).form = s.form := rfl
@[simp] theorem State.modAgent_pkg (s : State) (a : Nat) (f : Agent → Agent) : (s.modAgent a f).pkg = s.pkg := rfl
@[simp] theorem State.modAgent_twoHosts (s : State) (a : Nat) (f : Agent → Agent) : (s.modAgent a f).twoHosts = s.twoHosts := rfl
@[simp] theorem State.modAgent_cap1 (s : State) (a : Nat) (f : Agent → Agent) : (s.modAgent a f).cap1 = s.cap1 := rfl
@[simp] theorem State.modAgent_cap2 (s : State) (a : Nat) (f : Agent → Agent) : (s.modAgent a f).cap2 = s.cap2 := rfl
@[simp] theorem State.modAgent_rails (s : State) (a : Nat) (f : Agent → Agent) : (s.modAgent a f).rails = s.rails := rfl
@[simp] theorem State.modAgent_sstop (s : State) (a : Nat) (f : Agent → Agent) : (s.modAgent a f).sstop = s.sstop := rfl
@[simp] theorem State.modAgent_meas (s : State) (a : Nat) (f : Agent → Agent) : (s.modAgent a f).meas = s.meas := rfl
@[simp] theorem State.modAgent_fuseVer (s : State) (a : Nat) (f : Agent → Agent) : (s.modAgent a f).fuseVer = s.fuseVer := rfl
@[simp] theorem State.modAgent_boot (s : State) (a : Nat) (f : Agent → Agent) : (s.modAgent a f).boot = s.boot := rfl
@[simp] theorem State.modAgent_devKeyGen (s : State) (a : Nat) (f : Agent → Agent) : (s.modAgent a f).devKeyGen = s.devKeyGen := rfl
@[simp] theorem State.modAgent_mgmt (s : State) (a : Nat) (f : Agent → Agent) : (s.modAgent a f).mgmt = s.mgmt := rfl
@[simp] theorem State.modAgent_hostOut (s : State) (a : Nat) (f : Agent → Agent) : (s.modAgent a f).hostOut = s.hostOut := rfl
@[simp] theorem State.modAgent_fabric (s : State) (a : Nat) (f : Agent → Agent) : (s.modAgent a f).fabric = s.fabric := rfl
@[simp] theorem State.modAgent_cur (s : State) (a : Nat) (f : Agent → Agent) : (s.modAgent a f).cur = s.cur := rfl
@[simp] theorem State.modAgent_ir (s : State) (a : Nat) (f : Agent → Agent) : (s.modAgent a f).ir = s.ir := rfl
@[simp] theorem State.modAgent_focus (s : State) (a : Nat) (f : Agent → Agent) : (s.modAgent a f).focus = s.focus := rfl
@[simp] theorem State.modAgent_agenda (s : State) (a : Nat) (f : Agent → Agent) : (s.modAgent a f).agenda = s.agenda := rfl
@[simp] theorem State.modAgent_free (s : State) (a : Nat) (f : Agent → Agent) : (s.modAgent a f).free = s.free := rfl

/-! ### `modPart` -/

@[simp] theorem State.modPart_mem (s : State) (q : Nat) (f : Partition → Partition) : (s.modPart q f).mem = s.mem := rfl
@[simp] theorem State.modPart_harts (s : State) (q : Nat) (f : Partition → Partition) : (s.modPart q f).harts = s.harts := rfl
@[simp] theorem State.modPart_cores (s : State) (q : Nat) (f : Partition → Partition) : (s.modPart q f).cores = s.cores := rfl
@[simp] theorem State.modPart_clusters (s : State) (q : Nat) (f : Partition → Partition) : (s.modPart q f).clusters = s.clusters := rfl
@[simp] theorem State.modPart_agents (s : State) (q : Nat) (f : Partition → Partition) : (s.modPart q f).agents = s.agents := rfl
@[simp] theorem State.modPart_orr (s : State) (q : Nat) (f : Partition → Partition) : (s.modPart q f).orr = s.orr := rfl
@[simp] theorem State.modPart_links (s : State) (q : Nat) (f : Partition → Partition) : (s.modPart q f).links = s.links := rfl
@[simp] theorem State.modPart_remotes (s : State) (q : Nat) (f : Partition → Partition) : (s.modPart q f).remotes = s.remotes := rfl
@[simp] theorem State.modPart_tlb (s : State) (q : Nat) (f : Partition → Partition) : (s.modPart q f).tlb = s.tlb := rfl
@[simp] theorem State.modPart_savedNotes (s : State) (q : Nat) (f : Partition → Partition) : (s.modPart q f).savedNotes = s.savedNotes := rfl
@[simp] theorem State.modPart_begins (s : State) (q : Nat) (f : Partition → Partition) : (s.modPart q f).begins = s.begins := rfl
@[simp] theorem State.modPart_comets (s : State) (q : Nat) (f : Partition → Partition) : (s.modPart q f).comets = s.comets := rfl
@[simp] theorem State.modPart_flights (s : State) (q : Nat) (f : Partition → Partition) : (s.modPart q f).flights = s.flights := rfl
@[simp] theorem State.modPart_outMsgs (s : State) (q : Nat) (f : Partition → Partition) : (s.modPart q f).outMsgs = s.outMsgs := rfl
@[simp] theorem State.modPart_replies (s : State) (q : Nat) (f : Partition → Partition) : (s.modPart q f).replies = s.replies := rfl
@[simp] theorem State.modPart_hostPages (s : State) (q : Nat) (f : Partition → Partition) : (s.modPart q f).hostPages = s.hostPages := rfl
@[simp] theorem State.modPart_poisoned (s : State) (q : Nat) (f : Partition → Partition) : (s.modPart q f).poisoned = s.poisoned := rfl
@[simp] theorem State.modPart_badTags (s : State) (q : Nat) (f : Partition → Partition) : (s.modPart q f).badTags = s.badTags := rfl
@[simp] theorem State.modPart_corrected (s : State) (q : Nat) (f : Partition → Partition) : (s.modPart q f).corrected = s.corrected := rfl
@[simp] theorem State.modPart_domain (s : State) (q : Nat) (f : Partition → Partition) : (s.modPart q f).domain = s.domain := rfl
@[simp] theorem State.modPart_form (s : State) (q : Nat) (f : Partition → Partition) : (s.modPart q f).form = s.form := rfl
@[simp] theorem State.modPart_pkg (s : State) (q : Nat) (f : Partition → Partition) : (s.modPart q f).pkg = s.pkg := rfl
@[simp] theorem State.modPart_twoHosts (s : State) (q : Nat) (f : Partition → Partition) : (s.modPart q f).twoHosts = s.twoHosts := rfl
@[simp] theorem State.modPart_cap1 (s : State) (q : Nat) (f : Partition → Partition) : (s.modPart q f).cap1 = s.cap1 := rfl
@[simp] theorem State.modPart_cap2 (s : State) (q : Nat) (f : Partition → Partition) : (s.modPart q f).cap2 = s.cap2 := rfl
@[simp] theorem State.modPart_rails (s : State) (q : Nat) (f : Partition → Partition) : (s.modPart q f).rails = s.rails := rfl
@[simp] theorem State.modPart_sstop (s : State) (q : Nat) (f : Partition → Partition) : (s.modPart q f).sstop = s.sstop := rfl
@[simp] theorem State.modPart_meas (s : State) (q : Nat) (f : Partition → Partition) : (s.modPart q f).meas = s.meas := rfl
@[simp] theorem State.modPart_fuseVer (s : State) (q : Nat) (f : Partition → Partition) : (s.modPart q f).fuseVer = s.fuseVer := rfl
@[simp] theorem State.modPart_boot (s : State) (q : Nat) (f : Partition → Partition) : (s.modPart q f).boot = s.boot := rfl
@[simp] theorem State.modPart_devKeyGen (s : State) (q : Nat) (f : Partition → Partition) : (s.modPart q f).devKeyGen = s.devKeyGen := rfl
@[simp] theorem State.modPart_mgmt (s : State) (q : Nat) (f : Partition → Partition) : (s.modPart q f).mgmt = s.mgmt := rfl
@[simp] theorem State.modPart_hostOut (s : State) (q : Nat) (f : Partition → Partition) : (s.modPart q f).hostOut = s.hostOut := rfl
@[simp] theorem State.modPart_fabric (s : State) (q : Nat) (f : Partition → Partition) : (s.modPart q f).fabric = s.fabric := rfl
@[simp] theorem State.modPart_cur (s : State) (q : Nat) (f : Partition → Partition) : (s.modPart q f).cur = s.cur := rfl
@[simp] theorem State.modPart_ir (s : State) (q : Nat) (f : Partition → Partition) : (s.modPart q f).ir = s.ir := rfl
@[simp] theorem State.modPart_focus (s : State) (q : Nat) (f : Partition → Partition) : (s.modPart q f).focus = s.focus := rfl
@[simp] theorem State.modPart_agenda (s : State) (q : Nat) (f : Partition → Partition) : (s.modPart q f).agenda = s.agenda := rfl
@[simp] theorem State.modPart_free (s : State) (q : Nat) (f : Partition → Partition) : (s.modPart q f).free = s.free := rfl

/-! ### `modComplex` -/

@[simp] theorem State.modComplex_mem (s : State) (d : Nat) (f : Complex → Complex) : (s.modComplex d f).mem = s.mem := rfl
@[simp] theorem State.modComplex_harts (s : State) (d : Nat) (f : Complex → Complex) : (s.modComplex d f).harts = s.harts := rfl
@[simp] theorem State.modComplex_cores (s : State) (d : Nat) (f : Complex → Complex) : (s.modComplex d f).cores = s.cores := rfl
@[simp] theorem State.modComplex_clusters (s : State) (d : Nat) (f : Complex → Complex) : (s.modComplex d f).clusters = s.clusters := rfl
@[simp] theorem State.modComplex_agents (s : State) (d : Nat) (f : Complex → Complex) : (s.modComplex d f).agents = s.agents := rfl
@[simp] theorem State.modComplex_parts (s : State) (d : Nat) (f : Complex → Complex) : (s.modComplex d f).parts = s.parts := rfl
@[simp] theorem State.modComplex_links (s : State) (d : Nat) (f : Complex → Complex) : (s.modComplex d f).links = s.links := rfl
@[simp] theorem State.modComplex_remotes (s : State) (d : Nat) (f : Complex → Complex) : (s.modComplex d f).remotes = s.remotes := rfl
@[simp] theorem State.modComplex_tlb (s : State) (d : Nat) (f : Complex → Complex) : (s.modComplex d f).tlb = s.tlb := rfl
@[simp] theorem State.modComplex_savedNotes (s : State) (d : Nat) (f : Complex → Complex) : (s.modComplex d f).savedNotes = s.savedNotes := rfl
@[simp] theorem State.modComplex_begins (s : State) (d : Nat) (f : Complex → Complex) : (s.modComplex d f).begins = s.begins := rfl
@[simp] theorem State.modComplex_comets (s : State) (d : Nat) (f : Complex → Complex) : (s.modComplex d f).comets = s.comets := rfl
@[simp] theorem State.modComplex_flights (s : State) (d : Nat) (f : Complex → Complex) : (s.modComplex d f).flights = s.flights := rfl
@[simp] theorem State.modComplex_outMsgs (s : State) (d : Nat) (f : Complex → Complex) : (s.modComplex d f).outMsgs = s.outMsgs := rfl
@[simp] theorem State.modComplex_replies (s : State) (d : Nat) (f : Complex → Complex) : (s.modComplex d f).replies = s.replies := rfl
@[simp] theorem State.modComplex_hostPages (s : State) (d : Nat) (f : Complex → Complex) : (s.modComplex d f).hostPages = s.hostPages := rfl
@[simp] theorem State.modComplex_poisoned (s : State) (d : Nat) (f : Complex → Complex) : (s.modComplex d f).poisoned = s.poisoned := rfl
@[simp] theorem State.modComplex_badTags (s : State) (d : Nat) (f : Complex → Complex) : (s.modComplex d f).badTags = s.badTags := rfl
@[simp] theorem State.modComplex_corrected (s : State) (d : Nat) (f : Complex → Complex) : (s.modComplex d f).corrected = s.corrected := rfl
@[simp] theorem State.modComplex_domain (s : State) (d : Nat) (f : Complex → Complex) : (s.modComplex d f).domain = s.domain := rfl
@[simp] theorem State.modComplex_form (s : State) (d : Nat) (f : Complex → Complex) : (s.modComplex d f).form = s.form := rfl
@[simp] theorem State.modComplex_pkg (s : State) (d : Nat) (f : Complex → Complex) : (s.modComplex d f).pkg = s.pkg := rfl
@[simp] theorem State.modComplex_twoHosts (s : State) (d : Nat) (f : Complex → Complex) : (s.modComplex d f).twoHosts = s.twoHosts := rfl
@[simp] theorem State.modComplex_cap1 (s : State) (d : Nat) (f : Complex → Complex) : (s.modComplex d f).cap1 = s.cap1 := rfl
@[simp] theorem State.modComplex_cap2 (s : State) (d : Nat) (f : Complex → Complex) : (s.modComplex d f).cap2 = s.cap2 := rfl
@[simp] theorem State.modComplex_rails (s : State) (d : Nat) (f : Complex → Complex) : (s.modComplex d f).rails = s.rails := rfl
@[simp] theorem State.modComplex_sstop (s : State) (d : Nat) (f : Complex → Complex) : (s.modComplex d f).sstop = s.sstop := rfl
@[simp] theorem State.modComplex_meas (s : State) (d : Nat) (f : Complex → Complex) : (s.modComplex d f).meas = s.meas := rfl
@[simp] theorem State.modComplex_fuseVer (s : State) (d : Nat) (f : Complex → Complex) : (s.modComplex d f).fuseVer = s.fuseVer := rfl
@[simp] theorem State.modComplex_boot (s : State) (d : Nat) (f : Complex → Complex) : (s.modComplex d f).boot = s.boot := rfl
@[simp] theorem State.modComplex_devKeyGen (s : State) (d : Nat) (f : Complex → Complex) : (s.modComplex d f).devKeyGen = s.devKeyGen := rfl
@[simp] theorem State.modComplex_mgmt (s : State) (d : Nat) (f : Complex → Complex) : (s.modComplex d f).mgmt = s.mgmt := rfl
@[simp] theorem State.modComplex_hostOut (s : State) (d : Nat) (f : Complex → Complex) : (s.modComplex d f).hostOut = s.hostOut := rfl
@[simp] theorem State.modComplex_fabric (s : State) (d : Nat) (f : Complex → Complex) : (s.modComplex d f).fabric = s.fabric := rfl
@[simp] theorem State.modComplex_cur (s : State) (d : Nat) (f : Complex → Complex) : (s.modComplex d f).cur = s.cur := rfl
@[simp] theorem State.modComplex_ir (s : State) (d : Nat) (f : Complex → Complex) : (s.modComplex d f).ir = s.ir := rfl
@[simp] theorem State.modComplex_focus (s : State) (d : Nat) (f : Complex → Complex) : (s.modComplex d f).focus = s.focus := rfl
@[simp] theorem State.modComplex_agenda (s : State) (d : Nat) (f : Complex → Complex) : (s.modComplex d f).agenda = s.agenda := rfl
@[simp] theorem State.modComplex_free (s : State) (d : Nat) (f : Complex → Complex) : (s.modComplex d f).free = s.free := rfl

/-! ### `setMe` -/

@[simp] theorem State.setMe_mem (s : State) (h : Hart) : (s.setMe h).mem = s.mem := rfl
@[simp] theorem State.setMe_cores (s : State) (h : Hart) : (s.setMe h).cores = s.cores := rfl
@[simp] theorem State.setMe_clusters (s : State) (h : Hart) : (s.setMe h).clusters = s.clusters := rfl
@[simp] theorem State.setMe_agents (s : State) (h : Hart) : (s.setMe h).agents = s.agents := rfl
@[simp] theorem State.setMe_parts (s : State) (h : Hart) : (s.setMe h).parts = s.parts := rfl
@[simp] theorem State.setMe_orr (s : State) (h : Hart) : (s.setMe h).orr = s.orr := rfl
@[simp] theorem State.setMe_links (s : State) (h : Hart) : (s.setMe h).links = s.links := rfl
@[simp] theorem State.setMe_remotes (s : State) (h : Hart) : (s.setMe h).remotes = s.remotes := rfl
@[simp] theorem State.setMe_tlb (s : State) (h : Hart) : (s.setMe h).tlb = s.tlb := rfl
@[simp] theorem State.setMe_savedNotes (s : State) (h : Hart) : (s.setMe h).savedNotes = s.savedNotes := rfl
@[simp] theorem State.setMe_begins (s : State) (h : Hart) : (s.setMe h).begins = s.begins := rfl
@[simp] theorem State.setMe_comets (s : State) (h : Hart) : (s.setMe h).comets = s.comets := rfl
@[simp] theorem State.setMe_flights (s : State) (h : Hart) : (s.setMe h).flights = s.flights := rfl
@[simp] theorem State.setMe_outMsgs (s : State) (h : Hart) : (s.setMe h).outMsgs = s.outMsgs := rfl
@[simp] theorem State.setMe_replies (s : State) (h : Hart) : (s.setMe h).replies = s.replies := rfl
@[simp] theorem State.setMe_hostPages (s : State) (h : Hart) : (s.setMe h).hostPages = s.hostPages := rfl
@[simp] theorem State.setMe_poisoned (s : State) (h : Hart) : (s.setMe h).poisoned = s.poisoned := rfl
@[simp] theorem State.setMe_badTags (s : State) (h : Hart) : (s.setMe h).badTags = s.badTags := rfl
@[simp] theorem State.setMe_corrected (s : State) (h : Hart) : (s.setMe h).corrected = s.corrected := rfl
@[simp] theorem State.setMe_domain (s : State) (h : Hart) : (s.setMe h).domain = s.domain := rfl
@[simp] theorem State.setMe_form (s : State) (h : Hart) : (s.setMe h).form = s.form := rfl
@[simp] theorem State.setMe_pkg (s : State) (h : Hart) : (s.setMe h).pkg = s.pkg := rfl
@[simp] theorem State.setMe_twoHosts (s : State) (h : Hart) : (s.setMe h).twoHosts = s.twoHosts := rfl
@[simp] theorem State.setMe_cap1 (s : State) (h : Hart) : (s.setMe h).cap1 = s.cap1 := rfl
@[simp] theorem State.setMe_cap2 (s : State) (h : Hart) : (s.setMe h).cap2 = s.cap2 := rfl
@[simp] theorem State.setMe_rails (s : State) (h : Hart) : (s.setMe h).rails = s.rails := rfl
@[simp] theorem State.setMe_sstop (s : State) (h : Hart) : (s.setMe h).sstop = s.sstop := rfl
@[simp] theorem State.setMe_meas (s : State) (h : Hart) : (s.setMe h).meas = s.meas := rfl
@[simp] theorem State.setMe_fuseVer (s : State) (h : Hart) : (s.setMe h).fuseVer = s.fuseVer := rfl
@[simp] theorem State.setMe_boot (s : State) (h : Hart) : (s.setMe h).boot = s.boot := rfl
@[simp] theorem State.setMe_devKeyGen (s : State) (h : Hart) : (s.setMe h).devKeyGen = s.devKeyGen := rfl
@[simp] theorem State.setMe_mgmt (s : State) (h : Hart) : (s.setMe h).mgmt = s.mgmt := rfl
@[simp] theorem State.setMe_hostOut (s : State) (h : Hart) : (s.setMe h).hostOut = s.hostOut := rfl
@[simp] theorem State.setMe_fabric (s : State) (h : Hart) : (s.setMe h).fabric = s.fabric := rfl
@[simp] theorem State.setMe_cur (s : State) (h : Hart) : (s.setMe h).cur = s.cur := rfl
@[simp] theorem State.setMe_ir (s : State) (h : Hart) : (s.setMe h).ir = s.ir := rfl
@[simp] theorem State.setMe_focus (s : State) (h : Hart) : (s.setMe h).focus = s.focus := rfl
@[simp] theorem State.setMe_agenda (s : State) (h : Hart) : (s.setMe h).agenda = s.agenda := rfl
@[simp] theorem State.setMe_free (s : State) (h : Hart) : (s.setMe h).free = s.free := rfl

/-! ### `modMe` -/

@[simp] theorem State.modMe_mem (s : State) (f : Hart → Hart) : (s.modMe f).mem = s.mem := rfl
@[simp] theorem State.modMe_cores (s : State) (f : Hart → Hart) : (s.modMe f).cores = s.cores := rfl
@[simp] theorem State.modMe_clusters (s : State) (f : Hart → Hart) : (s.modMe f).clusters = s.clusters := rfl
@[simp] theorem State.modMe_agents (s : State) (f : Hart → Hart) : (s.modMe f).agents = s.agents := rfl
@[simp] theorem State.modMe_parts (s : State) (f : Hart → Hart) : (s.modMe f).parts = s.parts := rfl
@[simp] theorem State.modMe_orr (s : State) (f : Hart → Hart) : (s.modMe f).orr = s.orr := rfl
@[simp] theorem State.modMe_links (s : State) (f : Hart → Hart) : (s.modMe f).links = s.links := rfl
@[simp] theorem State.modMe_remotes (s : State) (f : Hart → Hart) : (s.modMe f).remotes = s.remotes := rfl
@[simp] theorem State.modMe_tlb (s : State) (f : Hart → Hart) : (s.modMe f).tlb = s.tlb := rfl
@[simp] theorem State.modMe_savedNotes (s : State) (f : Hart → Hart) : (s.modMe f).savedNotes = s.savedNotes := rfl
@[simp] theorem State.modMe_begins (s : State) (f : Hart → Hart) : (s.modMe f).begins = s.begins := rfl
@[simp] theorem State.modMe_comets (s : State) (f : Hart → Hart) : (s.modMe f).comets = s.comets := rfl
@[simp] theorem State.modMe_flights (s : State) (f : Hart → Hart) : (s.modMe f).flights = s.flights := rfl
@[simp] theorem State.modMe_outMsgs (s : State) (f : Hart → Hart) : (s.modMe f).outMsgs = s.outMsgs := rfl
@[simp] theorem State.modMe_replies (s : State) (f : Hart → Hart) : (s.modMe f).replies = s.replies := rfl
@[simp] theorem State.modMe_hostPages (s : State) (f : Hart → Hart) : (s.modMe f).hostPages = s.hostPages := rfl
@[simp] theorem State.modMe_poisoned (s : State) (f : Hart → Hart) : (s.modMe f).poisoned = s.poisoned := rfl
@[simp] theorem State.modMe_badTags (s : State) (f : Hart → Hart) : (s.modMe f).badTags = s.badTags := rfl
@[simp] theorem State.modMe_corrected (s : State) (f : Hart → Hart) : (s.modMe f).corrected = s.corrected := rfl
@[simp] theorem State.modMe_domain (s : State) (f : Hart → Hart) : (s.modMe f).domain = s.domain := rfl
@[simp] theorem State.modMe_form (s : State) (f : Hart → Hart) : (s.modMe f).form = s.form := rfl
@[simp] theorem State.modMe_pkg (s : State) (f : Hart → Hart) : (s.modMe f).pkg = s.pkg := rfl
@[simp] theorem State.modMe_twoHosts (s : State) (f : Hart → Hart) : (s.modMe f).twoHosts = s.twoHosts := rfl
@[simp] theorem State.modMe_cap1 (s : State) (f : Hart → Hart) : (s.modMe f).cap1 = s.cap1 := rfl
@[simp] theorem State.modMe_cap2 (s : State) (f : Hart → Hart) : (s.modMe f).cap2 = s.cap2 := rfl
@[simp] theorem State.modMe_rails (s : State) (f : Hart → Hart) : (s.modMe f).rails = s.rails := rfl
@[simp] theorem State.modMe_sstop (s : State) (f : Hart → Hart) : (s.modMe f).sstop = s.sstop := rfl
@[simp] theorem State.modMe_meas (s : State) (f : Hart → Hart) : (s.modMe f).meas = s.meas := rfl
@[simp] theorem State.modMe_fuseVer (s : State) (f : Hart → Hart) : (s.modMe f).fuseVer = s.fuseVer := rfl
@[simp] theorem State.modMe_boot (s : State) (f : Hart → Hart) : (s.modMe f).boot = s.boot := rfl
@[simp] theorem State.modMe_devKeyGen (s : State) (f : Hart → Hart) : (s.modMe f).devKeyGen = s.devKeyGen := rfl
@[simp] theorem State.modMe_mgmt (s : State) (f : Hart → Hart) : (s.modMe f).mgmt = s.mgmt := rfl
@[simp] theorem State.modMe_hostOut (s : State) (f : Hart → Hart) : (s.modMe f).hostOut = s.hostOut := rfl
@[simp] theorem State.modMe_fabric (s : State) (f : Hart → Hart) : (s.modMe f).fabric = s.fabric := rfl
@[simp] theorem State.modMe_cur (s : State) (f : Hart → Hart) : (s.modMe f).cur = s.cur := rfl
@[simp] theorem State.modMe_ir (s : State) (f : Hart → Hart) : (s.modMe f).ir = s.ir := rfl
@[simp] theorem State.modMe_focus (s : State) (f : Hart → Hart) : (s.modMe f).focus = s.focus := rfl
@[simp] theorem State.modMe_agenda (s : State) (f : Hart → Hart) : (s.modMe f).agenda = s.agenda := rfl
@[simp] theorem State.modMe_free (s : State) (f : Hart → Hart) : (s.modMe f).free = s.free := rfl

/-! ### `bump` -/

@[simp] theorem State.bump_mem (s : State) : (s.bump).mem = s.mem := rfl
@[simp] theorem State.bump_harts (s : State) : (s.bump).harts = s.harts := rfl
@[simp] theorem State.bump_cores (s : State) : (s.bump).cores = s.cores := rfl
@[simp] theorem State.bump_clusters (s : State) : (s.bump).clusters = s.clusters := rfl
@[simp] theorem State.bump_agents (s : State) : (s.bump).agents = s.agents := rfl
@[simp] theorem State.bump_parts (s : State) : (s.bump).parts = s.parts := rfl
@[simp] theorem State.bump_orr (s : State) : (s.bump).orr = s.orr := rfl
@[simp] theorem State.bump_links (s : State) : (s.bump).links = s.links := rfl
@[simp] theorem State.bump_remotes (s : State) : (s.bump).remotes = s.remotes := rfl
@[simp] theorem State.bump_tlb (s : State) : (s.bump).tlb = s.tlb := rfl
@[simp] theorem State.bump_savedNotes (s : State) : (s.bump).savedNotes = s.savedNotes := rfl
@[simp] theorem State.bump_begins (s : State) : (s.bump).begins = s.begins := rfl
@[simp] theorem State.bump_comets (s : State) : (s.bump).comets = s.comets := rfl
@[simp] theorem State.bump_flights (s : State) : (s.bump).flights = s.flights := rfl
@[simp] theorem State.bump_outMsgs (s : State) : (s.bump).outMsgs = s.outMsgs := rfl
@[simp] theorem State.bump_replies (s : State) : (s.bump).replies = s.replies := rfl
@[simp] theorem State.bump_hostPages (s : State) : (s.bump).hostPages = s.hostPages := rfl
@[simp] theorem State.bump_poisoned (s : State) : (s.bump).poisoned = s.poisoned := rfl
@[simp] theorem State.bump_badTags (s : State) : (s.bump).badTags = s.badTags := rfl
@[simp] theorem State.bump_corrected (s : State) : (s.bump).corrected = s.corrected := rfl
@[simp] theorem State.bump_domain (s : State) : (s.bump).domain = s.domain := rfl
@[simp] theorem State.bump_form (s : State) : (s.bump).form = s.form := rfl
@[simp] theorem State.bump_pkg (s : State) : (s.bump).pkg = s.pkg := rfl
@[simp] theorem State.bump_twoHosts (s : State) : (s.bump).twoHosts = s.twoHosts := rfl
@[simp] theorem State.bump_cap1 (s : State) : (s.bump).cap1 = s.cap1 := rfl
@[simp] theorem State.bump_cap2 (s : State) : (s.bump).cap2 = s.cap2 := rfl
@[simp] theorem State.bump_rails (s : State) : (s.bump).rails = s.rails := rfl
@[simp] theorem State.bump_sstop (s : State) : (s.bump).sstop = s.sstop := rfl
@[simp] theorem State.bump_meas (s : State) : (s.bump).meas = s.meas := rfl
@[simp] theorem State.bump_fuseVer (s : State) : (s.bump).fuseVer = s.fuseVer := rfl
@[simp] theorem State.bump_boot (s : State) : (s.bump).boot = s.boot := rfl
@[simp] theorem State.bump_devKeyGen (s : State) : (s.bump).devKeyGen = s.devKeyGen := rfl
@[simp] theorem State.bump_mgmt (s : State) : (s.bump).mgmt = s.mgmt := rfl
@[simp] theorem State.bump_hostOut (s : State) : (s.bump).hostOut = s.hostOut := rfl
@[simp] theorem State.bump_fabric (s : State) : (s.bump).fabric = s.fabric := rfl
@[simp] theorem State.bump_cur (s : State) : (s.bump).cur = s.cur := rfl
@[simp] theorem State.bump_ir (s : State) : (s.bump).ir = s.ir := rfl
@[simp] theorem State.bump_focus (s : State) : (s.bump).focus = s.focus := rfl
@[simp] theorem State.bump_agenda (s : State) : (s.bump).agenda = s.agenda := rfl

/-! ### Keyed lists -/

/-- What a key reads after a key is written. -/
theorem look_put {α : Type} (m : List (Nat × α)) (k j : Nat) (a d : α) :
    look (put m k a) j d = if j = k then a else look m j d := by
  fun_induction put m k a <;> simp_all [look] <;> grind

/-- A list rises when its head lies below its tail and the tail rises. -/
theorem rising_cons {α : Type} (k : Nat) (a : α) (m : List (Nat × α)) :
    rising ((k, a) :: m) = true ↔ (∀ e ∈ m, k < e.1) ∧ rising m = true := by
  induction m generalizing k a with
  | nil => simp [rising]
  | cons e m ih =>
    obtain ⟨j, b⟩ := e
    simp only [rising, Bool.and_eq_true, decide_eq_true_eq]
    rw [ih]; simp only [List.mem_cons, forall_eq_or_imp]
    constructor
    · rintro ⟨h, h2, h3⟩; exact ⟨⟨h, fun e he => Nat.lt_trans h (h2 e he)⟩, h2, h3⟩
    · rintro ⟨⟨h, _⟩, h2, h3⟩; exact ⟨h, h2, h3⟩

/-- An entry of a list after a write is the one written or was there. -/
theorem mem_put {α : Type} (m : List (Nat × α)) (k : Nat) (a : α) (e : Nat × α) (h : e ∈ put m k a) : e = (k, a) ∨ e ∈ m := by
  fun_induction put m k a <;> grind

/-- A write keeps the keys rising. -/
theorem rising_put {α : Type} (m : List (Nat × α)) (k : Nat) (a : α) (h : rising m = true) : rising (put m k a) = true := by
  fun_induction put m k a with
  | case1 => rfl
  | case2 k m => rw [rising_cons] at *; exact h
  | case3 j b m h1 h2 => rw [rising_cons]; rw [rising_cons] at h; simp only [List.mem_cons]; grind [rising_cons]
  | case4 j b m h1 h2 ih => rw [rising_cons] at *; grind [→ mem_put]

/-- An entry of a list after a removal was there. -/
theorem mem_del {α : Type} (m : List (Nat × α)) (k : Nat) (e : Nat × α) (h : e ∈ del m k) : e ∈ m := by
  fun_induction del m k <;> grind

/-- A removal keeps the keys rising. -/
theorem rising_del {α : Type} (m : List (Nat × α)) (k : Nat) (h : rising m = true) : rising (del m k) = true := by
  fun_induction del m k <;> grind [rising_cons, → mem_del]

/-- A key below every key of the list reads the default. -/
theorem look_low {α : Type} (m : List (Nat × α)) (k : Nat) (d : α) (h : ∀ e ∈ m, k < e.1) : look m k d = d := by
  cases m with
  | nil => rfl
  | cons e m => have := h e (by simp); simp only [look]; grind

/-- What a key reads after a key is removed. -/
theorem look_del {α : Type} (m : List (Nat × α)) (k j : Nat) (d : α) (h : rising m = true) :
    look (del m k) j d = if j = k then d else look m j d := by
  fun_induction del m k with
  | case1 => simp [look]
  | case2 b m => rw [rising_cons] at h; have := look_low m k d h.1; simp only [look]; split
                 · subst_vars; exact this
                 · split
                   · grind
                   · split
                     · exact look_low _ _ _ (by grind)
                     · rfl
  | case3 j b m => simp only [look]; grind [look_low, rising_cons]
  | case4 j b m => simp only [look]; grind [look_low, rising_cons]

/-! ### Reading a part after an update -/

theorem State.hart_setHart (s : State) (k j : Nat) (x : Hart) : (s.setHart k x).hart j = if j = k then x else s.hart j := by
  simp only [State.hart, State.setHart, look_put]

theorem State.hart_modHart (s : State) (k j : Nat) (f : Hart → Hart) :
    (s.modHart k f).hart j = if j = k then f (s.hart k) else s.hart j := by
  simp only [State.modHart, State.hart_setHart]

@[simp] theorem State.hart_setHart_self (s : State) (k : Nat) (x : Hart) : (s.setHart k x).hart k = x := by
  simp only [State.hart_setHart, if_true]

@[simp] theorem State.hart_modHart_self (s : State) (k : Nat) (f : Hart → Hart) : (s.modHart k f).hart k = f (s.hart k) := by
  simp only [State.hart_modHart, if_true]

theorem State.core_setCore (s : State) (k j : Nat) (x : Core) : (s.setCore k x).core j = if j = k then x else s.core j := by
  simp only [State.core, State.setCore, look_put]

theorem State.core_modCore (s : State) (k j : Nat) (f : Core → Core) :
    (s.modCore k f).core j = if j = k then f (s.core k) else s.core j := by
  simp only [State.modCore, State.core_setCore]

@[simp] theorem State.core_setCore_self (s : State) (k : Nat) (x : Core) : (s.setCore k x).core k = x := by
  simp only [State.core_setCore, if_true]

@[simp] theorem State.core_modCore_self (s : State) (k : Nat) (f : Core → Core) : (s.modCore k f).core k = f (s.core k) := by
  simp only [State.core_modCore, if_true]

theorem State.cluster_setCluster (s : State) (k j : Nat) (x : Cluster) : (s.setCluster k x).cluster j = if j = k then x else s.cluster j := by
  simp only [State.cluster, State.setCluster, look_put]

theorem State.cluster_modCluster (s : State) (k j : Nat) (f : Cluster → Cluster) :
    (s.modCluster k f).cluster j = if j = k then f (s.cluster k) else s.cluster j := by
  simp only [State.modCluster, State.cluster_setCluster]

@[simp] theorem State.cluster_setCluster_self (s : State) (k : Nat) (x : Cluster) : (s.setCluster k x).cluster k = x := by
  simp only [State.cluster_setCluster, if_true]

@[simp] theorem State.cluster_modCluster_self (s : State) (k : Nat) (f : Cluster → Cluster) : (s.modCluster k f).cluster k = f (s.cluster k) := by
  simp only [State.cluster_modCluster, if_true]

theorem State.agent_setAgent (s : State) (k j : Nat) (x : Agent) : (s.setAgent k x).agent j = if j = k then x else s.agent j := by
  simp only [State.agent, State.setAgent, look_put]

theorem State.agent_modAgent (s : State) (k j : Nat) (f : Agent → Agent) :
    (s.modAgent k f).agent j = if j = k then f (s.agent k) else s.agent j := by
  simp only [State.modAgent, State.agent_setAgent]

@[simp] theorem State.agent_setAgent_self (s : State) (k : Nat) (x : Agent) : (s.setAgent k x).agent k = x := by
  simp only [State.agent_setAgent, if_true]

@[simp] theorem State.agent_modAgent_self (s : State) (k : Nat) (f : Agent → Agent) : (s.modAgent k f).agent k = f (s.agent k) := by
  simp only [State.agent_modAgent, if_true]

theorem State.part_setPart (s : State) (k j : Nat) (x : Partition) (h : k < 8) :
    (s.setPart k x).part j = if j = k then x else s.part j := by
  simp only [State.part, State.setPart, Vector.getElem?_setIfInBounds]; grind

theorem State.part_modPart (s : State) (k j : Nat) (f : Partition → Partition) (h : k < 8) :
    (s.modPart k f).part j = if j = k then f (s.part k) else s.part j := by
  simp only [State.modPart, State.part_setPart _ _ _ _ h]

theorem State.complex_setComplex (s : State) (k j : Nat) (x : Complex) (h : k < 2) :
    (s.setComplex k x).complex j = if j = k then x else s.complex j := by
  simp only [State.complex, State.setComplex, Vector.getElem?_setIfInBounds]; grind

theorem State.complex_modComplex (s : State) (k j : Nat) (f : Complex → Complex) (h : k < 2) :
    (s.modComplex k f).complex j = if j = k then f (s.complex k) else s.complex j := by
  simp only [State.modComplex, State.complex_setComplex _ _ _ _ h]

@[simp] theorem State.hart_setCore (s : State) (k j : Nat) (x : Core) : (s.setCore k x).hart j = s.hart j := rfl
@[simp] theorem State.hart_modCore (s : State) (k j : Nat) (f : Core → Core) : (s.modCore k f).hart j = s.hart j := rfl
@[simp] theorem State.hart_setCluster (s : State) (k j : Nat) (x : Cluster) : (s.setCluster k x).hart j = s.hart j := rfl
@[simp] theorem State.hart_modCluster (s : State) (k j : Nat) (f : Cluster → Cluster) : (s.modCluster k f).hart j = s.hart j := rfl
@[simp] theorem State.hart_setAgent (s : State) (k j : Nat) (x : Agent) : (s.setAgent k x).hart j = s.hart j := rfl
@[simp] theorem State.hart_modAgent (s : State) (k j : Nat) (f : Agent → Agent) : (s.modAgent k f).hart j = s.hart j := rfl
@[simp] theorem State.hart_setPart (s : State) (k j : Nat) (x : Partition) : (s.setPart k x).hart j = s.hart j := rfl
@[simp] theorem State.hart_modPart (s : State) (k j : Nat) (f : Partition → Partition) : (s.modPart k f).hart j = s.hart j := rfl
@[simp] theorem State.hart_setComplex (s : State) (k j : Nat) (x : Complex) : (s.setComplex k x).hart j = s.hart j := rfl
@[simp] theorem State.hart_modComplex (s : State) (k j : Nat) (f : Complex → Complex) : (s.modComplex k f).hart j = s.hart j := rfl
@[simp] theorem State.core_setHart (s : State) (k j : Nat) (x : Hart) : (s.setHart k x).core j = s.core j := rfl
@[simp] theorem State.core_modHart (s : State) (k j : Nat) (f : Hart → Hart) : (s.modHart k f).core j = s.core j := rfl
@[simp] theorem State.core_setCluster (s : State) (k j : Nat) (x : Cluster) : (s.setCluster k x).core j = s.core j := rfl
@[simp] theorem State.core_modCluster (s : State) (k j : Nat) (f : Cluster → Cluster) : (s.modCluster k f).core j = s.core j := rfl
@[simp] theorem State.core_setAgent (s : State) (k j : Nat) (x : Agent) : (s.setAgent k x).core j = s.core j := rfl
@[simp] theorem State.core_modAgent (s : State) (k j : Nat) (f : Agent → Agent) : (s.modAgent k f).core j = s.core j := rfl
@[simp] theorem State.core_setPart (s : State) (k j : Nat) (x : Partition) : (s.setPart k x).core j = s.core j := rfl
@[simp] theorem State.core_modPart (s : State) (k j : Nat) (f : Partition → Partition) : (s.modPart k f).core j = s.core j := rfl
@[simp] theorem State.core_setComplex (s : State) (k j : Nat) (x : Complex) : (s.setComplex k x).core j = s.core j := rfl
@[simp] theorem State.core_modComplex (s : State) (k j : Nat) (f : Complex → Complex) : (s.modComplex k f).core j = s.core j := rfl
@[simp] theorem State.cluster_setHart (s : State) (k j : Nat) (x : Hart) : (s.setHart k x).cluster j = s.cluster j := rfl
@[simp] theorem State.cluster_modHart (s : State) (k j : Nat) (f : Hart → Hart) : (s.modHart k f).cluster j = s.cluster j := rfl
@[simp] theorem State.cluster_setCore (s : State) (k j : Nat) (x : Core) : (s.setCore k x).cluster j = s.cluster j := rfl
@[simp] theorem State.cluster_modCore (s : State) (k j : Nat) (f : Core → Core) : (s.modCore k f).cluster j = s.cluster j := rfl
@[simp] theorem State.cluster_setAgent (s : State) (k j : Nat) (x : Agent) : (s.setAgent k x).cluster j = s.cluster j := rfl
@[simp] theorem State.cluster_modAgent (s : State) (k j : Nat) (f : Agent → Agent) : (s.modAgent k f).cluster j = s.cluster j := rfl
@[simp] theorem State.cluster_setPart (s : State) (k j : Nat) (x : Partition) : (s.setPart k x).cluster j = s.cluster j := rfl
@[simp] theorem State.cluster_modPart (s : State) (k j : Nat) (f : Partition → Partition) : (s.modPart k f).cluster j = s.cluster j := rfl
@[simp] theorem State.cluster_setComplex (s : State) (k j : Nat) (x : Complex) : (s.setComplex k x).cluster j = s.cluster j := rfl
@[simp] theorem State.cluster_modComplex (s : State) (k j : Nat) (f : Complex → Complex) : (s.modComplex k f).cluster j = s.cluster j := rfl
@[simp] theorem State.agent_setHart (s : State) (k j : Nat) (x : Hart) : (s.setHart k x).agent j = s.agent j := rfl
@[simp] theorem State.agent_modHart (s : State) (k j : Nat) (f : Hart → Hart) : (s.modHart k f).agent j = s.agent j := rfl
@[simp] theorem State.agent_setCore (s : State) (k j : Nat) (x : Core) : (s.setCore k x).agent j = s.agent j := rfl
@[simp] theorem State.agent_modCore (s : State) (k j : Nat) (f : Core → Core) : (s.modCore k f).agent j = s.agent j := rfl
@[simp] theorem State.agent_setCluster (s : State) (k j : Nat) (x : Cluster) : (s.setCluster k x).agent j = s.agent j := rfl
@[simp] theorem State.agent_modCluster (s : State) (k j : Nat) (f : Cluster → Cluster) : (s.modCluster k f).agent j = s.agent j := rfl
@[simp] theorem State.agent_setPart (s : State) (k j : Nat) (x : Partition) : (s.setPart k x).agent j = s.agent j := rfl
@[simp] theorem State.agent_modPart (s : State) (k j : Nat) (f : Partition → Partition) : (s.modPart k f).agent j = s.agent j := rfl
@[simp] theorem State.agent_setComplex (s : State) (k j : Nat) (x : Complex) : (s.setComplex k x).agent j = s.agent j := rfl
@[simp] theorem State.agent_modComplex (s : State) (k j : Nat) (f : Complex → Complex) : (s.modComplex k f).agent j = s.agent j := rfl
@[simp] theorem State.part_setHart (s : State) (k j : Nat) (x : Hart) : (s.setHart k x).part j = s.part j := rfl
@[simp] theorem State.part_modHart (s : State) (k j : Nat) (f : Hart → Hart) : (s.modHart k f).part j = s.part j := rfl
@[simp] theorem State.part_setCore (s : State) (k j : Nat) (x : Core) : (s.setCore k x).part j = s.part j := rfl
@[simp] theorem State.part_modCore (s : State) (k j : Nat) (f : Core → Core) : (s.modCore k f).part j = s.part j := rfl
@[simp] theorem State.part_setCluster (s : State) (k j : Nat) (x : Cluster) : (s.setCluster k x).part j = s.part j := rfl
@[simp] theorem State.part_modCluster (s : State) (k j : Nat) (f : Cluster → Cluster) : (s.modCluster k f).part j = s.part j := rfl
@[simp] theorem State.part_setAgent (s : State) (k j : Nat) (x : Agent) : (s.setAgent k x).part j = s.part j := rfl
@[simp] theorem State.part_modAgent (s : State) (k j : Nat) (f : Agent → Agent) : (s.modAgent k f).part j = s.part j := rfl
@[simp] theorem State.part_setComplex (s : State) (k j : Nat) (x : Complex) : (s.setComplex k x).part j = s.part j := rfl
@[simp] theorem State.part_modComplex (s : State) (k j : Nat) (f : Complex → Complex) : (s.modComplex k f).part j = s.part j := rfl
@[simp] theorem State.complex_setHart (s : State) (k j : Nat) (x : Hart) : (s.setHart k x).complex j = s.complex j := rfl
@[simp] theorem State.complex_modHart (s : State) (k j : Nat) (f : Hart → Hart) : (s.modHart k f).complex j = s.complex j := rfl
@[simp] theorem State.complex_setCore (s : State) (k j : Nat) (x : Core) : (s.setCore k x).complex j = s.complex j := rfl
@[simp] theorem State.complex_modCore (s : State) (k j : Nat) (f : Core → Core) : (s.modCore k f).complex j = s.complex j := rfl
@[simp] theorem State.complex_setCluster (s : State) (k j : Nat) (x : Cluster) : (s.setCluster k x).complex j = s.complex j := rfl
@[simp] theorem State.complex_modCluster (s : State) (k j : Nat) (f : Cluster → Cluster) : (s.modCluster k f).complex j = s.complex j := rfl
@[simp] theorem State.complex_setAgent (s : State) (k j : Nat) (x : Agent) : (s.setAgent k x).complex j = s.complex j := rfl
@[simp] theorem State.complex_modAgent (s : State) (k j : Nat) (f : Agent → Agent) : (s.modAgent k f).complex j = s.complex j := rfl
@[simp] theorem State.complex_setPart (s : State) (k j : Nat) (x : Partition) : (s.setPart k x).complex j = s.complex j := rfl
@[simp] theorem State.complex_modPart (s : State) (k j : Nat) (f : Partition → Partition) : (s.modPart k f).complex j = s.complex j := rfl

@[simp] theorem State.me_setMe (s : State) (h : Hart) : (s.setMe h).me = h := by
  simp only [State.me, State.setMe, State.setHart_cur, State.hart_setHart_self]

@[simp] theorem State.me_modMe (s : State) (f : Hart → Hart) : (s.modMe f).me = f s.me := by
  simp only [State.me, State.modMe, State.modHart_cur, State.hart_modHart_self]

@[simp] theorem State.me_setCore (s : State) (c : Nat) (x : Core) : (s.setCore c x).me = s.me := rfl
@[simp] theorem State.me_modCore (s : State) (c : Nat) (f : Core → Core) : (s.modCore c f).me = s.me := rfl
@[simp] theorem State.me_modCluster (s : State) (g : Nat) (f : Cluster → Cluster) : (s.modCluster g f).me = s.me := rfl
@[simp] theorem State.core_modMe (s : State) (f : Hart → Hart) (c : Nat) : (s.modMe f).core c = s.core c := rfl
@[simp] theorem State.cluster_modMe (s : State) (f : Hart → Hart) (g : Nat) : (s.modMe f).cluster g = s.cluster g := rfl
@[simp] theorem State.part_modMe (s : State) (f : Hart → Hart) (q : Nat) : (s.modMe f).part q = s.part q := rfl

/-! ### Registers of a hart -/

/-- x0 reads as zero. -/
@[simp] theorem Hart.getX_zero (h : Hart) : h.getX 0 = 0 := rfl

/-- What a register reads after a register is written: a write of x0 is discarded. -/
theorem Hart.getX_setX (h : Hart) (r q : BitVec 5) (v : Word) :
    (h.setX r v).getX q = if q = r ∧ r ≠ 0 then v else h.getX q := by
  by_cases hr : r = 0
  · subst hr; simp [Hart.setX]
  · by_cases hq : q = 0
    · subst hq; rw [if_neg (fun h => hr h.1.symm), Hart.getX_zero, Hart.getX_zero]
    · have e : (h.setX r v).x = h.x.set r.toNat v := by rw [Hart.setX, if_neg hr]
      simp only [Hart.getX, if_neg hq, e, Vector.getElem_set]
      by_cases c : q = r
      · subst c; rw [if_pos rfl, if_pos ⟨rfl, hr⟩]
      · rw [if_neg (fun h => c (BitVec.eq_of_toNat_eq h.symm)), if_neg (fun h => c h.1)]

end Sys2Proof.Machine
end

