-- ==== Sys2Proof/Laws/Memory.lean ====
section
/-!
SUPPORT. Laws/Memory.lean: memory keeps its canonical form, and what reads give after writes.
-/

namespace Sys2Proof.Machine

/-- The canonical form, spelled out. -/
theorem Memory.wf_iff (m : List Host.Cell) : Memory.wf m = true ↔ rising m = true ∧ ∀ e ∈ m, e.2 ≠ Memory.dflt := by
  simp [Memory.wf]

/-- A write of a byte keeps the canonical form. -/
theorem Memory.set_wf (m : List Host.Cell) (a : Nat) (b : Byte) (h : Memory.wf m = true) : Memory.wf (Memory.set m a b) = true := by
  rw [Memory.wf_iff] at *
  unfold Memory.set
  split
  · exact ⟨rising_del _ _ h.1, fun e he => h.2 e (mem_del _ _ _ he)⟩
  · exact ⟨rising_put _ _ _ h.1, fun e he => by rcases mem_put _ _ _ _ he with rfl | h' <;> grind⟩

/-- What a byte reads after a byte is written. -/
theorem Memory.get_set (m : List Host.Cell) (a c : Nat) (b : Byte) (h : Memory.wf m = true) :
    Memory.get (Memory.set m a b) c = if c = a then b else Memory.get m c := by
  rw [Memory.wf_iff] at h
  unfold Memory.set Memory.get
  split
  · rw [look_del _ _ _ _ h.1]; grind
  · rw [look_put]

/-- A write of n bytes keeps the canonical form. -/
theorem Memory.write_wf (m : List Host.Cell) (a v n : Nat) (h : Memory.wf m = true) : Memory.wf (Memory.write m a v n) = true := by
  induction n generalizing m a v with
  | zero => exact h
  | succ n ih => exact ih _ _ _ (Memory.set_wf _ _ _ h)

/-- What a byte reads after n bytes are written. -/
theorem Memory.get_write (m : List Host.Cell) (a v n c : Nat) (h : Memory.wf m = true) :
    Memory.get (Memory.write m a v n) c = if a ≤ c ∧ c < a + n then byteOf v (c - a) else Memory.get m c := by
  induction n generalizing m a v with
  | zero => rw [Memory.write, if_neg (by omega)]
  | succ n ih =>
    rw [Memory.write, ih _ _ _ (Memory.set_wf _ _ _ h), Memory.get_set _ _ _ _ h]
    by_cases h1 : c = a
    · subst h1; rw [if_neg (by omega), if_pos rfl, if_pos (by omega)]; simp [byteOf]
    · by_cases h2 : a + 1 ≤ c ∧ c < a + 1 + n
      · rw [if_pos h2, if_pos (by omega)]
        obtain ⟨d, rfl⟩ : ∃ d, c = a + 1 + d := ⟨c - (a + 1), by omega⟩
        simp only [byteOf, Nat.add_sub_cancel_left, show a + 1 + d - a = d + 1 by omega]
        rw [← Nat.shiftRight_add]; congr 2; omega
      · rw [if_neg h2, if_neg h1, if_neg (by omega)]

/-- A read depends on the bytes it covers. -/
theorem Memory.read_eq (m m' : List Host.Cell) (a n : Nat) (h : ∀ i < n, Memory.get m (a + i) = Memory.get m' (a + i)) :
    Memory.read m a n = Memory.read m' a n := by
  induction n generalizing a with
  | zero => rfl
  | succ n ih =>
    simp only [Memory.read]
    have h0 := h 0 (by omega)
    rw [Nat.add_zero] at h0
    rw [h0, ih (a + 1) (fun i hi => by have := h (i + 1) (by omega); simpa [Nat.add_assoc, Nat.add_comm 1 i] using this)]

/-- A read of n bytes lies below 256^n. -/
theorem Memory.read_lt (m : List Host.Cell) (a n : Nat) : Memory.read m a n < 256 ^ n := by
  induction n generalizing a with
  | zero => simp [Memory.read]
  | succ n ih => have := ih (a + 1); have h := (Memory.get m a).isLt; simp only [Memory.read, Nat.pow_succ]; omega

/-- A read after a write of the same bytes gives the value written. -/
theorem Memory.read_write (m : List Host.Cell) (a v n : Nat) (h : Memory.wf m = true) :
    Memory.read (Memory.write m a v n) a n = v % 256 ^ n := by
  have key : ∀ (k i b : Nat) (m' : List Host.Cell), (∀ j < k, Memory.get m' (b + j) = byteOf v (i + j)) →
      Memory.read m' b k = v / 256 ^ i % 256 ^ k := by
    intro k
    induction k with
    | zero => intro i b m' _; simp [Memory.read, Nat.mod_one]
    | succ k ih =>
      intro i b m' hb
      have h0 := hb 0 (by omega)
      rw [Nat.add_zero, Nat.add_zero] at h0
      rw [Memory.read, h0, ih (i + 1) (b + 1) m' (fun j hj => by
        have := hb (j + 1) (by omega); rw [Nat.add_right_comm] ; simpa [Nat.add_assoc, Nat.add_comm 1 j] using this)]
      simp only [byteOf, BitVec.toNat_ofNat, Nat.shiftRight_eq_div_pow]
      rw [show 2 ^ (8 * i) = 256 ^ i by rw [Nat.pow_mul], show (2 : Nat) ^ 8 = 256 from rfl]
      rw [Nat.pow_succ 256 i, Nat.pow_succ' (m := 256) (n := k), ← Nat.div_div_eq_div_mul, Nat.mod_mul]
  have := key n 0 a (Memory.write m a v n) (fun j hj => by rw [Memory.get_write _ _ _ _ _ h, if_pos (by omega)]; simp)
  simpa using this

/-- Memory right after reset is in canonical form. -/
theorem State.reset_mem_wf : Memory.wf State.reset.mem = true := rfl

end Sys2Proof.Machine
end

