-- ==== Sys2Proof/Laws/Ops.lean ====
section
/-!
SUPPORT. Laws/Ops.lean: what ending an instruction does, once for every instruction that ends so.
-/

namespace Sys2Proof.Laws

open Sys2Proof.Machine Sys2Proof.Spec

theorem put_put {α : Type} (m : List (Nat × α)) (k : Nat) (a b : α) : put (put m k a) k b = put m k b := by
  induction m with
  | nil => simp [put]
  | cons e m ih =>
    obtain ⟨j, c⟩ := e
    simp only [put]
    split
    · simp [put]
    · split <;> simp [put, *]

theorem look_put_self {α : Type} (m : List (Nat × α)) (k : Nat) (a d : α) : look (put m k a) k d = a := by
  rw [look_put, if_pos rfl]

/-- Two updates of one hart are the later one. -/
@[simp] theorem setHart_setHart (s : State) (k : Nat) (h g : Hart) : (s.setHart k h).setHart k g = s.setHart k g := by
  simp [State.setHart, put_put]

@[simp] theorem setCore_setCore (s : State) (k : Nat) (h g : Core) : (s.setCore k h).setCore k g = s.setCore k g := by
  simp [State.setCore, put_put]

@[simp] theorem setCluster_setCluster (s : State) (k : Nat) (h g : Cluster) :
    (s.setCluster k h).setCluster k g = s.setCluster k g := by
  simp [State.setCluster, put_put]

/-- Updates of a hart and of a core commute. -/
theorem setCore_setHart (s : State) (c : Nat) (x : Core) (k : Nat) (h : Hart) :
    (s.setCore c x).setHart k h = (s.setHart k h).setCore c x := rfl

@[simp] theorem setHart_me (s : State) (h : Hart) : (s.setHart s.cur h).me = h := by
  simp [State.me, State.hart, State.setHart, look_put_self]

/-- The hart counted, and the count of a message hart. -/
theorem count_eq (s : State) :
    s.count = if isMsg s.cur then
        (s.setHart s.cur { s.me with instret := s.me.instret + 1, stall := none, park := none }).setCore (coreOf s.cur)
          { s.core (coreOf s.cur) with
            running := (s.core (coreOf s.cur)).running.map (fun r => { r with count := r.count + 1 }) }
      else s.setHart s.cur { s.me with instret := s.me.instret + 1, stall := none, park := none } := rfl

/-- Retiring to a target. -/
theorem retireTo_eq (s : State) (p : Word) : retireTo p s = .next (retired s s.me p) := by
  rw [retireTo, count_eq, retired]
  split
  · next h =>
    show Host.Outcome.next (State.setHart (State.setCore (State.setHart s s.cur _) _ _) s.cur _) = _
    rw [setCore_setHart, setHart_setHart]
    congr 3
    simp [State.hart, State.setHart, State.setCore, look_put_self]
  · show Host.Outcome.next (State.setHart (State.setHart s s.cur _) s.cur _) = _
    rw [setHart_setHart]
    congr 2
    simp [State.hart, State.setHart, look_put_self]

/-- Retiring an instruction that writes no register. -/
theorem retire_eq (s : State) : retire s = .next (wentOnly s) := retireTo_eq _ _

@[simp] theorem wrote_pc (h : Hart) (r : BitVec 5) (v : Word) : (wrote h r v).pc = h.pc := by
  unfold wrote; split <;> rfl

theorem setX_eq (h : Hart) (r : BitVec 5) (v : Word) : h.setX r v = wrote h r v := rfl

/-- What retires of a state whose current hart has changed first. -/
theorem retired_setHart (s : State) (g h : Hart) (p : Word) : retired (s.setHart s.cur g) h p = retired s h p := by
  simp only [retired, State.setHart_cur, setHart_setHart]
  rfl

/-- Retiring an instruction that writes `x[rd]`. -/
theorem retireX_eq (s : State) (r : BitVec 5) (v : Word) : retireX r v s = .next (wentOn s r v) := by
  rw [retireX, retire_eq, wentOnly, wentOn]
  have h : s.modMe (fun h => h.setX r v) = s.setHart s.cur (wrote s.me r v) := rfl
  rw [h, setHart_me, retired_setHart, wrote_pc]

/-- Stalling and parking. -/
theorem stall_eq (w : Stall) (s : State) : stall w s = .next (stalled s w) := rfl
theorem parkIn_eq (p : Park) (s : State) : parkIn p s = .next (parked s p) := rfl

/-- Retirement leaves memory, and every part of the package but the hart and its core, as it was. -/
@[simp] theorem retired_mem (s : State) (h : Hart) (p : Word) : (retired s h p).mem = s.mem := by
  unfold retired; split <;> rfl
@[simp] theorem retired_cur (s : State) (h : Hart) (p : Word) : (retired s h p).cur = s.cur := by
  unfold retired; split <;> rfl
@[simp] theorem retired_clusters (s : State) (h : Hart) (p : Word) : (retired s h p).clusters = s.clusters := by
  unfold retired; split <;> rfl
@[simp] theorem retired_parts (s : State) (h : Hart) (p : Word) : (retired s h p).parts = s.parts := by
  unfold retired; split <;> rfl
@[simp] theorem retired_agents (s : State) (h : Hart) (p : Word) : (retired s h p).agents = s.agents := by
  unfold retired; split <;> rfl

/-- The hart that has retired. -/
theorem retired_me (s : State) (h : Hart) (p : Word) :
    (retired s h p).me = { h with pc := p, instret := h.instret + 1, stall := none, park := none } := by
  unfold retired; split <;> simp [State.me, State.hart, State.setHart, State.setCore, look_put_self]

/-- Another hart is as it was. -/
theorem retired_hart (s : State) (h : Hart) (p : Word) (k : Nat) (hk : k ≠ s.cur) :
    (retired s h p).hart k = s.hart k := by
  unfold retired; split <;> simp [State.hart, State.setHart, State.setCore, look_put, hk]

/-! ### Waiting for room (R208, R329) -/

/-- What an operation that may have to wait for room answers: its own answer, or a stall in the state before. -/
theorem untilRoom_cases (s : State) (r : Res) :
    (∃ t, r = .next t ∧ s.addsWaiting t = true ∧ untilRoom s r = .next (stalled s .event)) ∨
    (∃ t, r = .next t ∧ s.addsWaiting t = false ∧ t.overfull = true ∧ untilRoom s r = .next (stalled s .window)) ∨
    ((∀ t, r = .next t → s.addsWaiting t = false ∧ t.overfull = false) ∧ untilRoom s r = r) := by
  cases r with
  | next t =>
    cases a : s.addsWaiting t <;> cases b : t.overfull <;> simp [untilRoom, stall_eq, a, b]
  | _ => simp [untilRoom]

/-- Where there is room, the operation answers. -/
theorem untilRoom_room (s t : State) (a : s.addsWaiting t = false) (b : t.overfull = false) :
    untilRoom s (.next t) = .next t := by
  simp [untilRoom, a, b]

/-- A step of the device makes its state, or leaves the state before while there is no room. -/
theorem ifRoom_cases (s t : State) : s.ifRoom t = t ∨ s.ifRoom t = s := by
  unfold State.ifRoom; split <;> simp

theorem untilWindowRoom_cases (s t : State) : s.untilWindowRoom t = t ∨ s.untilWindowRoom t = s := by
  unfold State.untilWindowRoom; split <;> simp

/-! ### Reading memory -/

/-- Holding a walk in the translation caches changes those and the next free value only. -/
theorem cache_eq (s : State) (w : Who) (acc : Acc) (va : Word) :
    s.cache w acc va = { s with tlb := (s.cache w acc va).tlb, free := (s.cache w acc va).free } := by
  unfold State.cache
  repeat' split
  all_goals rfl

@[simp] theorem cache_mem (s : State) (w : Who) (acc : Acc) (va : Word) : (s.cache w acc va).mem = s.mem := by
  rw [cache_eq]
@[simp] theorem cache_harts (s : State) (w : Who) (acc : Acc) (va : Word) : (s.cache w acc va).harts = s.harts := by
  rw [cache_eq]
@[simp] theorem cache_cores (s : State) (w : Who) (acc : Acc) (va : Word) : (s.cache w acc va).cores = s.cores := by
  rw [cache_eq]
@[simp] theorem cache_clusters (s : State) (w : Who) (acc : Acc) (va : Word) :
    (s.cache w acc va).clusters = s.clusters := by
  rw [cache_eq]
@[simp] theorem cache_parts (s : State) (w : Who) (acc : Acc) (va : Word) : (s.cache w acc va).parts = s.parts := by
  rw [cache_eq]
@[simp] theorem cache_cur (s : State) (w : Who) (acc : Acc) (va : Word) : (s.cache w acc va).cur = s.cur := by
  rw [cache_eq]

/-- A scalar load of memory reads its bytes and holds its walk (R98). -/
theorem loadN_memory (s : State) (n : Nat) (va : Word) (pa : Nat) (h : s.check s.who .load (.scalar n) n va = .ok pa)
    (b : (s.region s.who.core pa).isBlock = false) :
    ∃ v, s.loadN n va = .ok (v, s.cache s.who .load va) := by
  have w : (s.cache s.who .load va).who = s.who := by rw [cache_eq]; rfl
  have r : (s.cache s.who .load va).region (s.cache s.who .load va).who.core pa = s.region s.who.core pa := by
    rw [w, cache_eq]; rfl
  simp only [State.loadN, h, r, b]
  exact ⟨_, rfl⟩

/-- The numbers a count runs over. -/
@[simp] theorem mem_upto (i n : Nat) : i ∈ upto n ↔ i < n := List.mem_range

/-- Where no window is enabled every store has room (R208). -/
theorem linesFit_of_windowOff (s : State) (lines : List Nat) (h : s.windowOn = false) : s.linesFit lines = true := by
  unfold State.linesFit
  rw [Vector.all_eq_true]
  intro i hi
  rw [Vector.all_eq_true]
  intro j hj
  have off : (s.parts[i]).wins[j].en = false := by
    unfold State.windowOn at h
    rw [Vector.any_eq_false] at h
    have := h i hi
    rw [Bool.not_eq_true, Vector.any_eq_false] at this
    simpa using this j hj
  have none_ : lines.eraseDups.filter (s.parts[i]).wins[j].adds = [] := by
    rw [List.filter_eq_nil_iff]
    intro l _
    simp [Window.adds, Window.holds, off]
  simp [none_]

/-- A store of a further line to a window that holds as many as it may has no room (R208). -/
theorem linesFit_of_full (s : State) (lines : List Nat) (i j l : Nat) (hi : i < 8) (hj : j < 16) (m : l ∈ lines)
    (a : (s.parts[i]).wins[j].adds l = true) (full : 16384 ≤ (s.parts[i]).wins[j].pending.length) :
    s.linesFit lines = false := by
  unfold State.linesFit
  rw [Vector.all_eq_false]
  refine ⟨i, hi, ?_⟩
  rw [Bool.not_eq_true, Vector.all_eq_false]
  refine ⟨j, hj, ?_⟩
  have mem : l ∈ lines.eraseDups.filter (s.parts[i]).wins[j].adds :=
    List.mem_filter.mpr ⟨List.mem_eraseDups.mpr m, a⟩
  have pos : 0 < (lines.eraseDups.filter (s.parts[i]).wins[j].adds).length := List.length_pos_of_mem mem
  simp only [Bool.or_eq_true, List.isEmpty_iff, decide_eq_true_eq]
  rintro (h | h)
  · rw [h] at mem; cases mem
  · omega

/-- Every one of n doublewords from an address lies in memory that the current hart may read. -/
def readable (s : State) (va : Word) : Nat → Bool
  | 0 => true
  | n + 1 =>
    (match s.check s.who .load (.scalar 8) 8 va with
      | .ok pa => !(s.region s.who.core pa).isBlock
      | .error _ => false) && readable (s.cache s.who .load va) (va + 8) n

/-- Reading such doublewords one after the other changes the translation caches and the next free value only. -/
theorem loadWords_memory (n : Nat) (s : State) (va : Word) (h : readable s va n = true) :
    ∃ l u, s.loadWords va n = .ok (l, u) ∧ u = { s with tlb := u.tlb, free := u.free } := by
  induction n generalizing s va with
  | zero => exact ⟨[], s, rfl, rfl⟩
  | succ n ih =>
    simp only [readable, Bool.and_eq_true] at h
    obtain ⟨h1, h2⟩ := h
    split at h1
    · next pa hc =>
      obtain ⟨v, hv⟩ := loadN_memory s 8 va pa hc (by simpa using h1)
      obtain ⟨l, u, hl, hu⟩ := ih _ _ h2
      refine ⟨v :: l, u, by simp only [State.loadWords, hv, hl], ?_⟩
      rw [cache_eq] at hu
      exact hu
    · cases h1

end Sys2Proof.Laws
end

