-- ==== Sys2Proof/Laws/PerInstr.lean ====
section
/-!
SUPPORT. Laws/PerInstr.lean: the round trip of the encoding, one lemma for each instruction: the decoder reads the word of
a well-formed instruction as that instruction; an event has no word.
-/

namespace Sys2Proof

set_option linter.unusedSimpArgs false

/-! ### Fields of a word -/

theorem Fields.ofWord_toWord (f : Fields) : Fields.ofWord f.toWord = f := by
  cases f
  simp only [Fields.ofWord, Fields.toWord, Fields.mk.injEq]
  refine ⟨?_, ?_, ?_, ?_, ?_, ?_, ?_, ?_, ?_⟩ <;>
    (ext i hi
     rw [BitVec.getElem_extractLsb']
     repeat rw [BitVec.getLsbD_append]
     repeat (first | rw [if_pos (by omega)] | rw [if_neg (by omega)])
     rw [← BitVec.getLsbD_eq_getElem]
     congr 1
     try omega)

theorem Fields.toWord_low (f : Fields) (n : Nat) (h : n ≤ 7) : f.toWord.extractLsb' 0 n = f.op.extractLsb' 0 n := by
  ext i hi
  rw [BitVec.getElem_extractLsb', BitVec.getElem_extractLsb', Fields.toWord, BitVec.getLsbD_append, if_pos (by omega)]

/-- A major opcode of a 32-bit instruction (R40). -/
def opOk (op : BitVec 7) : Bool := op.extractLsb' 0 2 = 3 && op.extractLsb' 0 5 ≠ 31 && op ≠ 0x3F

theorem decode_toWord (fw : Bool) (f : Fields) (i : Instr) (ho : opOk f.op = true) (hm : decodeMajor fw f = some i)
    (h : i.wf = true) : decode fw f.toWord = .ok i := by
  simp only [opOk, Bool.and_eq_true, decide_eq_true_eq] at ho
  have h7 : f.toWord.extractLsb' 0 7 = f.op := by rw [Fields.toWord_low f 7 (by omega)]; simp
  rw [decode, if_neg (by rw [Fields.toWord_low f 2 (by omega)]; exact fun c => c ho.1.1),
    if_neg (by rw [Fields.toWord_low f 5 (by omega), h7]; exact fun c => c.elim ho.1.2 ho.2), Fields.ofWord_toWord, hm]
  simp [h]

theorem get_guard1 {w : Nat} (x : BitVec w) (p : Prop) [Decidable p] (i j : Nat) (hp : p) (h : j = i) :
    (decide p && x.getLsbD j) = x.getLsbD i := by subst h; simp [hp]

theorem get_guard2 {w : Nat} (x : BitVec w) (p q : Prop) [Decidable p] [Decidable q] (i j : Nat) (hp : p) (hq : q)
    (h : j = i) : (decide p && (decide q && x.getLsbD j)) = x.getLsbD i := by subst h; simp [hp, hq]

theorem Fields.immI_i (op : BitVec 7) (rd : BitVec 5) (f3 : BitVec 3) (rs1 : BitVec 5) (imm : BitVec 12) : (Fields.i op rd f3 rs1 imm).immI = imm := by
  apply BitVec.eq_of_getLsbD_eq
  intro i hi
  simp only [Fields.i, Fields.immI, Fields.f7, BitVec.getLsbD_append, BitVec.getLsbD_extractLsb']
  repeat' split
  all_goals first
    | exact get_guard1 _ _ _ _ (by omega) (by omega)
    | exact get_guard2 _ _ _ _ _ (by omega) (by omega) (by omega)
    | omega

theorem Fields.immS_s (op : BitVec 7) (f3 : BitVec 3) (rs1 rs2 : BitVec 5) (imm : BitVec 12) : (Fields.s op f3 rs1 rs2 imm).immS = imm := by
  apply BitVec.eq_of_getLsbD_eq
  intro i hi
  simp only [Fields.s, Fields.immS, Fields.f7, BitVec.getLsbD_append, BitVec.getLsbD_extractLsb']
  repeat' split
  all_goals first
    | exact get_guard1 _ _ _ _ (by omega) (by omega)
    | exact get_guard2 _ _ _ _ _ (by omega) (by omega) (by omega)
    | omega

theorem Fields.immB_b (op : BitVec 7) (f3 : BitVec 3) (rs1 rs2 : BitVec 5) (imm : BitVec 12) : (Fields.b op f3 rs1 rs2 imm).immB = imm := by
  apply BitVec.eq_of_getLsbD_eq
  intro i hi
  simp only [Fields.b, Fields.immB, Fields.f7, BitVec.getLsbD_append, BitVec.getLsbD_extractLsb']
  repeat' split
  all_goals first
    | exact get_guard1 _ _ _ _ (by omega) (by omega)
    | exact get_guard2 _ _ _ _ _ (by omega) (by omega) (by omega)
    | omega

theorem Fields.immU_u (op : BitVec 7) (rd : BitVec 5) (imm : BitVec 20) : (Fields.u op rd imm).immU = imm := by
  apply BitVec.eq_of_getLsbD_eq
  intro i hi
  simp only [Fields.u, Fields.immU, Fields.f7, BitVec.getLsbD_append, BitVec.getLsbD_extractLsb']
  repeat' split
  all_goals first
    | exact get_guard1 _ _ _ _ (by omega) (by omega)
    | exact get_guard2 _ _ _ _ _ (by omega) (by omega) (by omega)
    | omega

theorem Fields.immJ_j (op : BitVec 7) (rd : BitVec 5) (imm : BitVec 20) : (Fields.j op rd imm).immJ = imm := by
  apply BitVec.eq_of_getLsbD_eq
  intro i hi
  simp only [Fields.j, Fields.immJ, Fields.f7, BitVec.getLsbD_append, BitVec.getLsbD_extractLsb']
  repeat' split
  all_goals first
    | exact get_guard1 _ _ _ _ (by omega) (by omega)
    | exact get_guard2 _ _ _ _ _ (by omega) (by omega) (by omega)
    | omega

theorem split_sh (x : BitVec 6) : x.extractLsb' 5 1 ++ x.extractLsb' 0 5 = x := by
  apply BitVec.eq_of_getLsbD_eq
  intro i hi
  simp only [BitVec.getLsbD_append, BitVec.getLsbD_extractLsb']
  repeat' split
  all_goals first
    | exact get_guard1 _ _ _ _ (by omega) (by omega)
    | exact get_guard2 _ _ _ _ _ (by omega) (by omega) (by omega)
    | omega


theorem split_lo (x : BitVec 6) : x.extractLsb' 2 4 ++ x.extractLsb' 1 1 ++ x.extractLsb' 0 1 = x := by revert x; decide

theorem cat2_lo (g : BitVec 1) : (0#2 ++ g).extractLsb' 0 1 = g := by revert g; decide

theorem cat2_hi (g : BitVec 1) : (0#2 ++ g).extractLsb' 1 2 = 0#2 := by revert g; decide

theorem cat1_lo (n : BitVec 4) : (0#1 ++ n).extractLsb' 0 4 = n := by revert n; decide

theorem cat1_hi (n : BitVec 4) : (0#1 ++ n).extractLsb' 4 1 = 0#1 := by revert n; decide

theorem cat22_lo (v : BitVec 2) : (v ++ 0#3).extractLsb' 0 3 = 0#3 := by revert v; decide

theorem cat22_hi (v : BitVec 2) : (v ++ 0#3).extractLsb' 3 2 = v := by revert v; decide

theorem cat13_lo (g : BitVec 2) : (0#1 ++ g).extractLsb' 0 2 = g := by revert g; decide

theorem cat13_hi (g : BitVec 2) : (0#1 ++ g).extractLsb' 2 1 = 0#1 := by revert g; decide

theorem cat32_lo (k : BitVec 2) : (0#3 ++ k).extractLsb' 0 2 = k := by revert k; decide

theorem cat32_hi (k : BitVec 2) : (0#3 ++ k).extractLsb' 2 3 = 0#3 := by revert k; decide

theorem cat1q_lo (g : BitVec 1) : (1#2 ++ g).extractLsb' 0 1 = g := by revert g; decide

theorem cat1q_hi (g : BitVec 1) : (1#2 ++ g).extractLsb' 1 2 = 1#2 := by revert g; decide

theorem split_z (z : BitVec 7) : z.extractLsb' 6 1 ++ z.extractLsb' 5 1 ++ z.extractLsb' 4 1 ++
    (z.extractLsb' 3 1 ++ 0#1 ++ z.extractLsb' 0 3).extractLsb' 4 1 ++
    (z.extractLsb' 3 1 ++ 0#1 ++ z.extractLsb' 0 3).extractLsb' 0 3 = z := by revert z; decide +kernel
theorem split_zero (z : BitVec 7) : (z.extractLsb' 3 1 ++ 0#1 ++ z.extractLsb' 0 3).extractLsb' 3 1 = 0#1 := by
  revert z; decide +kernel
theorem split_pred (p q : BitVec 4) : p.extractLsb' 3 1 ++ p.extractLsb' 2 1 ++ p.extractLsb' 1 1 ++
    (p.extractLsb' 0 1 ++ q).extractLsb' 4 1 = p := by revert p q; decide +kernel
theorem split_succ (p q : BitVec 4) : (p.extractLsb' 0 1 ++ q).extractLsb' 0 4 = q := by revert p q; decide +kernel
theorem split_pause (p q : BitVec 4) (h : !(p = 1 && q = 0)) : ¬(p.extractLsb' 3 1 = 0 ∧ p.extractLsb' 2 1 = 0 ∧ p.extractLsb' 1 1 = 0 ∧ p.extractLsb' 0 1 ++ q = 16) := by revert p q; decide +kernel
theorem split_w (w : BitVec 2) (f : BitVec 3) : (w ++ f).extractLsb' 3 2 = w := by revert w f; decide
theorem split_f (w : BitVec 2) (f : BitVec 3) : (w ++ f).extractLsb' 0 3 = f := by revert w f; decide
theorem decodeMajor_fence (pred succ : BitVec 4) (h : (Instr.fence pred succ).wf = true) : decodeMajor false
      { op := 15, rd := 0, f3 := 0, rs1 := 0, rs2 := BitVec.extractLsb' 0 1 pred ++ succ,
        vm := BitVec.extractLsb' 1 1 pred, c1 := BitVec.extractLsb' 2 1 pred, c2 := BitVec.extractLsb' 3 1 pred,
        f4 := 0 } =
    some (Instr.fence pred succ) := by
  have := split_pause pred succ h
  have e : decodeMajor false ⟨15, 0, 0, 0, pred.extractLsb' 0 1 ++ succ, pred.extractLsb' 1 1, pred.extractLsb' 2 1,
      pred.extractLsb' 3 1, 0⟩ = if (0#4 = 0 ∧ pred.extractLsb' 3 1 = 0 ∧ pred.extractLsb' 2 1 = 0 ∧
        pred.extractLsb' 1 1 = 0 ∧ pred.extractLsb' 0 1 ++ succ = 16 ∧ (0#5) = 0 ∧ (0#5) = 0) then some .pause
      else some (.fence (pred.extractLsb' 3 1 ++ pred.extractLsb' 2 1 ++ pred.extractLsb' 1 1 ++
        (pred.extractLsb' 0 1 ++ succ).extractLsb' 4 1) ((pred.extractLsb' 0 1 ++ succ).extractLsb' 0 4)) := rfl
  rw [e, if_neg (fun c => this ⟨c.2.1, c.2.2.1, c.2.2.2.1, c.2.2.2.2.1⟩), split_pred, split_succ]
theorem decodeMajor_vset (rd rs1 : BitVec 5) (z : BitVec 7) : decodeMajor false 
      { op := 87, rd := rd, f3 := 7, rs1 := rs1, rs2 := BitVec.extractLsb' 3 1 z ++ 0#1 ++ BitVec.extractLsb' 0 3 z,
        vm := BitVec.extractLsb' 4 1 z, c1 := BitVec.extractLsb' 5 1 z, c2 := BitVec.extractLsb' 6 1 z, f4 := 0 } =
    some (Instr.vset rd rs1 z) := by
  simp [decodeMajor, decodeOpV, only, split_z, split_zero]
theorem decodeMajor_vcvt (vd vs2 : BitVec 5) (w : BitVec 2) (f : BitVec 3) (c2 vm : BitVec 1) : decodeMajor false { op := 91, rd := vd, f3 := 6, rs1 := w ++ f, rs2 := vs2, vm := vm, c1 := 0, c2 := c2, f4 := 0 } =
    some (Instr.vcvt vd vs2 w f c2 vm) := by
  simp [decodeMajor, decodeCustom2, only, split_w, split_f]

namespace Laws.RoundTrip

/-- The decoder reads the word of the instruction as that instruction; an event has no word. -/
def Statement (i : Instr) : Prop := i.wf = true → ∀ f, encodeFields i = some f → decode i.isFw f.toWord = .ok i

theorem lui (rd : BitVec 5) (imm : BitVec 20) : Statement (.lui rd imm) := by
  intro h _ e; cases e
  exact decode_toWord _ _ _ (show opOk 0x37 = true by decide) (congrArg (fun m => some (Instr.lui rd m)) (Fields.immU_u 0x37 rd imm)) h

theorem auipc (rd : BitVec 5) (imm : BitVec 20) : Statement (.auipc rd imm) := by
  intro h _ e; cases e
  exact decode_toWord _ _ _ (show opOk 0x17 = true by decide) (congrArg (fun m => some (Instr.auipc rd m)) (Fields.immU_u 0x17 rd imm)) h

theorem addi (rd : BitVec 5) (rs1 : BitVec 5) (imm : BitVec 12) : Statement (.addi rd rs1 imm) := by
  intro h _ e; cases e
  exact decode_toWord _ _ _ (show opOk 0x13 = true by decide) (congrArg (fun m => some (Instr.addi rd rs1 m)) (Fields.immI_i 0x13 rd 0 rs1 imm)) h

theorem slti (rd : BitVec 5) (rs1 : BitVec 5) (imm : BitVec 12) : Statement (.slti rd rs1 imm) := by
  intro h _ e; cases e
  exact decode_toWord _ _ _ (show opOk 0x13 = true by decide) (congrArg (fun m => some (Instr.slti rd rs1 m)) (Fields.immI_i 0x13 rd 2 rs1 imm)) h

theorem sltiu (rd : BitVec 5) (rs1 : BitVec 5) (imm : BitVec 12) : Statement (.sltiu rd rs1 imm) := by
  intro h _ e; cases e
  exact decode_toWord _ _ _ (show opOk 0x13 = true by decide) (congrArg (fun m => some (Instr.sltiu rd rs1 m)) (Fields.immI_i 0x13 rd 3 rs1 imm)) h

theorem xori (rd : BitVec 5) (rs1 : BitVec 5) (imm : BitVec 12) : Statement (.xori rd rs1 imm) := by
  intro h _ e; cases e
  exact decode_toWord _ _ _ (show opOk 0x13 = true by decide) (congrArg (fun m => some (Instr.xori rd rs1 m)) (Fields.immI_i 0x13 rd 4 rs1 imm)) h

theorem ori (rd : BitVec 5) (rs1 : BitVec 5) (imm : BitVec 12) : Statement (.ori rd rs1 imm) := by
  intro h _ e; cases e
  exact decode_toWord _ _ _ (show opOk 0x13 = true by decide) (congrArg (fun m => some (Instr.ori rd rs1 m)) (Fields.immI_i 0x13 rd 6 rs1 imm)) h

theorem andi (rd : BitVec 5) (rs1 : BitVec 5) (imm : BitVec 12) : Statement (.andi rd rs1 imm) := by
  intro h _ e; cases e
  exact decode_toWord _ _ _ (show opOk 0x13 = true by decide) (congrArg (fun m => some (Instr.andi rd rs1 m)) (Fields.immI_i 0x13 rd 7 rs1 imm)) h

theorem slli (rd : BitVec 5) (rs1 : BitVec 5) (sh : BitVec 6) : Statement (.slli rd rs1 sh) := by
  intro h _ e; cases e
  exact decode_toWord _ _ _ (show opOk 0x13 = true by decide) (congrArg (fun m => some (Instr.slli rd rs1 m)) (split_sh sh)) h

theorem srli (rd : BitVec 5) (rs1 : BitVec 5) (sh : BitVec 6) : Statement (.srli rd rs1 sh) := by
  intro h _ e; cases e
  exact decode_toWord _ _ _ (show opOk 0x13 = true by decide) (congrArg (fun m => some (Instr.srli rd rs1 m)) (split_sh sh)) h

theorem srai (rd : BitVec 5) (rs1 : BitVec 5) (sh : BitVec 6) : Statement (.srai rd rs1 sh) := by
  intro h _ e; cases e
  exact decode_toWord _ _ _ (show opOk 0x13 = true by decide) (congrArg (fun m => some (Instr.srai rd rs1 m)) (split_sh sh)) h

theorem addiw (rd : BitVec 5) (rs1 : BitVec 5) (imm : BitVec 12) : Statement (.addiw rd rs1 imm) := by
  intro h _ e; cases e
  exact decode_toWord _ _ _ (show opOk 0x1B = true by decide) (congrArg (fun m => some (Instr.addiw rd rs1 m)) (Fields.immI_i 0x1B rd 0 rs1 imm)) h

theorem slliw (rd : BitVec 5) (rs1 : BitVec 5) (sh : BitVec 5) : Statement (.slliw rd rs1 sh) := by
  intro h _ e; cases e
  exact decode_toWord _ _ _ (show opOk 0x1B = true by decide) (show decodeMajor false _ = some _ from rfl) h

theorem srliw (rd : BitVec 5) (rs1 : BitVec 5) (sh : BitVec 5) : Statement (.srliw rd rs1 sh) := by
  intro h _ e; cases e
  exact decode_toWord _ _ _ (show opOk 0x1B = true by decide) (show decodeMajor false _ = some _ from rfl) h

theorem sraiw (rd : BitVec 5) (rs1 : BitVec 5) (sh : BitVec 5) : Statement (.sraiw rd rs1 sh) := by
  intro h _ e; cases e
  exact decode_toWord _ _ _ (show opOk 0x1B = true by decide) (show decodeMajor false _ = some _ from rfl) h

theorem add (rd : BitVec 5) (rs1 : BitVec 5) (rs2 : BitVec 5) : Statement (.add rd rs1 rs2) := by
  intro h _ e; cases e
  exact decode_toWord _ _ _ (show opOk 0x33 = true by decide) (show decodeMajor false _ = some _ from rfl) h

theorem sub (rd : BitVec 5) (rs1 : BitVec 5) (rs2 : BitVec 5) : Statement (.sub rd rs1 rs2) := by
  intro h _ e; cases e
  exact decode_toWord _ _ _ (show opOk 0x33 = true by decide) (show decodeMajor false _ = some _ from rfl) h

theorem sll (rd : BitVec 5) (rs1 : BitVec 5) (rs2 : BitVec 5) : Statement (.sll rd rs1 rs2) := by
  intro h _ e; cases e
  exact decode_toWord _ _ _ (show opOk 0x33 = true by decide) (show decodeMajor false _ = some _ from rfl) h

theorem slt (rd : BitVec 5) (rs1 : BitVec 5) (rs2 : BitVec 5) : Statement (.slt rd rs1 rs2) := by
  intro h _ e; cases e
  exact decode_toWord _ _ _ (show opOk 0x33 = true by decide) (show decodeMajor false _ = some _ from rfl) h

theorem sltu (rd : BitVec 5) (rs1 : BitVec 5) (rs2 : BitVec 5) : Statement (.sltu rd rs1 rs2) := by
  intro h _ e; cases e
  exact decode_toWord _ _ _ (show opOk 0x33 = true by decide) (show decodeMajor false _ = some _ from rfl) h

theorem xor (rd : BitVec 5) (rs1 : BitVec 5) (rs2 : BitVec 5) : Statement (.xor rd rs1 rs2) := by
  intro h _ e; cases e
  exact decode_toWord _ _ _ (show opOk 0x33 = true by decide) (show decodeMajor false _ = some _ from rfl) h

theorem srl (rd : BitVec 5) (rs1 : BitVec 5) (rs2 : BitVec 5) : Statement (.srl rd rs1 rs2) := by
  intro h _ e; cases e
  exact decode_toWord _ _ _ (show opOk 0x33 = true by decide) (show decodeMajor false _ = some _ from rfl) h

theorem sra (rd : BitVec 5) (rs1 : BitVec 5) (rs2 : BitVec 5) : Statement (.sra rd rs1 rs2) := by
  intro h _ e; cases e
  exact decode_toWord _ _ _ (show opOk 0x33 = true by decide) (show decodeMajor false _ = some _ from rfl) h

theorem or (rd : BitVec 5) (rs1 : BitVec 5) (rs2 : BitVec 5) : Statement (.or rd rs1 rs2) := by
  intro h _ e; cases e
  exact decode_toWord _ _ _ (show opOk 0x33 = true by decide) (show decodeMajor false _ = some _ from rfl) h

theorem and (rd : BitVec 5) (rs1 : BitVec 5) (rs2 : BitVec 5) : Statement (.and rd rs1 rs2) := by
  intro h _ e; cases e
  exact decode_toWord _ _ _ (show opOk 0x33 = true by decide) (show decodeMajor false _ = some _ from rfl) h

theorem mul (rd : BitVec 5) (rs1 : BitVec 5) (rs2 : BitVec 5) : Statement (.mul rd rs1 rs2) := by
  intro h _ e; cases e
  exact decode_toWord _ _ _ (show opOk 0x33 = true by decide) (show decodeMajor false _ = some _ from rfl) h

theorem mulh (rd : BitVec 5) (rs1 : BitVec 5) (rs2 : BitVec 5) : Statement (.mulh rd rs1 rs2) := by
  intro h _ e; cases e
  exact decode_toWord _ _ _ (show opOk 0x33 = true by decide) (show decodeMajor false _ = some _ from rfl) h

theorem mulhsu (rd : BitVec 5) (rs1 : BitVec 5) (rs2 : BitVec 5) : Statement (.mulhsu rd rs1 rs2) := by
  intro h _ e; cases e
  exact decode_toWord _ _ _ (show opOk 0x33 = true by decide) (show decodeMajor false _ = some _ from rfl) h

theorem mulhu (rd : BitVec 5) (rs1 : BitVec 5) (rs2 : BitVec 5) : Statement (.mulhu rd rs1 rs2) := by
  intro h _ e; cases e
  exact decode_toWord _ _ _ (show opOk 0x33 = true by decide) (show decodeMajor false _ = some _ from rfl) h

theorem div (rd : BitVec 5) (rs1 : BitVec 5) (rs2 : BitVec 5) : Statement (.div rd rs1 rs2) := by
  intro h _ e; cases e
  exact decode_toWord _ _ _ (show opOk 0x33 = true by decide) (show decodeMajor false _ = some _ from rfl) h

theorem divu (rd : BitVec 5) (rs1 : BitVec 5) (rs2 : BitVec 5) : Statement (.divu rd rs1 rs2) := by
  intro h _ e; cases e
  exact decode_toWord _ _ _ (show opOk 0x33 = true by decide) (show decodeMajor false _ = some _ from rfl) h

theorem rem (rd : BitVec 5) (rs1 : BitVec 5) (rs2 : BitVec 5) : Statement (.rem rd rs1 rs2) := by
  intro h _ e; cases e
  exact decode_toWord _ _ _ (show opOk 0x33 = true by decide) (show decodeMajor false _ = some _ from rfl) h

theorem remu (rd : BitVec 5) (rs1 : BitVec 5) (rs2 : BitVec 5) : Statement (.remu rd rs1 rs2) := by
  intro h _ e; cases e
  exact decode_toWord _ _ _ (show opOk 0x33 = true by decide) (show decodeMajor false _ = some _ from rfl) h

theorem addw (rd : BitVec 5) (rs1 : BitVec 5) (rs2 : BitVec 5) : Statement (.addw rd rs1 rs2) := by
  intro h _ e; cases e
  exact decode_toWord _ _ _ (show opOk 0x3B = true by decide) (show decodeMajor false _ = some _ from rfl) h

theorem subw (rd : BitVec 5) (rs1 : BitVec 5) (rs2 : BitVec 5) : Statement (.subw rd rs1 rs2) := by
  intro h _ e; cases e
  exact decode_toWord _ _ _ (show opOk 0x3B = true by decide) (show decodeMajor false _ = some _ from rfl) h

theorem sllw (rd : BitVec 5) (rs1 : BitVec 5) (rs2 : BitVec 5) : Statement (.sllw rd rs1 rs2) := by
  intro h _ e; cases e
  exact decode_toWord _ _ _ (show opOk 0x3B = true by decide) (show decodeMajor false _ = some _ from rfl) h

theorem srlw (rd : BitVec 5) (rs1 : BitVec 5) (rs2 : BitVec 5) : Statement (.srlw rd rs1 rs2) := by
  intro h _ e; cases e
  exact decode_toWord _ _ _ (show opOk 0x3B = true by decide) (show decodeMajor false _ = some _ from rfl) h

theorem sraw (rd : BitVec 5) (rs1 : BitVec 5) (rs2 : BitVec 5) : Statement (.sraw rd rs1 rs2) := by
  intro h _ e; cases e
  exact decode_toWord _ _ _ (show opOk 0x3B = true by decide) (show decodeMajor false _ = some _ from rfl) h

theorem mulw (rd : BitVec 5) (rs1 : BitVec 5) (rs2 : BitVec 5) : Statement (.mulw rd rs1 rs2) := by
  intro h _ e; cases e
  exact decode_toWord _ _ _ (show opOk 0x3B = true by decide) (show decodeMajor false _ = some _ from rfl) h

theorem divw (rd : BitVec 5) (rs1 : BitVec 5) (rs2 : BitVec 5) : Statement (.divw rd rs1 rs2) := by
  intro h _ e; cases e
  exact decode_toWord _ _ _ (show opOk 0x3B = true by decide) (show decodeMajor false _ = some _ from rfl) h

theorem divuw (rd : BitVec 5) (rs1 : BitVec 5) (rs2 : BitVec 5) : Statement (.divuw rd rs1 rs2) := by
  intro h _ e; cases e
  exact decode_toWord _ _ _ (show opOk 0x3B = true by decide) (show decodeMajor false _ = some _ from rfl) h

theorem remw (rd : BitVec 5) (rs1 : BitVec 5) (rs2 : BitVec 5) : Statement (.remw rd rs1 rs2) := by
  intro h _ e; cases e
  exact decode_toWord _ _ _ (show opOk 0x3B = true by decide) (show decodeMajor false _ = some _ from rfl) h

theorem remuw (rd : BitVec 5) (rs1 : BitVec 5) (rs2 : BitVec 5) : Statement (.remuw rd rs1 rs2) := by
  intro h _ e; cases e
  exact decode_toWord _ _ _ (show opOk 0x3B = true by decide) (show decodeMajor false _ = some _ from rfl) h

theorem beq (rs1 : BitVec 5) (rs2 : BitVec 5) (imm : BitVec 12) : Statement (.beq rs1 rs2 imm) := by
  intro h _ e; cases e
  exact decode_toWord _ _ _ (show opOk 0x63 = true by decide) (congrArg (fun m => some (Instr.beq rs1 rs2 m)) (Fields.immB_b 0x63 0 rs1 rs2 imm)) h

theorem bne (rs1 : BitVec 5) (rs2 : BitVec 5) (imm : BitVec 12) : Statement (.bne rs1 rs2 imm) := by
  intro h _ e; cases e
  exact decode_toWord _ _ _ (show opOk 0x63 = true by decide) (congrArg (fun m => some (Instr.bne rs1 rs2 m)) (Fields.immB_b 0x63 1 rs1 rs2 imm)) h

theorem blt (rs1 : BitVec 5) (rs2 : BitVec 5) (imm : BitVec 12) : Statement (.blt rs1 rs2 imm) := by
  intro h _ e; cases e
  exact decode_toWord _ _ _ (show opOk 0x63 = true by decide) (congrArg (fun m => some (Instr.blt rs1 rs2 m)) (Fields.immB_b 0x63 4 rs1 rs2 imm)) h

theorem bge (rs1 : BitVec 5) (rs2 : BitVec 5) (imm : BitVec 12) : Statement (.bge rs1 rs2 imm) := by
  intro h _ e; cases e
  exact decode_toWord _ _ _ (show opOk 0x63 = true by decide) (congrArg (fun m => some (Instr.bge rs1 rs2 m)) (Fields.immB_b 0x63 5 rs1 rs2 imm)) h

theorem bltu (rs1 : BitVec 5) (rs2 : BitVec 5) (imm : BitVec 12) : Statement (.bltu rs1 rs2 imm) := by
  intro h _ e; cases e
  exact decode_toWord _ _ _ (show opOk 0x63 = true by decide) (congrArg (fun m => some (Instr.bltu rs1 rs2 m)) (Fields.immB_b 0x63 6 rs1 rs2 imm)) h

theorem bgeu (rs1 : BitVec 5) (rs2 : BitVec 5) (imm : BitVec 12) : Statement (.bgeu rs1 rs2 imm) := by
  intro h _ e; cases e
  exact decode_toWord _ _ _ (show opOk 0x63 = true by decide) (congrArg (fun m => some (Instr.bgeu rs1 rs2 m)) (Fields.immB_b 0x63 7 rs1 rs2 imm)) h

theorem jal (rd : BitVec 5) (imm : BitVec 20) : Statement (.jal rd imm) := by
  intro h _ e; cases e
  exact decode_toWord _ _ _ (show opOk 0x6F = true by decide) (congrArg (fun m => some (Instr.jal rd m)) (Fields.immJ_j 0x6F rd imm)) h

theorem jalr (rd : BitVec 5) (rs1 : BitVec 5) (imm : BitVec 12) : Statement (.jalr rd rs1 imm) := by
  intro h _ e; cases e
  exact decode_toWord _ _ _ (show opOk 0x67 = true by decide) (congrArg (fun m => some (Instr.jalr rd rs1 m)) (Fields.immI_i 0x67 rd 0 rs1 imm)) h

theorem lb (rd : BitVec 5) (rs1 : BitVec 5) (imm : BitVec 12) : Statement (.lb rd rs1 imm) := by
  intro h _ e; cases e
  exact decode_toWord _ _ _ (show opOk 0x03 = true by decide) (congrArg (fun m => some (Instr.lb rd rs1 m)) (Fields.immI_i 0x03 rd 0 rs1 imm)) h

theorem lh (rd : BitVec 5) (rs1 : BitVec 5) (imm : BitVec 12) : Statement (.lh rd rs1 imm) := by
  intro h _ e; cases e
  exact decode_toWord _ _ _ (show opOk 0x03 = true by decide) (congrArg (fun m => some (Instr.lh rd rs1 m)) (Fields.immI_i 0x03 rd 1 rs1 imm)) h

theorem lw (rd : BitVec 5) (rs1 : BitVec 5) (imm : BitVec 12) : Statement (.lw rd rs1 imm) := by
  intro h _ e; cases e
  exact decode_toWord _ _ _ (show opOk 0x03 = true by decide) (congrArg (fun m => some (Instr.lw rd rs1 m)) (Fields.immI_i 0x03 rd 2 rs1 imm)) h

theorem ld (rd : BitVec 5) (rs1 : BitVec 5) (imm : BitVec 12) : Statement (.ld rd rs1 imm) := by
  intro h _ e; cases e
  exact decode_toWord _ _ _ (show opOk 0x03 = true by decide) (congrArg (fun m => some (Instr.ld rd rs1 m)) (Fields.immI_i 0x03 rd 3 rs1 imm)) h

theorem lbu (rd : BitVec 5) (rs1 : BitVec 5) (imm : BitVec 12) : Statement (.lbu rd rs1 imm) := by
  intro h _ e; cases e
  exact decode_toWord _ _ _ (show opOk 0x03 = true by decide) (congrArg (fun m => some (Instr.lbu rd rs1 m)) (Fields.immI_i 0x03 rd 4 rs1 imm)) h

theorem lhu (rd : BitVec 5) (rs1 : BitVec 5) (imm : BitVec 12) : Statement (.lhu rd rs1 imm) := by
  intro h _ e; cases e
  exact decode_toWord _ _ _ (show opOk 0x03 = true by decide) (congrArg (fun m => some (Instr.lhu rd rs1 m)) (Fields.immI_i 0x03 rd 5 rs1 imm)) h

theorem lwu (rd : BitVec 5) (rs1 : BitVec 5) (imm : BitVec 12) : Statement (.lwu rd rs1 imm) := by
  intro h _ e; cases e
  exact decode_toWord _ _ _ (show opOk 0x03 = true by decide) (congrArg (fun m => some (Instr.lwu rd rs1 m)) (Fields.immI_i 0x03 rd 6 rs1 imm)) h

theorem sb (rs1 : BitVec 5) (rs2 : BitVec 5) (imm : BitVec 12) : Statement (.sb rs1 rs2 imm) := by
  intro h _ e; cases e
  exact decode_toWord _ _ _ (show opOk 0x23 = true by decide) (congrArg (fun m => some (Instr.sb rs1 rs2 m)) (Fields.immS_s 0x23 0 rs1 rs2 imm)) h

theorem sh (rs1 : BitVec 5) (rs2 : BitVec 5) (imm : BitVec 12) : Statement (.sh rs1 rs2 imm) := by
  intro h _ e; cases e
  exact decode_toWord _ _ _ (show opOk 0x23 = true by decide) (congrArg (fun m => some (Instr.sh rs1 rs2 m)) (Fields.immS_s 0x23 1 rs1 rs2 imm)) h

theorem sw (rs1 : BitVec 5) (rs2 : BitVec 5) (imm : BitVec 12) : Statement (.sw rs1 rs2 imm) := by
  intro h _ e; cases e
  exact decode_toWord _ _ _ (show opOk 0x23 = true by decide) (congrArg (fun m => some (Instr.sw rs1 rs2 m)) (Fields.immS_s 0x23 2 rs1 rs2 imm)) h

theorem sd (rs1 : BitVec 5) (rs2 : BitVec 5) (imm : BitVec 12) : Statement (.sd rs1 rs2 imm) := by
  intro h _ e; cases e
  exact decode_toWord _ _ _ (show opOk 0x23 = true by decide) (congrArg (fun m => some (Instr.sd rs1 rs2 m)) (Fields.immS_s 0x23 3 rs1 rs2 imm)) h

theorem fence (pred : BitVec 4) (succ : BitVec 4) : Statement (.fence pred succ) := by
  intro h _ e; cases e
  exact decode_toWord _ _ _ (show opOk 0x0F = true by decide) (decodeMajor_fence pred succ h) h

theorem pause : Statement .pause := by
  intro h _ e; cases e
  exact decode_toWord _ _ _ (show opOk 0x0F = true by decide) (show decodeMajor false _ = some _ from rfl) h

theorem fenceI : Statement .fenceI := by
  intro h _ e; cases e
  exact decode_toWord _ _ _ (show opOk 0x0F = true by decide) (show decodeMajor false _ = some _ from rfl) h

theorem csrrw (rd : BitVec 5) (rs1 : BitVec 5) (csr : BitVec 12) : Statement (.csrrw rd rs1 csr) := by
  intro h _ e; cases e
  exact decode_toWord _ _ _ (show opOk 0x73 = true by decide) (congrArg (fun m => some (Instr.csrrw rd rs1 m)) (Fields.immI_i 0x73 rd 1 rs1 csr)) h

theorem csrrs (rd : BitVec 5) (rs1 : BitVec 5) (csr : BitVec 12) : Statement (.csrrs rd rs1 csr) := by
  intro h _ e; cases e
  exact decode_toWord _ _ _ (show opOk 0x73 = true by decide) (congrArg (fun m => some (Instr.csrrs rd rs1 m)) (Fields.immI_i 0x73 rd 2 rs1 csr)) h

theorem csrrc (rd : BitVec 5) (rs1 : BitVec 5) (csr : BitVec 12) : Statement (.csrrc rd rs1 csr) := by
  intro h _ e; cases e
  exact decode_toWord _ _ _ (show opOk 0x73 = true by decide) (congrArg (fun m => some (Instr.csrrc rd rs1 m)) (Fields.immI_i 0x73 rd 3 rs1 csr)) h

theorem csrrwi (rd : BitVec 5) (imm : BitVec 5) (csr : BitVec 12) : Statement (.csrrwi rd imm csr) := by
  intro h _ e; cases e
  exact decode_toWord _ _ _ (show opOk 0x73 = true by decide) (congrArg (fun m => some (Instr.csrrwi rd imm m)) (Fields.immI_i 0x73 rd 5 imm csr)) h

theorem csrrsi (rd : BitVec 5) (imm : BitVec 5) (csr : BitVec 12) : Statement (.csrrsi rd imm csr) := by
  intro h _ e; cases e
  exact decode_toWord _ _ _ (show opOk 0x73 = true by decide) (congrArg (fun m => some (Instr.csrrsi rd imm m)) (Fields.immI_i 0x73 rd 6 imm csr)) h

theorem csrrci (rd : BitVec 5) (imm : BitVec 5) (csr : BitVec 12) : Statement (.csrrci rd imm csr) := by
  intro h _ e; cases e
  exact decode_toWord _ _ _ (show opOk 0x73 = true by decide) (congrArg (fun m => some (Instr.csrrci rd imm m)) (Fields.immI_i 0x73 rd 7 imm csr)) h

theorem ecall : Statement .ecall := by
  intro h _ e; cases e
  exact decode_toWord _ _ _ (show opOk 0x73 = true by decide) (show decodeMajor false _ = some _ from rfl) h

theorem ebreak : Statement .ebreak := by
  intro h _ e; cases e
  exact decode_toWord _ _ _ (show opOk 0x73 = true by decide) (show decodeMajor false _ = some _ from rfl) h

theorem sret : Statement .sret := by
  intro h _ e; cases e
  exact decode_toWord _ _ _ (show opOk 0x73 = true by decide) (show decodeMajor false _ = some _ from rfl) h

theorem mret : Statement .mret := by
  intro h _ e; cases e
  exact decode_toWord _ _ _ (show opOk 0x73 = true by decide) (show decodeMajor false _ = some _ from rfl) h

theorem wfi : Statement .wfi := by
  intro h _ e; cases e
  exact decode_toWord _ _ _ (show opOk 0x73 = true by decide) (show decodeMajor false _ = some _ from rfl) h

theorem sfenceVma (rs1 : BitVec 5) (rs2 : BitVec 5) : Statement (.sfenceVma rs1 rs2) := by
  intro h _ e; cases e
  exact decode_toWord _ _ _ (show opOk 0x73 = true by decide) (show decodeMajor false _ = some _ from rfl) h

theorem lr (rd : BitVec 5) (rs1 : BitVec 5) (aq : BitVec 1) (rl : BitVec 1) (ws : BitVec 3) : Statement (.lr rd rs1 aq rl ws) := by
  intro h _ e; cases e
  exact decode_toWord _ _ _ (show opOk 0x2F = true by decide) (show decodeMajor false _ = some _ by
    simp [decodeMajor, decodeAmo, only, Fields.f5]) h

theorem sc (rd : BitVec 5) (rs1 : BitVec 5) (rs2 : BitVec 5) (aq : BitVec 1) (rl : BitVec 1) (ws : BitVec 3) : Statement (.sc rd rs1 rs2 aq rl ws) := by
  intro h _ e; cases e
  exact decode_toWord _ _ _ (show opOk 0x2F = true by decide) (show decodeMajor false _ = some _ by
    simp [decodeMajor, decodeAmo, only, Fields.f5]) h

theorem amoswap (rd : BitVec 5) (rs1 : BitVec 5) (rs2 : BitVec 5) (aq : BitVec 1) (rl : BitVec 1) (ws : BitVec 3) : Statement (.amoswap rd rs1 rs2 aq rl ws) := by
  intro h _ e; cases e
  exact decode_toWord _ _ _ (show opOk 0x2F = true by decide) (show decodeMajor false _ = some _ by
    simp [decodeMajor, decodeAmo, only, Fields.f5]) h

theorem amoadd (rd : BitVec 5) (rs1 : BitVec 5) (rs2 : BitVec 5) (aq : BitVec 1) (rl : BitVec 1) (ws : BitVec 3) : Statement (.amoadd rd rs1 rs2 aq rl ws) := by
  intro h _ e; cases e
  exact decode_toWord _ _ _ (show opOk 0x2F = true by decide) (show decodeMajor false _ = some _ by
    simp [decodeMajor, decodeAmo, only, Fields.f5]) h

theorem amoxor (rd : BitVec 5) (rs1 : BitVec 5) (rs2 : BitVec 5) (aq : BitVec 1) (rl : BitVec 1) (ws : BitVec 3) : Statement (.amoxor rd rs1 rs2 aq rl ws) := by
  intro h _ e; cases e
  exact decode_toWord _ _ _ (show opOk 0x2F = true by decide) (show decodeMajor false _ = some _ by
    simp [decodeMajor, decodeAmo, only, Fields.f5]) h

theorem amoand (rd : BitVec 5) (rs1 : BitVec 5) (rs2 : BitVec 5) (aq : BitVec 1) (rl : BitVec 1) (ws : BitVec 3) : Statement (.amoand rd rs1 rs2 aq rl ws) := by
  intro h _ e; cases e
  exact decode_toWord _ _ _ (show opOk 0x2F = true by decide) (show decodeMajor false _ = some _ by
    simp [decodeMajor, decodeAmo, only, Fields.f5]) h

theorem amoor (rd : BitVec 5) (rs1 : BitVec 5) (rs2 : BitVec 5) (aq : BitVec 1) (rl : BitVec 1) (ws : BitVec 3) : Statement (.amoor rd rs1 rs2 aq rl ws) := by
  intro h _ e; cases e
  exact decode_toWord _ _ _ (show opOk 0x2F = true by decide) (show decodeMajor false _ = some _ by
    simp [decodeMajor, decodeAmo, only, Fields.f5]) h

theorem amomin (rd : BitVec 5) (rs1 : BitVec 5) (rs2 : BitVec 5) (aq : BitVec 1) (rl : BitVec 1) (ws : BitVec 3) : Statement (.amomin rd rs1 rs2 aq rl ws) := by
  intro h _ e; cases e
  exact decode_toWord _ _ _ (show opOk 0x2F = true by decide) (show decodeMajor false _ = some _ by
    simp [decodeMajor, decodeAmo, only, Fields.f5]) h

theorem amomax (rd : BitVec 5) (rs1 : BitVec 5) (rs2 : BitVec 5) (aq : BitVec 1) (rl : BitVec 1) (ws : BitVec 3) : Statement (.amomax rd rs1 rs2 aq rl ws) := by
  intro h _ e; cases e
  exact decode_toWord _ _ _ (show opOk 0x2F = true by decide) (show decodeMajor false _ = some _ by
    simp [decodeMajor, decodeAmo, only, Fields.f5]) h

theorem amominu (rd : BitVec 5) (rs1 : BitVec 5) (rs2 : BitVec 5) (aq : BitVec 1) (rl : BitVec 1) (ws : BitVec 3) : Statement (.amominu rd rs1 rs2 aq rl ws) := by
  intro h _ e; cases e
  exact decode_toWord _ _ _ (show opOk 0x2F = true by decide) (show decodeMajor false _ = some _ by
    simp [decodeMajor, decodeAmo, only, Fields.f5]) h

theorem amomaxu (rd : BitVec 5) (rs1 : BitVec 5) (rs2 : BitVec 5) (aq : BitVec 1) (rl : BitVec 1) (ws : BitVec 3) : Statement (.amomaxu rd rs1 rs2 aq rl ws) := by
  intro h _ e; cases e
  exact decode_toWord _ _ _ (show opOk 0x2F = true by decide) (show decodeMajor false _ = some _ by
    simp [decodeMajor, decodeAmo, only, Fields.f5]) h

theorem vset (rd : BitVec 5) (rs1 : BitVec 5) (z : BitVec 7) : Statement (.vset rd rs1 z) := by
  intro h _ e; cases e
  exact decode_toWord _ _ _ (show opOk 0x57 = true by decide) (decodeMajor_vset rd rs1 z) h

theorem vsetv (rd : BitVec 5) (rs1 : BitVec 5) (rs2 : BitVec 5) : Statement (.vsetv rd rs1 rs2) := by
  intro h _ e; cases e
  exact decode_toWord _ _ _ (show opOk 0x57 = true by decide) (show decodeMajor false _ = some _ from rfl) h

theorem vaddVv (vd : BitVec 5) (vs2 : BitVec 5) (vs1 : BitVec 5) (c2 : BitVec 1) (c1 : BitVec 1) (vm : BitVec 1) : Statement (.vaddVv vd vs2 vs1 c2 c1 vm) := by
  intro h _ e; cases e
  exact decode_toWord _ _ _ (show opOk 0x57 = true by decide) (show decodeMajor false _ = some _ from rfl) h

theorem vaddVx (vd : BitVec 5) (vs2 : BitVec 5) (rs1 : BitVec 5) (c2 : BitVec 1) (vm : BitVec 1) : Statement (.vaddVx vd vs2 rs1 c2 vm) := by
  intro h _ e; cases e
  exact decode_toWord _ _ _ (show opOk 0x57 = true by decide) (show decodeMajor false _ = some _ from rfl) h

theorem vaddVi (vd : BitVec 5) (vs2 : BitVec 5) (imm : BitVec 5) (c2 : BitVec 1) (vm : BitVec 1) : Statement (.vaddVi vd vs2 imm c2 vm) := by
  intro h _ e; cases e
  exact decode_toWord _ _ _ (show opOk 0x57 = true by decide) (show decodeMajor false _ = some _ from rfl) h

theorem vsubVv (vd : BitVec 5) (vs2 : BitVec 5) (vs1 : BitVec 5) (c2 : BitVec 1) (c1 : BitVec 1) (vm : BitVec 1) : Statement (.vsubVv vd vs2 vs1 c2 c1 vm) := by
  intro h _ e; cases e
  exact decode_toWord _ _ _ (show opOk 0x57 = true by decide) (show decodeMajor false _ = some _ from rfl) h

theorem vsubVx (vd : BitVec 5) (vs2 : BitVec 5) (rs1 : BitVec 5) (c2 : BitVec 1) (vm : BitVec 1) : Statement (.vsubVx vd vs2 rs1 c2 vm) := by
  intro h _ e; cases e
  exact decode_toWord _ _ _ (show opOk 0x57 = true by decide) (show decodeMajor false _ = some _ from rfl) h

theorem vmulVv (vd : BitVec 5) (vs2 : BitVec 5) (vs1 : BitVec 5) (c2 : BitVec 1) (c1 : BitVec 1) (vm : BitVec 1) : Statement (.vmulVv vd vs2 vs1 c2 c1 vm) := by
  intro h _ e; cases e
  exact decode_toWord _ _ _ (show opOk 0x57 = true by decide) (show decodeMajor false _ = some _ from rfl) h

theorem vmulVx (vd : BitVec 5) (vs2 : BitVec 5) (rs1 : BitVec 5) (c2 : BitVec 1) (vm : BitVec 1) : Statement (.vmulVx vd vs2 rs1 c2 vm) := by
  intro h _ e; cases e
  exact decode_toWord _ _ _ (show opOk 0x57 = true by decide) (show decodeMajor false _ = some _ from rfl) h

theorem vmulhVv (vd : BitVec 5) (vs2 : BitVec 5) (vs1 : BitVec 5) (c2 : BitVec 1) (c1 : BitVec 1) (vm : BitVec 1) : Statement (.vmulhVv vd vs2 vs1 c2 c1 vm) := by
  intro h _ e; cases e
  exact decode_toWord _ _ _ (show opOk 0x57 = true by decide) (show decodeMajor false _ = some _ from rfl) h

theorem vmulhVx (vd : BitVec 5) (vs2 : BitVec 5) (rs1 : BitVec 5) (c2 : BitVec 1) (vm : BitVec 1) : Statement (.vmulhVx vd vs2 rs1 c2 vm) := by
  intro h _ e; cases e
  exact decode_toWord _ _ _ (show opOk 0x57 = true by decide) (show decodeMajor false _ = some _ from rfl) h

theorem vmulhuVv (vd : BitVec 5) (vs2 : BitVec 5) (vs1 : BitVec 5) (c2 : BitVec 1) (c1 : BitVec 1) (vm : BitVec 1) : Statement (.vmulhuVv vd vs2 vs1 c2 c1 vm) := by
  intro h _ e; cases e
  exact decode_toWord _ _ _ (show opOk 0x57 = true by decide) (show decodeMajor false _ = some _ from rfl) h

theorem vmulhuVx (vd : BitVec 5) (vs2 : BitVec 5) (rs1 : BitVec 5) (c2 : BitVec 1) (vm : BitVec 1) : Statement (.vmulhuVx vd vs2 rs1 c2 vm) := by
  intro h _ e; cases e
  exact decode_toWord _ _ _ (show opOk 0x57 = true by decide) (show decodeMajor false _ = some _ from rfl) h

theorem vmaccVv (vd : BitVec 5) (vs2 : BitVec 5) (vs1 : BitVec 5) (c2 : BitVec 1) (c1 : BitVec 1) (vm : BitVec 1) : Statement (.vmaccVv vd vs2 vs1 c2 c1 vm) := by
  intro h _ e; cases e
  exact decode_toWord _ _ _ (show opOk 0x57 = true by decide) (show decodeMajor false _ = some _ from rfl) h

theorem vmaccVx (vd : BitVec 5) (vs2 : BitVec 5) (rs1 : BitVec 5) (c2 : BitVec 1) (vm : BitVec 1) : Statement (.vmaccVx vd vs2 rs1 c2 vm) := by
  intro h _ e; cases e
  exact decode_toWord _ _ _ (show opOk 0x57 = true by decide) (show decodeMajor false _ = some _ from rfl) h

theorem vandVv (vd : BitVec 5) (vs2 : BitVec 5) (vs1 : BitVec 5) (c2 : BitVec 1) (c1 : BitVec 1) (vm : BitVec 1) : Statement (.vandVv vd vs2 vs1 c2 c1 vm) := by
  intro h _ e; cases e
  exact decode_toWord _ _ _ (show opOk 0x57 = true by decide) (show decodeMajor false _ = some _ from rfl) h

theorem vandVx (vd : BitVec 5) (vs2 : BitVec 5) (rs1 : BitVec 5) (c2 : BitVec 1) (vm : BitVec 1) : Statement (.vandVx vd vs2 rs1 c2 vm) := by
  intro h _ e; cases e
  exact decode_toWord _ _ _ (show opOk 0x57 = true by decide) (show decodeMajor false _ = some _ from rfl) h

theorem vandVi (vd : BitVec 5) (vs2 : BitVec 5) (imm : BitVec 5) (c2 : BitVec 1) (vm : BitVec 1) : Statement (.vandVi vd vs2 imm c2 vm) := by
  intro h _ e; cases e
  exact decode_toWord _ _ _ (show opOk 0x57 = true by decide) (show decodeMajor false _ = some _ from rfl) h

theorem vorVv (vd : BitVec 5) (vs2 : BitVec 5) (vs1 : BitVec 5) (c2 : BitVec 1) (c1 : BitVec 1) (vm : BitVec 1) : Statement (.vorVv vd vs2 vs1 c2 c1 vm) := by
  intro h _ e; cases e
  exact decode_toWord _ _ _ (show opOk 0x57 = true by decide) (show decodeMajor false _ = some _ from rfl) h

theorem vorVx (vd : BitVec 5) (vs2 : BitVec 5) (rs1 : BitVec 5) (c2 : BitVec 1) (vm : BitVec 1) : Statement (.vorVx vd vs2 rs1 c2 vm) := by
  intro h _ e; cases e
  exact decode_toWord _ _ _ (show opOk 0x57 = true by decide) (show decodeMajor false _ = some _ from rfl) h

theorem vorVi (vd : BitVec 5) (vs2 : BitVec 5) (imm : BitVec 5) (c2 : BitVec 1) (vm : BitVec 1) : Statement (.vorVi vd vs2 imm c2 vm) := by
  intro h _ e; cases e
  exact decode_toWord _ _ _ (show opOk 0x57 = true by decide) (show decodeMajor false _ = some _ from rfl) h

theorem vxorVv (vd : BitVec 5) (vs2 : BitVec 5) (vs1 : BitVec 5) (c2 : BitVec 1) (c1 : BitVec 1) (vm : BitVec 1) : Statement (.vxorVv vd vs2 vs1 c2 c1 vm) := by
  intro h _ e; cases e
  exact decode_toWord _ _ _ (show opOk 0x57 = true by decide) (show decodeMajor false _ = some _ from rfl) h

theorem vxorVx (vd : BitVec 5) (vs2 : BitVec 5) (rs1 : BitVec 5) (c2 : BitVec 1) (vm : BitVec 1) : Statement (.vxorVx vd vs2 rs1 c2 vm) := by
  intro h _ e; cases e
  exact decode_toWord _ _ _ (show opOk 0x57 = true by decide) (show decodeMajor false _ = some _ from rfl) h

theorem vxorVi (vd : BitVec 5) (vs2 : BitVec 5) (imm : BitVec 5) (c2 : BitVec 1) (vm : BitVec 1) : Statement (.vxorVi vd vs2 imm c2 vm) := by
  intro h _ e; cases e
  exact decode_toWord _ _ _ (show opOk 0x57 = true by decide) (show decodeMajor false _ = some _ from rfl) h

theorem vsllVv (vd : BitVec 5) (vs2 : BitVec 5) (vs1 : BitVec 5) (c2 : BitVec 1) (c1 : BitVec 1) (vm : BitVec 1) : Statement (.vsllVv vd vs2 vs1 c2 c1 vm) := by
  intro h _ e; cases e
  exact decode_toWord _ _ _ (show opOk 0x57 = true by decide) (show decodeMajor false _ = some _ from rfl) h

theorem vsllVx (vd : BitVec 5) (vs2 : BitVec 5) (rs1 : BitVec 5) (c2 : BitVec 1) (vm : BitVec 1) : Statement (.vsllVx vd vs2 rs1 c2 vm) := by
  intro h _ e; cases e
  exact decode_toWord _ _ _ (show opOk 0x57 = true by decide) (show decodeMajor false _ = some _ from rfl) h

theorem vsllVi (vd : BitVec 5) (vs2 : BitVec 5) (imm : BitVec 5) (c2 : BitVec 1) (vm : BitVec 1) : Statement (.vsllVi vd vs2 imm c2 vm) := by
  intro h _ e; cases e
  exact decode_toWord _ _ _ (show opOk 0x57 = true by decide) (show decodeMajor false _ = some _ from rfl) h

theorem vsrlVv (vd : BitVec 5) (vs2 : BitVec 5) (vs1 : BitVec 5) (c2 : BitVec 1) (c1 : BitVec 1) (vm : BitVec 1) : Statement (.vsrlVv vd vs2 vs1 c2 c1 vm) := by
  intro h _ e; cases e
  exact decode_toWord _ _ _ (show opOk 0x57 = true by decide) (show decodeMajor false _ = some _ from rfl) h

theorem vsrlVx (vd : BitVec 5) (vs2 : BitVec 5) (rs1 : BitVec 5) (c2 : BitVec 1) (vm : BitVec 1) : Statement (.vsrlVx vd vs2 rs1 c2 vm) := by
  intro h _ e; cases e
  exact decode_toWord _ _ _ (show opOk 0x57 = true by decide) (show decodeMajor false _ = some _ from rfl) h

theorem vsrlVi (vd : BitVec 5) (vs2 : BitVec 5) (imm : BitVec 5) (c2 : BitVec 1) (vm : BitVec 1) : Statement (.vsrlVi vd vs2 imm c2 vm) := by
  intro h _ e; cases e
  exact decode_toWord _ _ _ (show opOk 0x57 = true by decide) (show decodeMajor false _ = some _ from rfl) h

theorem vsraVv (vd : BitVec 5) (vs2 : BitVec 5) (vs1 : BitVec 5) (c2 : BitVec 1) (c1 : BitVec 1) (vm : BitVec 1) : Statement (.vsraVv vd vs2 vs1 c2 c1 vm) := by
  intro h _ e; cases e
  exact decode_toWord _ _ _ (show opOk 0x57 = true by decide) (show decodeMajor false _ = some _ from rfl) h

theorem vsraVx (vd : BitVec 5) (vs2 : BitVec 5) (rs1 : BitVec 5) (c2 : BitVec 1) (vm : BitVec 1) : Statement (.vsraVx vd vs2 rs1 c2 vm) := by
  intro h _ e; cases e
  exact decode_toWord _ _ _ (show opOk 0x57 = true by decide) (show decodeMajor false _ = some _ from rfl) h

theorem vsraVi (vd : BitVec 5) (vs2 : BitVec 5) (imm : BitVec 5) (c2 : BitVec 1) (vm : BitVec 1) : Statement (.vsraVi vd vs2 imm c2 vm) := by
  intro h _ e; cases e
  exact decode_toWord _ _ _ (show opOk 0x57 = true by decide) (show decodeMajor false _ = some _ from rfl) h

theorem vminVv (vd : BitVec 5) (vs2 : BitVec 5) (vs1 : BitVec 5) (c2 : BitVec 1) (c1 : BitVec 1) (vm : BitVec 1) : Statement (.vminVv vd vs2 vs1 c2 c1 vm) := by
  intro h _ e; cases e
  exact decode_toWord _ _ _ (show opOk 0x57 = true by decide) (show decodeMajor false _ = some _ from rfl) h

theorem vminVx (vd : BitVec 5) (vs2 : BitVec 5) (rs1 : BitVec 5) (c2 : BitVec 1) (vm : BitVec 1) : Statement (.vminVx vd vs2 rs1 c2 vm) := by
  intro h _ e; cases e
  exact decode_toWord _ _ _ (show opOk 0x57 = true by decide) (show decodeMajor false _ = some _ from rfl) h

theorem vmaxVv (vd : BitVec 5) (vs2 : BitVec 5) (vs1 : BitVec 5) (c2 : BitVec 1) (c1 : BitVec 1) (vm : BitVec 1) : Statement (.vmaxVv vd vs2 vs1 c2 c1 vm) := by
  intro h _ e; cases e
  exact decode_toWord _ _ _ (show opOk 0x57 = true by decide) (show decodeMajor false _ = some _ from rfl) h

theorem vmaxVx (vd : BitVec 5) (vs2 : BitVec 5) (rs1 : BitVec 5) (c2 : BitVec 1) (vm : BitVec 1) : Statement (.vmaxVx vd vs2 rs1 c2 vm) := by
  intro h _ e; cases e
  exact decode_toWord _ _ _ (show opOk 0x57 = true by decide) (show decodeMajor false _ = some _ from rfl) h

theorem vminuVv (vd : BitVec 5) (vs2 : BitVec 5) (vs1 : BitVec 5) (c2 : BitVec 1) (c1 : BitVec 1) (vm : BitVec 1) : Statement (.vminuVv vd vs2 vs1 c2 c1 vm) := by
  intro h _ e; cases e
  exact decode_toWord _ _ _ (show opOk 0x57 = true by decide) (show decodeMajor false _ = some _ from rfl) h

theorem vminuVx (vd : BitVec 5) (vs2 : BitVec 5) (rs1 : BitVec 5) (c2 : BitVec 1) (vm : BitVec 1) : Statement (.vminuVx vd vs2 rs1 c2 vm) := by
  intro h _ e; cases e
  exact decode_toWord _ _ _ (show opOk 0x57 = true by decide) (show decodeMajor false _ = some _ from rfl) h

theorem vmaxuVv (vd : BitVec 5) (vs2 : BitVec 5) (vs1 : BitVec 5) (c2 : BitVec 1) (c1 : BitVec 1) (vm : BitVec 1) : Statement (.vmaxuVv vd vs2 vs1 c2 c1 vm) := by
  intro h _ e; cases e
  exact decode_toWord _ _ _ (show opOk 0x57 = true by decide) (show decodeMajor false _ = some _ from rfl) h

theorem vmaxuVx (vd : BitVec 5) (vs2 : BitVec 5) (rs1 : BitVec 5) (c2 : BitVec 1) (vm : BitVec 1) : Statement (.vmaxuVx vd vs2 rs1 c2 vm) := by
  intro h _ e; cases e
  exact decode_toWord _ _ _ (show opOk 0x57 = true by decide) (show decodeMajor false _ = some _ from rfl) h

theorem vfaddVv (vd : BitVec 5) (vs2 : BitVec 5) (vs1 : BitVec 5) (c2 : BitVec 1) (c1 : BitVec 1) (vm : BitVec 1) : Statement (.vfaddVv vd vs2 vs1 c2 c1 vm) := by
  intro h _ e; cases e
  exact decode_toWord _ _ _ (show opOk 0x57 = true by decide) (show decodeMajor false _ = some _ from rfl) h

theorem vfaddVf (vd : BitVec 5) (vs2 : BitVec 5) (rs1 : BitVec 5) (c2 : BitVec 1) (vm : BitVec 1) : Statement (.vfaddVf vd vs2 rs1 c2 vm) := by
  intro h _ e; cases e
  exact decode_toWord _ _ _ (show opOk 0x57 = true by decide) (show decodeMajor false _ = some _ from rfl) h

theorem vfsubVv (vd : BitVec 5) (vs2 : BitVec 5) (vs1 : BitVec 5) (c2 : BitVec 1) (c1 : BitVec 1) (vm : BitVec 1) : Statement (.vfsubVv vd vs2 vs1 c2 c1 vm) := by
  intro h _ e; cases e
  exact decode_toWord _ _ _ (show opOk 0x57 = true by decide) (show decodeMajor false _ = some _ from rfl) h

theorem vfsubVf (vd : BitVec 5) (vs2 : BitVec 5) (rs1 : BitVec 5) (c2 : BitVec 1) (vm : BitVec 1) : Statement (.vfsubVf vd vs2 rs1 c2 vm) := by
  intro h _ e; cases e
  exact decode_toWord _ _ _ (show opOk 0x57 = true by decide) (show decodeMajor false _ = some _ from rfl) h

theorem vfmulVv (vd : BitVec 5) (vs2 : BitVec 5) (vs1 : BitVec 5) (c2 : BitVec 1) (c1 : BitVec 1) (vm : BitVec 1) : Statement (.vfmulVv vd vs2 vs1 c2 c1 vm) := by
  intro h _ e; cases e
  exact decode_toWord _ _ _ (show opOk 0x57 = true by decide) (show decodeMajor false _ = some _ from rfl) h

theorem vfmulVf (vd : BitVec 5) (vs2 : BitVec 5) (rs1 : BitVec 5) (c2 : BitVec 1) (vm : BitVec 1) : Statement (.vfmulVf vd vs2 rs1 c2 vm) := by
  intro h _ e; cases e
  exact decode_toWord _ _ _ (show opOk 0x57 = true by decide) (show decodeMajor false _ = some _ from rfl) h

theorem vfdivVv (vd : BitVec 5) (vs2 : BitVec 5) (vs1 : BitVec 5) (c2 : BitVec 1) (c1 : BitVec 1) (vm : BitVec 1) : Statement (.vfdivVv vd vs2 vs1 c2 c1 vm) := by
  intro h _ e; cases e
  exact decode_toWord _ _ _ (show opOk 0x57 = true by decide) (show decodeMajor false _ = some _ from rfl) h

theorem vfdivVf (vd : BitVec 5) (vs2 : BitVec 5) (rs1 : BitVec 5) (c2 : BitVec 1) (vm : BitVec 1) : Statement (.vfdivVf vd vs2 rs1 c2 vm) := by
  intro h _ e; cases e
  exact decode_toWord _ _ _ (show opOk 0x57 = true by decide) (show decodeMajor false _ = some _ from rfl) h

theorem vfmaccVv (vd : BitVec 5) (vs2 : BitVec 5) (vs1 : BitVec 5) (c2 : BitVec 1) (c1 : BitVec 1) (vm : BitVec 1) : Statement (.vfmaccVv vd vs2 vs1 c2 c1 vm) := by
  intro h _ e; cases e
  exact decode_toWord _ _ _ (show opOk 0x57 = true by decide) (show decodeMajor false _ = some _ from rfl) h

theorem vfmaccVf (vd : BitVec 5) (vs2 : BitVec 5) (rs1 : BitVec 5) (c2 : BitVec 1) (vm : BitVec 1) : Statement (.vfmaccVf vd vs2 rs1 c2 vm) := by
  intro h _ e; cases e
  exact decode_toWord _ _ _ (show opOk 0x57 = true by decide) (show decodeMajor false _ = some _ from rfl) h

theorem vfnmaccVv (vd : BitVec 5) (vs2 : BitVec 5) (vs1 : BitVec 5) (c2 : BitVec 1) (c1 : BitVec 1) (vm : BitVec 1) : Statement (.vfnmaccVv vd vs2 vs1 c2 c1 vm) := by
  intro h _ e; cases e
  exact decode_toWord _ _ _ (show opOk 0x57 = true by decide) (show decodeMajor false _ = some _ from rfl) h

theorem vfnmaccVf (vd : BitVec 5) (vs2 : BitVec 5) (rs1 : BitVec 5) (c2 : BitVec 1) (vm : BitVec 1) : Statement (.vfnmaccVf vd vs2 rs1 c2 vm) := by
  intro h _ e; cases e
  exact decode_toWord _ _ _ (show opOk 0x57 = true by decide) (show decodeMajor false _ = some _ from rfl) h

theorem vfmsacVv (vd : BitVec 5) (vs2 : BitVec 5) (vs1 : BitVec 5) (c2 : BitVec 1) (c1 : BitVec 1) (vm : BitVec 1) : Statement (.vfmsacVv vd vs2 vs1 c2 c1 vm) := by
  intro h _ e; cases e
  exact decode_toWord _ _ _ (show opOk 0x57 = true by decide) (show decodeMajor false _ = some _ from rfl) h

theorem vfmsacVf (vd : BitVec 5) (vs2 : BitVec 5) (rs1 : BitVec 5) (c2 : BitVec 1) (vm : BitVec 1) : Statement (.vfmsacVf vd vs2 rs1 c2 vm) := by
  intro h _ e; cases e
  exact decode_toWord _ _ _ (show opOk 0x57 = true by decide) (show decodeMajor false _ = some _ from rfl) h

theorem vfminVv (vd : BitVec 5) (vs2 : BitVec 5) (vs1 : BitVec 5) (c2 : BitVec 1) (c1 : BitVec 1) (vm : BitVec 1) : Statement (.vfminVv vd vs2 vs1 c2 c1 vm) := by
  intro h _ e; cases e
  exact decode_toWord _ _ _ (show opOk 0x57 = true by decide) (show decodeMajor false _ = some _ from rfl) h

theorem vfminVf (vd : BitVec 5) (vs2 : BitVec 5) (rs1 : BitVec 5) (c2 : BitVec 1) (vm : BitVec 1) : Statement (.vfminVf vd vs2 rs1 c2 vm) := by
  intro h _ e; cases e
  exact decode_toWord _ _ _ (show opOk 0x57 = true by decide) (show decodeMajor false _ = some _ from rfl) h

theorem vfmaxVv (vd : BitVec 5) (vs2 : BitVec 5) (vs1 : BitVec 5) (c2 : BitVec 1) (c1 : BitVec 1) (vm : BitVec 1) : Statement (.vfmaxVv vd vs2 vs1 c2 c1 vm) := by
  intro h _ e; cases e
  exact decode_toWord _ _ _ (show opOk 0x57 = true by decide) (show decodeMajor false _ = some _ from rfl) h

theorem vfmaxVf (vd : BitVec 5) (vs2 : BitVec 5) (rs1 : BitVec 5) (c2 : BitVec 1) (vm : BitVec 1) : Statement (.vfmaxVf vd vs2 rs1 c2 vm) := by
  intro h _ e; cases e
  exact decode_toWord _ _ _ (show opOk 0x57 = true by decide) (show decodeMajor false _ = some _ from rfl) h

theorem vfsgnjVv (vd : BitVec 5) (vs2 : BitVec 5) (vs1 : BitVec 5) (c2 : BitVec 1) (c1 : BitVec 1) (vm : BitVec 1) : Statement (.vfsgnjVv vd vs2 vs1 c2 c1 vm) := by
  intro h _ e; cases e
  exact decode_toWord _ _ _ (show opOk 0x57 = true by decide) (show decodeMajor false _ = some _ from rfl) h

theorem vfsgnjVf (vd : BitVec 5) (vs2 : BitVec 5) (rs1 : BitVec 5) (c2 : BitVec 1) (vm : BitVec 1) : Statement (.vfsgnjVf vd vs2 rs1 c2 vm) := by
  intro h _ e; cases e
  exact decode_toWord _ _ _ (show opOk 0x57 = true by decide) (show decodeMajor false _ = some _ from rfl) h

theorem vfsgnjnVv (vd : BitVec 5) (vs2 : BitVec 5) (vs1 : BitVec 5) (c2 : BitVec 1) (c1 : BitVec 1) (vm : BitVec 1) : Statement (.vfsgnjnVv vd vs2 vs1 c2 c1 vm) := by
  intro h _ e; cases e
  exact decode_toWord _ _ _ (show opOk 0x57 = true by decide) (show decodeMajor false _ = some _ from rfl) h

theorem vfsgnjnVf (vd : BitVec 5) (vs2 : BitVec 5) (rs1 : BitVec 5) (c2 : BitVec 1) (vm : BitVec 1) : Statement (.vfsgnjnVf vd vs2 rs1 c2 vm) := by
  intro h _ e; cases e
  exact decode_toWord _ _ _ (show opOk 0x57 = true by decide) (show decodeMajor false _ = some _ from rfl) h

theorem vfsgnjxVv (vd : BitVec 5) (vs2 : BitVec 5) (vs1 : BitVec 5) (c2 : BitVec 1) (c1 : BitVec 1) (vm : BitVec 1) : Statement (.vfsgnjxVv vd vs2 vs1 c2 c1 vm) := by
  intro h _ e; cases e
  exact decode_toWord _ _ _ (show opOk 0x57 = true by decide) (show decodeMajor false _ = some _ from rfl) h

theorem vfsgnjxVf (vd : BitVec 5) (vs2 : BitVec 5) (rs1 : BitVec 5) (c2 : BitVec 1) (vm : BitVec 1) : Statement (.vfsgnjxVf vd vs2 rs1 c2 vm) := by
  intro h _ e; cases e
  exact decode_toWord _ _ _ (show opOk 0x57 = true by decide) (show decodeMajor false _ = some _ from rfl) h

theorem vfsqrt (vd : BitVec 5) (vs2 : BitVec 5) (c2 : BitVec 1) (vm : BitVec 1) : Statement (.vfsqrt vd vs2 c2 vm) := by
  intro h _ e; cases e
  exact decode_toWord _ _ _ (show opOk 0x57 = true by decide) (show decodeMajor false _ = some _ from rfl) h

theorem vfclass (vd : BitVec 5) (vs2 : BitVec 5) (c2 : BitVec 1) (vm : BitVec 1) : Statement (.vfclass vd vs2 c2 vm) := by
  intro h _ e; cases e
  exact decode_toWord _ _ _ (show opOk 0x57 = true by decide) (show decodeMajor false _ = some _ from rfl) h

theorem vmseqVv (vd : BitVec 5) (vs2 : BitVec 5) (vs1 : BitVec 5) (c2 : BitVec 1) (c1 : BitVec 1) (vm : BitVec 1) : Statement (.vmseqVv vd vs2 vs1 c2 c1 vm) := by
  intro h _ e; cases e
  exact decode_toWord _ _ _ (show opOk 0x5B = true by decide) (show decodeMajor false _ = some _ from rfl) h

theorem vmseqVx (vd : BitVec 5) (vs2 : BitVec 5) (rs1 : BitVec 5) (c2 : BitVec 1) (vm : BitVec 1) : Statement (.vmseqVx vd vs2 rs1 c2 vm) := by
  intro h _ e; cases e
  exact decode_toWord _ _ _ (show opOk 0x5B = true by decide) (show decodeMajor false _ = some _ from rfl) h

theorem vmseqVi (vd : BitVec 5) (vs2 : BitVec 5) (imm : BitVec 5) (c2 : BitVec 1) (vm : BitVec 1) : Statement (.vmseqVi vd vs2 imm c2 vm) := by
  intro h _ e; cases e
  exact decode_toWord _ _ _ (show opOk 0x5B = true by decide) (show decodeMajor false _ = some _ from rfl) h

theorem vmsneVv (vd : BitVec 5) (vs2 : BitVec 5) (vs1 : BitVec 5) (c2 : BitVec 1) (c1 : BitVec 1) (vm : BitVec 1) : Statement (.vmsneVv vd vs2 vs1 c2 c1 vm) := by
  intro h _ e; cases e
  exact decode_toWord _ _ _ (show opOk 0x5B = true by decide) (show decodeMajor false _ = some _ from rfl) h

theorem vmsneVx (vd : BitVec 5) (vs2 : BitVec 5) (rs1 : BitVec 5) (c2 : BitVec 1) (vm : BitVec 1) : Statement (.vmsneVx vd vs2 rs1 c2 vm) := by
  intro h _ e; cases e
  exact decode_toWord _ _ _ (show opOk 0x5B = true by decide) (show decodeMajor false _ = some _ from rfl) h

theorem vmsneVi (vd : BitVec 5) (vs2 : BitVec 5) (imm : BitVec 5) (c2 : BitVec 1) (vm : BitVec 1) : Statement (.vmsneVi vd vs2 imm c2 vm) := by
  intro h _ e; cases e
  exact decode_toWord _ _ _ (show opOk 0x5B = true by decide) (show decodeMajor false _ = some _ from rfl) h

theorem vmsltVv (vd : BitVec 5) (vs2 : BitVec 5) (vs1 : BitVec 5) (c2 : BitVec 1) (c1 : BitVec 1) (vm : BitVec 1) : Statement (.vmsltVv vd vs2 vs1 c2 c1 vm) := by
  intro h _ e; cases e
  exact decode_toWord _ _ _ (show opOk 0x5B = true by decide) (show decodeMajor false _ = some _ from rfl) h

theorem vmsltVx (vd : BitVec 5) (vs2 : BitVec 5) (rs1 : BitVec 5) (c2 : BitVec 1) (vm : BitVec 1) : Statement (.vmsltVx vd vs2 rs1 c2 vm) := by
  intro h _ e; cases e
  exact decode_toWord _ _ _ (show opOk 0x5B = true by decide) (show decodeMajor false _ = some _ from rfl) h

theorem vmsltuVv (vd : BitVec 5) (vs2 : BitVec 5) (vs1 : BitVec 5) (c2 : BitVec 1) (c1 : BitVec 1) (vm : BitVec 1) : Statement (.vmsltuVv vd vs2 vs1 c2 c1 vm) := by
  intro h _ e; cases e
  exact decode_toWord _ _ _ (show opOk 0x5B = true by decide) (show decodeMajor false _ = some _ from rfl) h

theorem vmsltuVx (vd : BitVec 5) (vs2 : BitVec 5) (rs1 : BitVec 5) (c2 : BitVec 1) (vm : BitVec 1) : Statement (.vmsltuVx vd vs2 rs1 c2 vm) := by
  intro h _ e; cases e
  exact decode_toWord _ _ _ (show opOk 0x5B = true by decide) (show decodeMajor false _ = some _ from rfl) h

theorem vmsleVv (vd : BitVec 5) (vs2 : BitVec 5) (vs1 : BitVec 5) (c2 : BitVec 1) (c1 : BitVec 1) (vm : BitVec 1) : Statement (.vmsleVv vd vs2 vs1 c2 c1 vm) := by
  intro h _ e; cases e
  exact decode_toWord _ _ _ (show opOk 0x5B = true by decide) (show decodeMajor false _ = some _ from rfl) h

theorem vmsleVx (vd : BitVec 5) (vs2 : BitVec 5) (rs1 : BitVec 5) (c2 : BitVec 1) (vm : BitVec 1) : Statement (.vmsleVx vd vs2 rs1 c2 vm) := by
  intro h _ e; cases e
  exact decode_toWord _ _ _ (show opOk 0x5B = true by decide) (show decodeMajor false _ = some _ from rfl) h

theorem vmsleVi (vd : BitVec 5) (vs2 : BitVec 5) (imm : BitVec 5) (c2 : BitVec 1) (vm : BitVec 1) : Statement (.vmsleVi vd vs2 imm c2 vm) := by
  intro h _ e; cases e
  exact decode_toWord _ _ _ (show opOk 0x5B = true by decide) (show decodeMajor false _ = some _ from rfl) h

theorem vmsleuVv (vd : BitVec 5) (vs2 : BitVec 5) (vs1 : BitVec 5) (c2 : BitVec 1) (c1 : BitVec 1) (vm : BitVec 1) : Statement (.vmsleuVv vd vs2 vs1 c2 c1 vm) := by
  intro h _ e; cases e
  exact decode_toWord _ _ _ (show opOk 0x5B = true by decide) (show decodeMajor false _ = some _ from rfl) h

theorem vmsleuVx (vd : BitVec 5) (vs2 : BitVec 5) (rs1 : BitVec 5) (c2 : BitVec 1) (vm : BitVec 1) : Statement (.vmsleuVx vd vs2 rs1 c2 vm) := by
  intro h _ e; cases e
  exact decode_toWord _ _ _ (show opOk 0x5B = true by decide) (show decodeMajor false _ = some _ from rfl) h

theorem vmsleuVi (vd : BitVec 5) (vs2 : BitVec 5) (imm : BitVec 5) (c2 : BitVec 1) (vm : BitVec 1) : Statement (.vmsleuVi vd vs2 imm c2 vm) := by
  intro h _ e; cases e
  exact decode_toWord _ _ _ (show opOk 0x5B = true by decide) (show decodeMajor false _ = some _ from rfl) h

theorem vsaddVv (vd : BitVec 5) (vs2 : BitVec 5) (vs1 : BitVec 5) (c2 : BitVec 1) (c1 : BitVec 1) (vm : BitVec 1) : Statement (.vsaddVv vd vs2 vs1 c2 c1 vm) := by
  intro h _ e; cases e
  exact decode_toWord _ _ _ (show opOk 0x5B = true by decide) (show decodeMajor false _ = some _ from rfl) h

theorem vsaddVx (vd : BitVec 5) (vs2 : BitVec 5) (rs1 : BitVec 5) (c2 : BitVec 1) (vm : BitVec 1) : Statement (.vsaddVx vd vs2 rs1 c2 vm) := by
  intro h _ e; cases e
  exact decode_toWord _ _ _ (show opOk 0x5B = true by decide) (show decodeMajor false _ = some _ from rfl) h

theorem vsaddVi (vd : BitVec 5) (vs2 : BitVec 5) (imm : BitVec 5) (c2 : BitVec 1) (vm : BitVec 1) : Statement (.vsaddVi vd vs2 imm c2 vm) := by
  intro h _ e; cases e
  exact decode_toWord _ _ _ (show opOk 0x5B = true by decide) (show decodeMajor false _ = some _ from rfl) h

theorem vsadduVv (vd : BitVec 5) (vs2 : BitVec 5) (vs1 : BitVec 5) (c2 : BitVec 1) (c1 : BitVec 1) (vm : BitVec 1) : Statement (.vsadduVv vd vs2 vs1 c2 c1 vm) := by
  intro h _ e; cases e
  exact decode_toWord _ _ _ (show opOk 0x5B = true by decide) (show decodeMajor false _ = some _ from rfl) h

theorem vsadduVx (vd : BitVec 5) (vs2 : BitVec 5) (rs1 : BitVec 5) (c2 : BitVec 1) (vm : BitVec 1) : Statement (.vsadduVx vd vs2 rs1 c2 vm) := by
  intro h _ e; cases e
  exact decode_toWord _ _ _ (show opOk 0x5B = true by decide) (show decodeMajor false _ = some _ from rfl) h

theorem vsadduVi (vd : BitVec 5) (vs2 : BitVec 5) (imm : BitVec 5) (c2 : BitVec 1) (vm : BitVec 1) : Statement (.vsadduVi vd vs2 imm c2 vm) := by
  intro h _ e; cases e
  exact decode_toWord _ _ _ (show opOk 0x5B = true by decide) (show decodeMajor false _ = some _ from rfl) h

theorem vssubVv (vd : BitVec 5) (vs2 : BitVec 5) (vs1 : BitVec 5) (c2 : BitVec 1) (c1 : BitVec 1) (vm : BitVec 1) : Statement (.vssubVv vd vs2 vs1 c2 c1 vm) := by
  intro h _ e; cases e
  exact decode_toWord _ _ _ (show opOk 0x5B = true by decide) (show decodeMajor false _ = some _ from rfl) h

theorem vssubVx (vd : BitVec 5) (vs2 : BitVec 5) (rs1 : BitVec 5) (c2 : BitVec 1) (vm : BitVec 1) : Statement (.vssubVx vd vs2 rs1 c2 vm) := by
  intro h _ e; cases e
  exact decode_toWord _ _ _ (show opOk 0x5B = true by decide) (show decodeMajor false _ = some _ from rfl) h

theorem vssubuVv (vd : BitVec 5) (vs2 : BitVec 5) (vs1 : BitVec 5) (c2 : BitVec 1) (c1 : BitVec 1) (vm : BitVec 1) : Statement (.vssubuVv vd vs2 vs1 c2 c1 vm) := by
  intro h _ e; cases e
  exact decode_toWord _ _ _ (show opOk 0x5B = true by decide) (show decodeMajor false _ = some _ from rfl) h

theorem vssubuVx (vd : BitVec 5) (vs2 : BitVec 5) (rs1 : BitVec 5) (c2 : BitVec 1) (vm : BitVec 1) : Statement (.vssubuVx vd vs2 rs1 c2 vm) := by
  intro h _ e; cases e
  exact decode_toWord _ _ _ (show opOk 0x5B = true by decide) (show decodeMajor false _ = some _ from rfl) h

theorem vdivVv (vd : BitVec 5) (vs2 : BitVec 5) (vs1 : BitVec 5) (c2 : BitVec 1) (c1 : BitVec 1) (vm : BitVec 1) : Statement (.vdivVv vd vs2 vs1 c2 c1 vm) := by
  intro h _ e; cases e
  exact decode_toWord _ _ _ (show opOk 0x5B = true by decide) (show decodeMajor false _ = some _ from rfl) h

theorem vdivVx (vd : BitVec 5) (vs2 : BitVec 5) (rs1 : BitVec 5) (c2 : BitVec 1) (vm : BitVec 1) : Statement (.vdivVx vd vs2 rs1 c2 vm) := by
  intro h _ e; cases e
  exact decode_toWord _ _ _ (show opOk 0x5B = true by decide) (show decodeMajor false _ = some _ from rfl) h

theorem vdivuVv (vd : BitVec 5) (vs2 : BitVec 5) (vs1 : BitVec 5) (c2 : BitVec 1) (c1 : BitVec 1) (vm : BitVec 1) : Statement (.vdivuVv vd vs2 vs1 c2 c1 vm) := by
  intro h _ e; cases e
  exact decode_toWord _ _ _ (show opOk 0x5B = true by decide) (show decodeMajor false _ = some _ from rfl) h

theorem vdivuVx (vd : BitVec 5) (vs2 : BitVec 5) (rs1 : BitVec 5) (c2 : BitVec 1) (vm : BitVec 1) : Statement (.vdivuVx vd vs2 rs1 c2 vm) := by
  intro h _ e; cases e
  exact decode_toWord _ _ _ (show opOk 0x5B = true by decide) (show decodeMajor false _ = some _ from rfl) h

theorem vremVv (vd : BitVec 5) (vs2 : BitVec 5) (vs1 : BitVec 5) (c2 : BitVec 1) (c1 : BitVec 1) (vm : BitVec 1) : Statement (.vremVv vd vs2 vs1 c2 c1 vm) := by
  intro h _ e; cases e
  exact decode_toWord _ _ _ (show opOk 0x5B = true by decide) (show decodeMajor false _ = some _ from rfl) h

theorem vremVx (vd : BitVec 5) (vs2 : BitVec 5) (rs1 : BitVec 5) (c2 : BitVec 1) (vm : BitVec 1) : Statement (.vremVx vd vs2 rs1 c2 vm) := by
  intro h _ e; cases e
  exact decode_toWord _ _ _ (show opOk 0x5B = true by decide) (show decodeMajor false _ = some _ from rfl) h

theorem vremuVv (vd : BitVec 5) (vs2 : BitVec 5) (vs1 : BitVec 5) (c2 : BitVec 1) (c1 : BitVec 1) (vm : BitVec 1) : Statement (.vremuVv vd vs2 vs1 c2 c1 vm) := by
  intro h _ e; cases e
  exact decode_toWord _ _ _ (show opOk 0x5B = true by decide) (show decodeMajor false _ = some _ from rfl) h

theorem vremuVx (vd : BitVec 5) (vs2 : BitVec 5) (rs1 : BitVec 5) (c2 : BitVec 1) (vm : BitVec 1) : Statement (.vremuVx vd vs2 rs1 c2 vm) := by
  intro h _ e; cases e
  exact decode_toWord _ _ _ (show opOk 0x5B = true by decide) (show decodeMajor false _ = some _ from rfl) h

theorem vmergeVv (vd : BitVec 5) (vs2 : BitVec 5) (vs1 : BitVec 5) (c2 : BitVec 1) (c1 : BitVec 1) : Statement (.vmergeVv vd vs2 vs1 c2 c1) := by
  intro h _ e; cases e
  exact decode_toWord _ _ _ (show opOk 0x5B = true by decide) (show decodeMajor false _ = some _ from rfl) h

theorem vmergeVx (vd : BitVec 5) (vs2 : BitVec 5) (rs1 : BitVec 5) (c2 : BitVec 1) : Statement (.vmergeVx vd vs2 rs1 c2) := by
  intro h _ e; cases e
  exact decode_toWord _ _ _ (show opOk 0x5B = true by decide) (show decodeMajor false _ = some _ from rfl) h

theorem vmergeVi (vd : BitVec 5) (vs2 : BitVec 5) (imm : BitVec 5) (c2 : BitVec 1) : Statement (.vmergeVi vd vs2 imm c2) := by
  intro h _ e; cases e
  exact decode_toWord _ _ _ (show opOk 0x5B = true by decide) (show decodeMajor false _ = some _ from rfl) h

theorem vmvVv (vd : BitVec 5) (vs1 : BitVec 5) (c1 : BitVec 1) : Statement (.vmvVv vd vs1 c1) := by
  intro h _ e; cases e
  exact decode_toWord _ _ _ (show opOk 0x5B = true by decide) (show decodeMajor false _ = some _ from rfl) h

theorem vmvVx (vd : BitVec 5) (rs1 : BitVec 5) : Statement (.vmvVx vd rs1) := by
  intro h _ e; cases e
  exact decode_toWord _ _ _ (show opOk 0x5B = true by decide) (show decodeMajor false _ = some _ from rfl) h

theorem vmvVi (vd : BitVec 5) (imm : BitVec 5) : Statement (.vmvVi vd imm) := by
  intro h _ e; cases e
  exact decode_toWord _ _ _ (show opOk 0x5B = true by decide) (show decodeMajor false _ = some _ from rfl) h

theorem vmfeq (vd : BitVec 5) (vs2 : BitVec 5) (vs1 : BitVec 5) (c2 : BitVec 1) (c1 : BitVec 1) (vm : BitVec 1) : Statement (.vmfeq vd vs2 vs1 c2 c1 vm) := by
  intro h _ e; cases e
  exact decode_toWord _ _ _ (show opOk 0x5B = true by decide) (show decodeMajor false _ = some _ from rfl) h

theorem vmfne (vd : BitVec 5) (vs2 : BitVec 5) (vs1 : BitVec 5) (c2 : BitVec 1) (c1 : BitVec 1) (vm : BitVec 1) : Statement (.vmfne vd vs2 vs1 c2 c1 vm) := by
  intro h _ e; cases e
  exact decode_toWord _ _ _ (show opOk 0x5B = true by decide) (show decodeMajor false _ = some _ from rfl) h

theorem vmflt (vd : BitVec 5) (vs2 : BitVec 5) (vs1 : BitVec 5) (c2 : BitVec 1) (c1 : BitVec 1) (vm : BitVec 1) : Statement (.vmflt vd vs2 vs1 c2 c1 vm) := by
  intro h _ e; cases e
  exact decode_toWord _ _ _ (show opOk 0x5B = true by decide) (show decodeMajor false _ = some _ from rfl) h

theorem vmfle (vd : BitVec 5) (vs2 : BitVec 5) (vs1 : BitVec 5) (c2 : BitVec 1) (c1 : BitVec 1) (vm : BitVec 1) : Statement (.vmfle vd vs2 vs1 c2 c1 vm) := by
  intro h _ e; cases e
  exact decode_toWord _ _ _ (show opOk 0x5B = true by decide) (show decodeMajor false _ = some _ from rfl) h

theorem vmand (vd : BitVec 5) (vs2 : BitVec 5) (vs1 : BitVec 5) (c2 : BitVec 1) (c1 : BitVec 1) : Statement (.vmand vd vs2 vs1 c2 c1) := by
  intro h _ e; cases e
  exact decode_toWord _ _ _ (show opOk 0x5B = true by decide) (show decodeMajor false _ = some _ from rfl) h

theorem vmor (vd : BitVec 5) (vs2 : BitVec 5) (vs1 : BitVec 5) (c2 : BitVec 1) (c1 : BitVec 1) : Statement (.vmor vd vs2 vs1 c2 c1) := by
  intro h _ e; cases e
  exact decode_toWord _ _ _ (show opOk 0x5B = true by decide) (show decodeMajor false _ = some _ from rfl) h

theorem vmxor (vd : BitVec 5) (vs2 : BitVec 5) (vs1 : BitVec 5) (c2 : BitVec 1) (c1 : BitVec 1) : Statement (.vmxor vd vs2 vs1 c2 c1) := by
  intro h _ e; cases e
  exact decode_toWord _ _ _ (show opOk 0x5B = true by decide) (show decodeMajor false _ = some _ from rfl) h

theorem vmandn (vd : BitVec 5) (vs2 : BitVec 5) (vs1 : BitVec 5) (c2 : BitVec 1) (c1 : BitVec 1) : Statement (.vmandn vd vs2 vs1 c2 c1) := by
  intro h _ e; cases e
  exact decode_toWord _ _ _ (show opOk 0x5B = true by decide) (show decodeMajor false _ = some _ from rfl) h

theorem vcpop (rd : BitVec 5) (vs2 : BitVec 5) (c2 : BitVec 1) : Statement (.vcpop rd vs2 c2) := by
  intro h _ e; cases e
  exact decode_toWord _ _ _ (show opOk 0x5B = true by decide) (show decodeMajor false _ = some _ from rfl) h

theorem vfirst (rd : BitVec 5) (vs2 : BitVec 5) (c2 : BitVec 1) : Statement (.vfirst rd vs2 c2) := by
  intro h _ e; cases e
  exact decode_toWord _ _ _ (show opOk 0x5B = true by decide) (show decodeMajor false _ = some _ from rfl) h

theorem viota (vd : BitVec 5) (vs2 : BitVec 5) (c2 : BitVec 1) (vm : BitVec 1) : Statement (.viota vd vs2 c2 vm) := by
  intro h _ e; cases e
  exact decode_toWord _ _ _ (show opOk 0x5B = true by decide) (show decodeMajor false _ = some _ from rfl) h

theorem vid (vd : BitVec 5) (vm : BitVec 1) : Statement (.vid vd vm) := by
  intro h _ e; cases e
  exact decode_toWord _ _ _ (show opOk 0x5B = true by decide) (show decodeMajor false _ = some _ from rfl) h

theorem vredsum (vd : BitVec 5) (vs2 : BitVec 5) (vs1 : BitVec 5) (c2 : BitVec 1) (c1 : BitVec 1) (vm : BitVec 1) : Statement (.vredsum vd vs2 vs1 c2 c1 vm) := by
  intro h _ e; cases e
  exact decode_toWord _ _ _ (show opOk 0x5B = true by decide) (show decodeMajor false _ = some _ from rfl) h

theorem vredmax (vd : BitVec 5) (vs2 : BitVec 5) (vs1 : BitVec 5) (c2 : BitVec 1) (c1 : BitVec 1) (vm : BitVec 1) : Statement (.vredmax vd vs2 vs1 c2 c1 vm) := by
  intro h _ e; cases e
  exact decode_toWord _ _ _ (show opOk 0x5B = true by decide) (show decodeMajor false _ = some _ from rfl) h

theorem vredmin (vd : BitVec 5) (vs2 : BitVec 5) (vs1 : BitVec 5) (c2 : BitVec 1) (c1 : BitVec 1) (vm : BitVec 1) : Statement (.vredmin vd vs2 vs1 c2 c1 vm) := by
  intro h _ e; cases e
  exact decode_toWord _ _ _ (show opOk 0x5B = true by decide) (show decodeMajor false _ = some _ from rfl) h

theorem vredmaxu (vd : BitVec 5) (vs2 : BitVec 5) (vs1 : BitVec 5) (c2 : BitVec 1) (c1 : BitVec 1) (vm : BitVec 1) : Statement (.vredmaxu vd vs2 vs1 c2 c1 vm) := by
  intro h _ e; cases e
  exact decode_toWord _ _ _ (show opOk 0x5B = true by decide) (show decodeMajor false _ = some _ from rfl) h

theorem vredminu (vd : BitVec 5) (vs2 : BitVec 5) (vs1 : BitVec 5) (c2 : BitVec 1) (c1 : BitVec 1) (vm : BitVec 1) : Statement (.vredminu vd vs2 vs1 c2 c1 vm) := by
  intro h _ e; cases e
  exact decode_toWord _ _ _ (show opOk 0x5B = true by decide) (show decodeMajor false _ = some _ from rfl) h

theorem vredand (vd : BitVec 5) (vs2 : BitVec 5) (vs1 : BitVec 5) (c2 : BitVec 1) (c1 : BitVec 1) (vm : BitVec 1) : Statement (.vredand vd vs2 vs1 c2 c1 vm) := by
  intro h _ e; cases e
  exact decode_toWord _ _ _ (show opOk 0x5B = true by decide) (show decodeMajor false _ = some _ from rfl) h

theorem vredor (vd : BitVec 5) (vs2 : BitVec 5) (vs1 : BitVec 5) (c2 : BitVec 1) (c1 : BitVec 1) (vm : BitVec 1) : Statement (.vredor vd vs2 vs1 c2 c1 vm) := by
  intro h _ e; cases e
  exact decode_toWord _ _ _ (show opOk 0x5B = true by decide) (show decodeMajor false _ = some _ from rfl) h

theorem vredxor (vd : BitVec 5) (vs2 : BitVec 5) (vs1 : BitVec 5) (c2 : BitVec 1) (c1 : BitVec 1) (vm : BitVec 1) : Statement (.vredxor vd vs2 vs1 c2 c1 vm) := by
  intro h _ e; cases e
  exact decode_toWord _ _ _ (show opOk 0x5B = true by decide) (show decodeMajor false _ = some _ from rfl) h

theorem vfredsum (vd : BitVec 5) (vs2 : BitVec 5) (vs1 : BitVec 5) (c2 : BitVec 1) (c1 : BitVec 1) (vm : BitVec 1) : Statement (.vfredsum vd vs2 vs1 c2 c1 vm) := by
  intro h _ e; cases e
  exact decode_toWord _ _ _ (show opOk 0x5B = true by decide) (show decodeMajor false _ = some _ from rfl) h

theorem vfredmax (vd : BitVec 5) (vs2 : BitVec 5) (vs1 : BitVec 5) (c2 : BitVec 1) (c1 : BitVec 1) (vm : BitVec 1) : Statement (.vfredmax vd vs2 vs1 c2 c1 vm) := by
  intro h _ e; cases e
  exact decode_toWord _ _ _ (show opOk 0x5B = true by decide) (show decodeMajor false _ = some _ from rfl) h

theorem vfredmin (vd : BitVec 5) (vs2 : BitVec 5) (vs1 : BitVec 5) (c2 : BitVec 1) (c1 : BitVec 1) (vm : BitVec 1) : Statement (.vfredmin vd vs2 vs1 c2 c1 vm) := by
  intro h _ e; cases e
  exact decode_toWord _ _ _ (show opOk 0x5B = true by decide) (show decodeMajor false _ = some _ from rfl) h

theorem vslideup (vd : BitVec 5) (vs2 : BitVec 5) (rs1 : BitVec 5) (c2 : BitVec 1) (vm : BitVec 1) : Statement (.vslideup vd vs2 rs1 c2 vm) := by
  intro h _ e; cases e
  exact decode_toWord _ _ _ (show opOk 0x5B = true by decide) (show decodeMajor false _ = some _ from rfl) h

theorem vslidedown (vd : BitVec 5) (vs2 : BitVec 5) (rs1 : BitVec 5) (c2 : BitVec 1) (vm : BitVec 1) : Statement (.vslidedown vd vs2 rs1 c2 vm) := by
  intro h _ e; cases e
  exact decode_toWord _ _ _ (show opOk 0x5B = true by decide) (show decodeMajor false _ = some _ from rfl) h

theorem vslide1up (vd : BitVec 5) (vs2 : BitVec 5) (rs1 : BitVec 5) (c2 : BitVec 1) (vm : BitVec 1) : Statement (.vslide1up vd vs2 rs1 c2 vm) := by
  intro h _ e; cases e
  exact decode_toWord _ _ _ (show opOk 0x5B = true by decide) (show decodeMajor false _ = some _ from rfl) h

theorem vslide1down (vd : BitVec 5) (vs2 : BitVec 5) (rs1 : BitVec 5) (c2 : BitVec 1) (vm : BitVec 1) : Statement (.vslide1down vd vs2 rs1 c2 vm) := by
  intro h _ e; cases e
  exact decode_toWord _ _ _ (show opOk 0x5B = true by decide) (show decodeMajor false _ = some _ from rfl) h

theorem vrgather (vd : BitVec 5) (vs2 : BitVec 5) (vs1 : BitVec 5) (c2 : BitVec 1) (c1 : BitVec 1) (vm : BitVec 1) : Statement (.vrgather vd vs2 vs1 c2 c1 vm) := by
  intro h _ e; cases e
  exact decode_toWord _ _ _ (show opOk 0x5B = true by decide) (show decodeMajor false _ = some _ from rfl) h

theorem vcompress (vd : BitVec 5) (vs2 : BitVec 5) (vs1 : BitVec 5) (c2 : BitVec 1) (c1 : BitVec 1) : Statement (.vcompress vd vs2 vs1 c2 c1) := by
  intro h _ e; cases e
  exact decode_toWord _ _ _ (show opOk 0x5B = true by decide) (show decodeMajor false _ = some _ from rfl) h

theorem vmvxs (rd : BitVec 5) (vs2 : BitVec 5) (c2 : BitVec 1) : Statement (.vmvxs rd vs2 c2) := by
  intro h _ e; cases e
  exact decode_toWord _ _ _ (show opOk 0x5B = true by decide) (show decodeMajor false _ = some _ from rfl) h

theorem vmvsx (vd : BitVec 5) (rs1 : BitVec 5) : Statement (.vmvsx vd rs1) := by
  intro h _ e; cases e
  exact decode_toWord _ _ _ (show opOk 0x5B = true by decide) (show decodeMajor false _ = some _ from rfl) h

theorem vcvt (vd : BitVec 5) (vs2 : BitVec 5) (w : BitVec 2) (f : BitVec 3) (c2 : BitVec 1) (vm : BitVec 1) : Statement (.vcvt vd vs2 w f c2 vm) := by
  intro h _ e; cases e
  exact decode_toWord _ _ _ (show opOk 0x5B = true by decide) (decodeMajor_vcvt vd vs2 w f c2 vm) h

theorem vfrsqrt (vd : BitVec 5) (vs2 : BitVec 5) (c2 : BitVec 1) (vm : BitVec 1) : Statement (.vfrsqrt vd vs2 c2 vm) := by
  intro h _ e; cases e
  exact decode_toWord _ _ _ (show opOk 0x5B = true by decide) (show decodeMajor false _ = some _ from rfl) h

theorem vfrcp (vd : BitVec 5) (vs2 : BitVec 5) (c2 : BitVec 1) (vm : BitVec 1) : Statement (.vfrcp vd vs2 c2 vm) := by
  intro h _ e; cases e
  exact decode_toWord _ _ _ (show opOk 0x5B = true by decide) (show decodeMajor false _ = some _ from rfl) h

theorem vfexp2 (vd : BitVec 5) (vs2 : BitVec 5) (c2 : BitVec 1) (vm : BitVec 1) : Statement (.vfexp2 vd vs2 c2 vm) := by
  intro h _ e; cases e
  exact decode_toWord _ _ _ (show opOk 0x5B = true by decide) (show decodeMajor false _ = some _ from rfl) h

theorem vflog2 (vd : BitVec 5) (vs2 : BitVec 5) (c2 : BitVec 1) (vm : BitVec 1) : Statement (.vflog2 vd vs2 c2 vm) := by
  intro h _ e; cases e
  exact decode_toWord _ _ _ (show opOk 0x5B = true by decide) (show decodeMajor false _ = some _ from rfl) h

theorem vfsin (vd : BitVec 5) (vs2 : BitVec 5) (c2 : BitVec 1) (vm : BitVec 1) : Statement (.vfsin vd vs2 c2 vm) := by
  intro h _ e; cases e
  exact decode_toWord _ _ _ (show opOk 0x5B = true by decide) (show decodeMajor false _ = some _ from rfl) h

theorem vfcos (vd : BitVec 5) (vs2 : BitVec 5) (c2 : BitVec 1) (vm : BitVec 1) : Statement (.vfcos vd vs2 c2 vm) := by
  intro h _ e; cases e
  exact decode_toWord _ _ _ (show opOk 0x5B = true by decide) (show decodeMajor false _ = some _ from rfl) h

theorem vmpush (vs1 : BitVec 5) (c1 : BitVec 1) : Statement (.vmpush vs1 c1) := by
  intro h _ e; cases e
  exact decode_toWord _ _ _ (show opOk 0x5B = true by decide) (show decodeMajor false _ = some _ from rfl) h

theorem vmelse : Statement .vmelse := by
  intro h _ e; cases e
  exact decode_toWord _ _ _ (show opOk 0x5B = true by decide) (show decodeMajor false _ = some _ from rfl) h

theorem vmpop : Statement .vmpop := by
  intro h _ e; cases e
  exact decode_toWord _ _ _ (show opOk 0x5B = true by decide) (show decodeMajor false _ = some _ from rfl) h

theorem vfchk (vs1 : BitVec 5) (c1 : BitVec 1) : Statement (.vfchk vs1 c1) := by
  intro h _ e; cases e
  exact decode_toWord _ _ _ (show opOk 0x5B = true by decide) (show decodeMajor false _ = some _ from rfl) h

theorem vfmclr : Statement .vfmclr := by
  intro h _ e; cases e
  exact decode_toWord _ _ _ (show opOk 0x5B = true by decide) (show decodeMajor false _ = some _ from rfl) h

theorem vappend (vs2 : BitVec 5) (rs1 : BitVec 5) (c2 : BitVec 1) (vm : BitVec 1) : Statement (.vappend vs2 rs1 c2 vm) := by
  intro h _ e; cases e
  exact decode_toWord _ _ _ (show opOk 0x5B = true by decide) (show decodeMajor false _ = some _ from rfl) h

theorem vle (vd : BitVec 5) (rs1 : BitVec 5) (w : BitVec 3) (vm : BitVec 1) : Statement (.vle vd rs1 w vm) := by
  intro h _ e; cases e
  exact decode_toWord _ _ _ (show opOk 0x07 = true by decide) (show decodeMajor false _ = some _ from rfl) h

theorem vleS (vd : BitVec 5) (rs1 : BitVec 5) (w : BitVec 3) : Statement (.vleS vd rs1 w) := by
  intro h _ e; cases e
  exact decode_toWord _ _ _ (show opOk 0x07 = true by decide) (show decodeMajor false _ = some _ from rfl) h

theorem vlse (vd : BitVec 5) (rs1 : BitVec 5) (rs2 : BitVec 5) (w : BitVec 3) (vm : BitVec 1) : Statement (.vlse vd rs1 rs2 w vm) := by
  intro h _ e; cases e
  exact decode_toWord _ _ _ (show opOk 0x07 = true by decide) (show decodeMajor false _ = some _ from rfl) h

theorem vlseS (vd : BitVec 5) (rs1 : BitVec 5) (rs2 : BitVec 5) (w : BitVec 3) : Statement (.vlseS vd rs1 rs2 w) := by
  intro h _ e; cases e
  exact decode_toWord _ _ _ (show opOk 0x07 = true by decide) (show decodeMajor false _ = some _ from rfl) h

theorem vlxe (vd : BitVec 5) (vs2 : BitVec 5) (rs1 : BitVec 5) (w : BitVec 3) (vm : BitVec 1) : Statement (.vlxe vd vs2 rs1 w vm) := by
  intro h _ e; cases e
  exact decode_toWord _ _ _ (show opOk 0x07 = true by decide) (show decodeMajor false _ = some _ from rfl) h

theorem vlxeS (vd : BitVec 5) (vs2 : BitVec 5) (rs1 : BitVec 5) (w : BitVec 3) : Statement (.vlxeS vd vs2 rs1 w) := by
  intro h _ e; cases e
  exact decode_toWord _ _ _ (show opOk 0x07 = true by decide) (show decodeMajor false _ = some _ from rfl) h

theorem vse (vs3 : BitVec 5) (rs1 : BitVec 5) (w : BitVec 3) (vm : BitVec 1) : Statement (.vse vs3 rs1 w vm) := by
  intro h _ e; cases e
  exact decode_toWord _ _ _ (show opOk 0x27 = true by decide) (show decodeMajor false _ = some _ from rfl) h

theorem vsse (vs3 : BitVec 5) (rs1 : BitVec 5) (rs2 : BitVec 5) (w : BitVec 3) (vm : BitVec 1) : Statement (.vsse vs3 rs1 rs2 w vm) := by
  intro h _ e; cases e
  exact decode_toWord _ _ _ (show opOk 0x27 = true by decide) (show decodeMajor false _ = some _ from rfl) h

theorem vsxe (vs3 : BitVec 5) (vs2 : BitVec 5) (rs1 : BitVec 5) (w : BitVec 3) (vm : BitVec 1) : Statement (.vsxe vs3 vs2 rs1 w vm) := by
  intro h _ e; cases e
  exact decode_toWord _ _ _ (show opOk 0x27 = true by decide) (show decodeMajor false _ = some _ from rfl) h

theorem mset (rd : BitVec 5) (rs1 : BitVec 5) : Statement (.mset rd rs1) := by
  intro h _ e; cases e
  exact decode_toWord _ _ _ (show opOk 0x2B = true by decide) (show decodeMajor false _ = some _ by
    simp [decodeMajor, decodeXlmat, only, Fields.f7]) h

theorem mrel (rs1 : BitVec 5) : Statement (.mrel rs1) := by
  intro h _ e; cases e
  exact decode_toWord _ _ _ (show opOk 0x2B = true by decide) (show decodeMajor false _ = some _ by
    simp [decodeMajor, decodeXlmat, only, Fields.f7]) h

theorem mzero (g : BitVec 1) : Statement (.mzero g) := by
  intro h _ e; cases e
  exact decode_toWord _ _ _ (show opOk 0x2B = true by decide) (show decodeMajor false _ = some _ by
    simp [decodeMajor, decodeXlmat, only, Fields.f7, cat2_lo, cat2_hi, cat1_lo, cat1_hi, cat22_lo, cat22_hi, cat13_lo, cat13_hi, cat32_lo, cat32_hi, cat1q_lo, cat1q_hi]) h

theorem mopa (g : BitVec 1) (vs2 : BitVec 2) (vs1 : BitVec 5) : Statement (.mopa g vs2 vs1) := by
  intro h _ e; cases e
  exact decode_toWord _ _ _ (show opOk 0x2B = true by decide) (show decodeMajor false _ = some _ by
    simp [decodeMajor, decodeXlmat, only, Fields.f7, cat2_lo, cat2_hi, cat1_lo, cat1_hi, cat22_lo, cat22_hi, cat13_lo, cat13_hi, cat32_lo, cat32_hi, cat1q_lo, cat1q_hi]) h

theorem mops (g : BitVec 1) (vs2 : BitVec 2) (vs1 : BitVec 5) : Statement (.mops g vs2 vs1) := by
  intro h _ e; cases e
  exact decode_toWord _ _ _ (show opOk 0x2B = true by decide) (show decodeMajor false _ = some _ by
    simp [decodeMajor, decodeXlmat, only, Fields.f7, cat2_lo, cat2_hi, cat1_lo, cat1_hi, cat22_lo, cat22_hi, cat13_lo, cat13_hi, cat32_lo, cat32_hi, cat1q_lo, cat1q_hi]) h

theorem mopai (g : BitVec 1) (vs2 : BitVec 2) (vs1 : BitVec 5) : Statement (.mopai g vs2 vs1) := by
  intro h _ e; cases e
  exact decode_toWord _ _ _ (show opOk 0x2B = true by decide) (show decodeMajor false _ = some _ by
    simp [decodeMajor, decodeXlmat, only, Fields.f7, cat2_lo, cat2_hi, cat1_lo, cat1_hi, cat22_lo, cat22_hi, cat13_lo, cat13_hi, cat32_lo, cat32_hi, cat1q_lo, cat1q_hi]) h

theorem mrd (vd : BitVec 5) (g : BitVec 1) (rs1 : BitVec 5) : Statement (.mrd vd g rs1) := by
  intro h _ e; cases e
  exact decode_toWord _ _ _ (show opOk 0x2B = true by decide) (show decodeMajor false _ = some _ by
    simp [decodeMajor, decodeXlmat, only, Fields.f7, cat2_lo, cat2_hi, cat1_lo, cat1_hi, cat22_lo, cat22_hi, cat13_lo, cat13_hi, cat32_lo, cat32_hi, cat1q_lo, cat1q_hi]) h

theorem mwr (g : BitVec 1) (vs2 : BitVec 5) (rs1 : BitVec 5) : Statement (.mwr g vs2 rs1) := by
  intro h _ e; cases e
  exact decode_toWord _ _ _ (show opOk 0x2B = true by decide) (show decodeMajor false _ = some _ by
    simp [decodeMajor, decodeXlmat, only, Fields.f7, cat2_lo, cat2_hi, cat1_lo, cat1_hi, cat22_lo, cat22_hi, cat13_lo, cat13_hi, cat32_lo, cat32_hi, cat1q_lo, cat1q_hi]) h

theorem mrdc (vd : BitVec 5) (g : BitVec 1) (rs1 : BitVec 5) : Statement (.mrdc vd g rs1) := by
  intro h _ e; cases e
  exact decode_toWord _ _ _ (show opOk 0x2B = true by decide) (show decodeMajor false _ = some _ by
    simp [decodeMajor, decodeXlmat, only, Fields.f7, cat2_lo, cat2_hi, cat1_lo, cat1_hi, cat22_lo, cat22_hi, cat13_lo, cat13_hi, cat32_lo, cat32_hi, cat1q_lo, cat1q_hi]) h

theorem mwrc (g : BitVec 1) (vs2 : BitVec 5) (rs1 : BitVec 5) : Statement (.mwrc g vs2 rs1) := by
  intro h _ e; cases e
  exact decode_toWord _ _ _ (show opOk 0x2B = true by decide) (show decodeMajor false _ = some _ by
    simp [decodeMajor, decodeXlmat, only, Fields.f7, cat2_lo, cat2_hi, cat1_lo, cat1_hi, cat22_lo, cat22_hi, cat13_lo, cat13_hi, cat32_lo, cat32_hi, cat1q_lo, cat1q_hi]) h

theorem mdot (vd : BitVec 5) (grp : BitVec 2) (vs2 : BitVec 5) (vs1 : BitVec 5) : Statement (.mdot vd grp vs2 vs1) := by
  intro h _ e; cases e
  exact decode_toWord _ _ _ (show opOk 0x2B = true by decide) (show decodeMajor false _ = some _ by
    simp [decodeMajor, decodeXlmat, only, Fields.f7, cat2_lo, cat2_hi, cat1_lo, cat1_hi, cat22_lo, cat22_hi, cat13_lo, cat13_hi, cat32_lo, cat32_hi, cat1q_lo, cat1q_hi]) h

theorem vmaxexp (vs2 : BitVec 5) (vm : BitVec 1) : Statement (.vmaxexp vs2 vm) := by
  intro h _ e; cases e
  exact decode_toWord _ _ _ (show opOk 0x2B = true by decide) (show decodeMajor false _ = some _ by
    simp [decodeMajor, decodeXlmat, only, Fields.f7, cat2_lo, cat2_hi, cat1_lo, cat1_hi, cat22_lo, cat22_hi, cat13_lo, cat13_hi, cat32_lo, cat32_hi, cat1q_lo, cat1q_hi]) h

theorem vqst (vs3 : BitVec 5) (rs1 : BitVec 5) (vm : BitVec 1) : Statement (.vqst vs3 rs1 vm) := by
  intro h _ e; cases e
  exact decode_toWord _ _ _ (show opOk 0x2B = true by decide) (show decodeMajor false _ = some _ by
    simp [decodeMajor, decodeXlmat, only, Fields.f7, cat2_lo, cat2_hi, cat1_lo, cat1_hi, cat22_lo, cat22_hi, cat13_lo, cat13_hi, cat32_lo, cat32_hi, cat1q_lo, cat1q_hi]) h

theorem vqst2 (vs3 : BitVec 5) (rs1 : BitVec 5) (vm : BitVec 1) : Statement (.vqst2 vs3 rs1 vm) := by
  intro h _ e; cases e
  exact decode_toWord _ _ _ (show opOk 0x2B = true by decide) (show decodeMajor false _ = some _ by
    simp [decodeMajor, decodeXlmat, only, Fields.f7, cat2_lo, cat2_hi, cat1_lo, cat1_hi, cat22_lo, cat22_hi, cat13_lo, cat13_hi, cat32_lo, cat32_hi, cat1q_lo, cat1q_hi]) h

theorem vqsave (rs1 : BitVec 5) : Statement (.vqsave rs1) := by
  intro h _ e; cases e
  exact decode_toWord _ _ _ (show opOk 0x2B = true by decide) (show decodeMajor false _ = some _ by
    simp [decodeMajor, decodeXlmat, only, Fields.f7]) h

theorem vqload (rs1 : BitVec 5) : Statement (.vqload rs1) := by
  intro h _ e; cases e
  exact decode_toWord _ _ _ (show opOk 0x2B = true by decide) (show decodeMajor false _ = some _ by
    simp [decodeMajor, decodeXlmat, only, Fields.f7]) h

theorem vscsave (rs1 : BitVec 5) : Statement (.vscsave rs1) := by
  intro h _ e; cases e
  exact decode_toWord _ _ _ (show opOk 0x2B = true by decide) (show decodeMajor false _ = some _ by
    simp [decodeMajor, decodeXlmat, only, Fields.f7]) h

theorem vscload (rs1 : BitVec 5) : Statement (.vscload rs1) := by
  intro h _ e; cases e
  exact decode_toWord _ _ _ (show opOk 0x2B = true by decide) (show decodeMajor false _ = some _ by
    simp [decodeMajor, decodeXlmat, only, Fields.f7]) h

theorem vqclr : Statement .vqclr := by
  intro h _ e; cases e
  exact decode_toWord _ _ _ (show opOk 0x2B = true by decide) (show decodeMajor false _ = some _ by
    simp [decodeMajor, decodeXlmat, only, Fields.f7]) h

theorem taskSpawn (rd : BitVec 5) (rs1 : BitVec 5) : Statement (.taskSpawn rd rs1) := by
  intro h _ e; cases e
  exact decode_toWord _ _ _ (show opOk 0x0B = true by decide) (show decodeMajor false _ = some _ by
    simp [decodeMajor, decodeXlq, only, Fields.f7]) h

theorem taskSpawnt (rs1 : BitVec 5) : Statement (.taskSpawnt rs1) := by
  intro h _ e; cases e
  exact decode_toWord _ _ _ (show opOk 0x0B = true by decide) (show decodeMajor false _ = some _ by
    simp [decodeMajor, decodeXlq, only, Fields.f7]) h

theorem taskFork (rd : BitVec 5) (rs1 : BitVec 5) : Statement (.taskFork rd rs1) := by
  intro h _ e; cases e
  exact decode_toWord _ _ _ (show opOk 0x0B = true by decide) (show decodeMajor false _ = some _ by
    simp [decodeMajor, decodeXlq, only, Fields.f7]) h

theorem taskForkt (rs1 : BitVec 5) : Statement (.taskForkt rs1) := by
  intro h _ e; cases e
  exact decode_toWord _ _ _ (show opOk 0x0B = true by decide) (show decodeMajor false _ = some _ by
    simp [decodeMajor, decodeXlq, only, Fields.f7]) h

theorem taskPop (rd : BitVec 5) (rs1 : BitVec 5) : Statement (.taskPop rd rs1) := by
  intro h _ e; cases e
  exact decode_toWord _ _ _ (show opOk 0x0B = true by decide) (show decodeMajor false _ = some _ by
    simp [decodeMajor, decodeXlq, only, Fields.f7]) h

theorem taskJoin (rd : BitVec 5) (rs1 : BitVec 5) (scope : BitVec 3) : Statement (.taskJoin rd rs1 scope) := by
  intro h _ e; cases e
  exact decode_toWord _ _ _ (show opOk 0x0B = true by decide) (show decodeMajor false _ = some _ by
    simp [decodeMajor, decodeXlq, only, Fields.f7]) h

theorem taskExit : Statement .taskExit := by
  intro h _ e; cases e
  exact decode_toWord _ _ _ (show opOk 0x0B = true by decide) (show decodeMajor false _ = some _ by
    simp [decodeMajor, decodeXlq, only, Fields.f7]) h

theorem gbarArrive (rd : BitVec 5) (rs1 : BitVec 5) (n : BitVec 4) : Statement (.gbarArrive rd rs1 n) := by
  intro h _ e; cases e
  exact decode_toWord _ _ _ (show opOk 0x0B = true by decide) (show decodeMajor false _ = some _ by
    simp [decodeMajor, decodeXlq, only, Fields.f7, cat2_lo, cat2_hi, cat1_lo, cat1_hi, cat22_lo, cat22_hi, cat13_lo, cat13_hi, cat32_lo, cat32_hi, cat1q_lo, cat1q_hi]) h

theorem gbarMax (rd : BitVec 5) (rs1 : BitVec 5) (n : BitVec 4) : Statement (.gbarMax rd rs1 n) := by
  intro h _ e; cases e
  exact decode_toWord _ _ _ (show opOk 0x0B = true by decide) (show decodeMajor false _ = some _ by
    simp [decodeMajor, decodeXlq, only, Fields.f7, cat2_lo, cat2_hi, cat1_lo, cat1_hi, cat22_lo, cat22_hi, cat13_lo, cat13_hi, cat32_lo, cat32_hi, cat1q_lo, cat1q_hi]) h

theorem gbarMin (rd : BitVec 5) (rs1 : BitVec 5) (n : BitVec 4) : Statement (.gbarMin rd rs1 n) := by
  intro h _ e; cases e
  exact decode_toWord _ _ _ (show opOk 0x0B = true by decide) (show decodeMajor false _ = some _ by
    simp [decodeMajor, decodeXlq, only, Fields.f7, cat2_lo, cat2_hi, cat1_lo, cat1_hi, cat22_lo, cat22_hi, cat13_lo, cat13_hi, cat32_lo, cat32_hi, cat1q_lo, cat1q_hi]) h

theorem gbarAdd (rd : BitVec 5) (rs1 : BitVec 5) (n : BitVec 4) : Statement (.gbarAdd rd rs1 n) := by
  intro h _ e; cases e
  exact decode_toWord _ _ _ (show opOk 0x0B = true by decide) (show decodeMajor false _ = some _ by
    simp [decodeMajor, decodeXlq, only, Fields.f7, cat2_lo, cat2_hi, cat1_lo, cat1_hi, cat22_lo, cat22_hi, cat13_lo, cat13_hi, cat32_lo, cat32_hi, cat1q_lo, cat1q_hi]) h

theorem gbarOr (rd : BitVec 5) (rs1 : BitVec 5) (n : BitVec 4) : Statement (.gbarOr rd rs1 n) := by
  intro h _ e; cases e
  exact decode_toWord _ _ _ (show opOk 0x0B = true by decide) (show decodeMajor false _ = some _ by
    simp [decodeMajor, decodeXlq, only, Fields.f7, cat2_lo, cat2_hi, cat1_lo, cat1_hi, cat22_lo, cat22_hi, cat13_lo, cat13_hi, cat32_lo, cat32_hi, cat1q_lo, cat1q_hi]) h

theorem msgSend (rd : BitVec 5) (rs1 : BitVec 5) (rs2 : BitVec 5) (scope : BitVec 3) : Statement (.msgSend rd rs1 rs2 scope) := by
  intro h _ e; cases e
  exact decode_toWord _ _ _ (show opOk 0x0B = true by decide) (show decodeMajor false _ = some _ by
    simp [decodeMajor, decodeXlq, only, Fields.f7]) h

theorem msgSendt (rs1 : BitVec 5) (rs2 : BitVec 5) (scope : BitVec 3) : Statement (.msgSendt rs1 rs2 scope) := by
  intro h _ e; cases e
  exact decode_toWord _ _ _ (show opOk 0x0B = true by decide) (show decodeMajor false _ = some _ by
    simp [decodeMajor, decodeXlq, only, Fields.f7]) h

theorem msgDone : Statement .msgDone := by
  intro h _ e; cases e
  exact decode_toWord _ _ _ (show opOk 0x0B = true by decide) (show decodeMajor false _ = some _ by
    simp [decodeMajor, decodeXlq, only, Fields.f7]) h

theorem wait (rd : BitVec 5) (rs1 : BitVec 5) (rs2 : BitVec 5) (scope : BitVec 3) : Statement (.wait rd rs1 rs2 scope) := by
  intro h _ e; cases e
  exact decode_toWord _ _ _ (show opOk 0x0B = true by decide) (show decodeMajor false _ = some _ by
    simp [decodeMajor, decodeXlq, only, Fields.f7]) h

theorem fenceS (scope : BitVec 3) (pred : BitVec 4) (succ : BitVec 4) : Statement (.fenceS scope pred succ) := by
  intro h _ e; cases e
  exact decode_toWord _ _ _ (show opOk 0x0B = true by decide) (show decodeMajor false _ = some _ by
    simp [decodeMajor, decodeXlq, only, Fields.f7, cat2_lo, cat2_hi, cat1_lo, cat1_hi, cat22_lo, cat22_hi, cat13_lo, cat13_hi, cat32_lo, cat32_hi, cat1q_lo, cat1q_hi]) h

theorem pub (rs1 : BitVec 5) : Statement (.pub rs1) := by
  intro h _ e; cases e
  exact decode_toWord _ _ _ (show opOk 0x0B = true by decide) (show decodeMajor false _ = some _ by
    simp [decodeMajor, decodeXlq, only, Fields.f7]) h

theorem ldaW (rd : BitVec 5) (rs1 : BitVec 5) (scope : BitVec 3) : Statement (.ldaW rd rs1 scope) := by
  intro h _ e; cases e
  exact decode_toWord _ _ _ (show opOk 0x0B = true by decide) (show decodeMajor false _ = some _ by
    simp [decodeMajor, decodeXlq, only, Fields.f7]) h

theorem ldaD (rd : BitVec 5) (rs1 : BitVec 5) (scope : BitVec 3) : Statement (.ldaD rd rs1 scope) := by
  intro h _ e; cases e
  exact decode_toWord _ _ _ (show opOk 0x0B = true by decide) (show decodeMajor false _ = some _ by
    simp [decodeMajor, decodeXlq, only, Fields.f7]) h

theorem stlW (rs1 : BitVec 5) (rs2 : BitVec 5) (scope : BitVec 3) : Statement (.stlW rs1 rs2 scope) := by
  intro h _ e; cases e
  exact decode_toWord _ _ _ (show opOk 0x0B = true by decide) (show decodeMajor false _ = some _ by
    simp [decodeMajor, decodeXlq, only, Fields.f7]) h

theorem stlD (rs1 : BitVec 5) (rs2 : BitVec 5) (scope : BitVec 3) : Statement (.stlD rs1 rs2 scope) := by
  intro h _ e; cases e
  exact decode_toWord _ _ _ (show opOk 0x0B = true by decide) (show decodeMajor false _ = some _ by
    simp [decodeMajor, decodeXlq, only, Fields.f7]) h

theorem aqNotify (rs1 : BitVec 5) (rs2 : BitVec 5) (scope : BitVec 3) : Statement (.aqNotify rs1 rs2 scope) := by
  intro h _ e; cases e
  exact decode_toWord _ _ _ (show opOk 0x0B = true by decide) (show decodeMajor false _ = some _ by
    simp [decodeMajor, decodeXlq, only, Fields.f7]) h

theorem tcopy (rd : BitVec 5) (rs1 : BitVec 5) (scope : BitVec 3) : Statement (.tcopy rd rs1 scope) := by
  intro h _ e; cases e
  exact decode_toWord _ _ _ (show opOk 0x0B = true by decide) (show decodeMajor false _ = some _ by
    simp [decodeMajor, decodeXlq, only, Fields.f7]) h

theorem cmAcq (rd : BitVec 5) (rs1 : BitVec 5) (rs2 : BitVec 5) : Statement (.cmAcq rd rs1 rs2) := by
  intro h _ e; cases e
  exact decode_toWord _ _ _ (show opOk 0x0B = true by decide) (show decodeMajor false _ = some _ by
    simp [decodeMajor, decodeXlq, only, Fields.f7]) h

theorem strmSet (rs1 : BitVec 5) (k : BitVec 2) : Statement (.strmSet rs1 k) := by
  intro h _ e; cases e
  exact decode_toWord _ _ _ (show opOk 0x0B = true by decide) (show decodeMajor false _ = some _ by
    simp [decodeMajor, decodeXlq, only, Fields.f7, cat2_lo, cat2_hi, cat1_lo, cat1_hi, cat22_lo, cat22_hi, cat13_lo, cat13_hi, cat32_lo, cat32_hi, cat1q_lo, cat1q_hi]) h

theorem vtex (vd : BitVec 5) (vs2 : BitVec 5) (rs1 : BitVec 5) (vm : BitVec 1) : Statement (.vtex vd vs2 rs1 vm) := by
  intro h _ e; cases e
  exact decode_toWord _ _ _ (show opOk 0x7B = true by decide) (show decodeMajor false _ = some _ by
    simp [decodeMajor, decodeXlgfx, only, Fields.f6]) h

theorem vrayq (vd : BitVec 5) (vs2 : BitVec 5) (rs1 : BitVec 5) (vm : BitVec 1) : Statement (.vrayq vd vs2 rs1 vm) := by
  intro h _ e; cases e
  exact decode_toWord _ _ _ (show opOk 0x7B = true by decide) (show decodeMajor false _ = some _ by
    simp [decodeMajor, decodeXlgfx, only, Fields.f6]) h

theorem vrayo (vd : BitVec 5) (vs2 : BitVec 5) (rs1 : BitVec 5) (vm : BitVec 1) : Statement (.vrayo vd vs2 rs1 vm) := by
  intro h _ e; cases e
  exact decode_toWord _ _ _ (show opOk 0x7B = true by decide) (show decodeMajor false _ = some _ by
    simp [decodeMajor, decodeXlgfx, only, Fields.f6]) h

theorem vsobol (vd : BitVec 5) (vs2 : BitVec 5) (rs1 : BitVec 5) (vm : BitVec 1) : Statement (.vsobol vd vs2 rs1 vm) := by
  intro h _ e; cases e
  exact decode_toWord _ _ _ (show opOk 0x7B = true by decide) (show decodeMajor false _ = some _ by
    simp [decodeMajor, decodeXlgfx, only, Fields.f6]) h

theorem vvbmin (vd : BitVec 5) (vs2 : BitVec 5) (rs1 : BitVec 5) (vm : BitVec 1) : Statement (.vvbmin vd vs2 rs1 vm) := by
  intro h _ e; cases e
  exact decode_toWord _ _ _ (show opOk 0x7B = true by decide) (show decodeMajor false _ = some _ by
    simp [decodeMajor, decodeXlgfx, only, Fields.f6]) h

theorem vblend (vd : BitVec 5) (vs2 : BitVec 5) (rs1 : BitVec 5) (vm : BitVec 1) : Statement (.vblend vd vs2 rs1 vm) := by
  intro h _ e; cases e
  exact decode_toWord _ _ _ (show opOk 0x7B = true by decide) (show decodeMajor false _ = some _ by
    simp [decodeMajor, decodeXlgfx, only, Fields.f6]) h

theorem rcQ (vd : BitVec 5) (vs2 : BitVec 5) (vm : BitVec 1) : Statement (.rcQ vd vs2 vm) := by
  intro h _ e; cases e
  exact decode_toWord _ _ _ (show opOk 0x7B = true by decide) (show decodeMajor false _ = some _ by
    simp [decodeMajor, decodeXlgfx, only, Fields.f6]) h

theorem rcQt (vd : BitVec 5) (vs2 : BitVec 5) (vs1 : BitVec 5) (vm : BitVec 1) : Statement (.rcQt vd vs2 vs1 vm) := by
  intro h _ e; cases e
  exact decode_toWord _ _ _ (show opOk 0x7B = true by decide) (show decodeMajor false _ = some _ by
    simp [decodeMajor, decodeXlgfx, only, Fields.f6]) h

theorem fwRing (rd : BitVec 5) (rs1 : BitVec 5) (rs2 : BitVec 5) : Statement (.fwRing rd rs1 rs2) := by
  intro h _ e; cases e
  exact decode_toWord _ _ _ (show opOk 0x7B = true by decide) (show decodeMajor true _ = some _ by
    simp [decodeMajor, decodeXlfw, only]) h

theorem fwBext (rd : BitVec 5) (rs1 : BitVec 5) (lo : BitVec 6) (len1 : BitVec 6) : Statement (.fwBext rd rs1 lo len1) := by
  intro h _ e; cases e
  exact decode_toWord _ _ _ (show opOk 0x7B = true by decide) (show decodeMajor true _ = some _ by
    show some (Instr.fwBext rd rs1 (lo.extractLsb' 2 4 ++ lo.extractLsb' 1 1 ++ lo.extractLsb' 0 1)
      (len1.extractLsb' 5 1 ++ len1.extractLsb' 0 5)) = _
    rw [split_lo, split_sh]) h

theorem fwSwait (rd : BitVec 5) (rs1 : BitVec 5) : Statement (.fwSwait rd rs1) := by
  intro h _ e; cases e
  exact decode_toWord _ _ _ (show opOk 0x7B = true by decide) (show decodeMajor true _ = some _ by
    simp [decodeMajor, decodeXlfw, only]) h

theorem fwDisp (rd : BitVec 5) (rs1 : BitVec 5) (rs2 : BitVec 5) : Statement (.fwDisp rd rs1 rs2) := by
  intro h _ e; cases e
  exact decode_toWord _ _ _ (show opOk 0x7B = true by decide) (show decodeMajor true _ = some _ by
    simp [decodeMajor, decodeXlfw, only]) h

theorem fwQcbld (rd : BitVec 5) (rs1 : BitVec 5) : Statement (.fwQcbld rd rs1) := by
  intro h _ e; cases e
  exact decode_toWord _ _ _ (show opOk 0x7B = true by decide) (show decodeMajor true _ = some _ by
    simp [decodeMajor, decodeXlfw, only]) h

theorem fwQcbst (rs1 : BitVec 5) (rs2 : BitVec 5) : Statement (.fwQcbst rs1 rs2) := by
  intro h _ e; cases e
  exact decode_toWord _ _ _ (show opOk 0x7B = true by decide) (show decodeMajor true _ = some _ by
    simp [decodeMajor, decodeXlfw, only]) h

theorem matrixQueueExecute (core : Nat) : Statement (.matrixQueueExecute core) := by
  intro _ _ e; cases e

theorem copyElementMove (core : Nat) (n : Nat) : Statement (.copyElementMove core n) := by
  intro _ _ e; cases e

theorem chunkComplete (core : Nat) (n : Nat) : Statement (.chunkComplete core n) := by
  intro _ _ e; cases e

theorem copyComplete (core : Nat) (n : Nat) : Statement (.copyComplete core n) := by
  intro _ _ e; cases e

theorem copyFault (core : Nat) (n : Nat) : Statement (.copyFault core n) := by
  intro _ _ e; cases e

theorem streamRefill (hart : Nat) (k : Nat) (i : Nat) : Statement (.streamRefill hart k i) := by
  intro _ _ e; cases e

theorem deferredException (hart : Nat) : Statement (.deferredException hart) := by
  intro _ _ e; cases e

theorem interrupt (hart : Nat) : Statement (.interrupt hart) := by
  intro _ _ e; cases e

theorem cycleCompare (hart : Nat) : Statement (.cycleCompare hart) := by
  intro _ _ e; cases e

theorem wfiWake (hart : Nat) : Statement (.wfiWake hart) := by
  intro _ _ e; cases e

theorem waitWake (hart : Nat) : Statement (.waitWake hart) := by
  intro _ _ e; cases e

theorem cmAcqWake (hart : Nat) : Statement (.cmAcqWake hart) := by
  intro _ _ e; cases e

theorem taskPopWake (hart : Nat) : Statement (.taskPopWake hart) := by
  intro _ _ e; cases e

theorem gbarWake (hart : Nat) : Statement (.gbarWake hart) := by
  intro _ _ e; cases e

theorem fwSwaitWake (hart : Nat) : Statement (.fwSwaitWake hart) := by
  intro _ _ e; cases e

theorem preemptionRequest (hart : Nat) : Statement (.preemptionRequest hart) := by
  intro _ _ e; cases e

theorem saveComplete (hart : Nat) : Statement (.saveComplete hart) := by
  intro _ _ e; cases e

theorem ctxSave (hart : Nat) : Statement (.ctxSave hart) := by
  intro _ _ e; cases e

theorem ctxRestore (cmd : RestoreCmd) : Statement (.ctxRestore cmd) := by
  intro _ _ e; cases e

theorem restoreComplete (hart : Nat) : Statement (.restoreComplete hart) := by
  intro _ _ e; cases e

theorem ctxRetire (hart : Nat) : Statement (.ctxRetire hart) := by
  intro _ _ e; cases e

theorem retireComplete (hart : Nat) : Statement (.retireComplete hart) := by
  intro _ _ e; cases e

theorem lsevt0Pop (cl : Nat) : Statement (.lsevt0Pop cl) := by
  intro _ _ e; cases e

theorem messageArrival (n : Nat) : Statement (.messageArrival n) := by
  intro _ _ e; cases e

theorem messageRun (core : Nat) : Statement (.messageRun core) := by
  intro _ _ e; cases e

theorem messageLimit (core : Nat) : Statement (.messageLimit core) := by
  intro _ _ e; cases e

theorem contextFreeNotice (n : Nat) : Statement (.contextFreeNotice n) := by
  intro _ _ e; cases e

theorem uncountedResend (hart : Nat) (dest : Nat) : Statement (.uncountedResend hart dest) := by
  intro _ _ e; cases e

theorem notify (n : Nat) : Statement (.notify n) := by
  intro _ _ e; cases e

theorem hostPacing (n : Nat) : Statement (.hostPacing n) := by
  intro _ _ e; cases e

theorem lodestarDoorbell (n : Nat) : Statement (.lodestarDoorbell n) := by
  intro _ _ e; cases e

theorem presentationReferenceEdge (part : Nat) : Statement (.presentationReferenceEdge part) := by
  intro _ _ e; cases e

theorem agentNop (ag : Nat) (q : Nat) : Statement (.agentNop ag q) := by
  intro _ _ e; cases e

theorem bicubic (ag : Nat) (q : Nat) : Statement (.bicubic ag q) := by
  intro _ _ e; cases e

theorem bilinear (ag : Nat) (q : Nat) : Statement (.bilinear ag q) := by
  intro _ _ e; cases e

theorem dicingRecordEmit (ag : Nat) : Statement (.dicingRecordEmit ag) := by
  intro _ _ e; cases e

theorem grid (ag : Nat) (q : Nat) : Statement (.grid ag q) := by
  intro _ _ e; cases e

theorem triangle (ag : Nat) (q : Nat) : Statement (.triangle ag q) := by
  intro _ _ e; cases e

theorem blend (ag : Nat) (q : Nat) : Statement (.blend ag q) := by
  intro _ _ e; cases e

theorem present (ag : Nat) (q : Nat) : Statement (.present ag q) := by
  intro _ _ e; cases e

theorem presentSettle (ag : Nat) (q : Nat) : Statement (.presentSettle ag q) := by
  intro _ _ e; cases e

theorem aqctlEnable (ag : Nat) (q : Nat) (v : BitVec 64) : Statement (.aqctlEnable ag q v) := by
  intro _ _ e; cases e

theorem aqctlDisable (ag : Nat) (q : Nat) (v : BitVec 64) : Statement (.aqctlDisable ag q v) := by
  intro _ _ e; cases e

theorem aqheadWrite (ag : Nat) (q : Nat) (v : BitVec 64) : Statement (.aqheadWrite ag q v) := by
  intro _ _ e; cases e

theorem hwEnable (part : Nat) (n : Nat) (v : BitVec 64) : Statement (.hwEnable part n v) := by
  intro _ _ e; cases e

theorem hwDisable (part : Nat) (n : Nat) (v : BitVec 64) : Statement (.hwDisable part n v) := by
  intro _ _ e; cases e

theorem hwverWrite (part : Nat) (n : Nat) (v : BitVec 64) : Statement (.hwverWrite part n v) := by
  intro _ _ e; cases e

theorem rcBind (cl : Nat) (v : BitVec 64) : Statement (.rcBind cl v) := by
  intro _ _ e; cases e

theorem rcLoadComplete (cl : Nat) : Statement (.rcLoadComplete cl) := by
  intro _ _ e; cases e

theorem rcUnbind (cl : Nat) : Statement (.rcUnbind cl) := by
  intro _ _ e; cases e

theorem rcWritebackRequest (cl : Nat) (v : BitVec 64) : Statement (.rcWritebackRequest cl v) := by
  intro _ _ e; cases e

theorem rcWriteback (cl : Nat) : Statement (.rcWriteback cl) := by
  intro _ _ e; cases e

theorem afterglowStep (cl : Nat) : Statement (.afterglowStep cl) := by
  intro _ _ e; cases e

theorem rcPublish (cl : Nat) : Statement (.rcPublish cl) := by
  intro _ _ e; cases e

theorem tlbinv (cl : Nat) (v : BitVec 64) : Statement (.tlbinv cl v) := by
  intro _ _ e; cases e

theorem wdpet (part : Nat) (hart : Nat) : Statement (.wdpet part hart) := by
  intro _ _ e; cases e

theorem vlpWrite (cl : Nat) (v : BitVec 64) : Statement (.vlpWrite cl v) := by
  intro _ _ e; cases e

theorem vlpApply (core : Nat) : Statement (.vlpApply core) := by
  intro _ _ e; cases e

theorem lmsplitWrite (core : Nat) (v : BitVec 64) : Statement (.lmsplitWrite core v) := by
  intro _ _ e; cases e

theorem lmgroupWrite (core : Nat) (v : BitVec 64) : Statement (.lmgroupWrite core v) := by
  intro _ _ e; cases e

theorem lmfmtWrite (core : Nat) (n : Nat) (v : BitVec 64) : Statement (.lmfmtWrite core n v) := by
  intro _ _ e; cases e

theorem cflagsClear (cl : Nat) (v : BitVec 64) : Statement (.cflagsClear cl v) := by
  intro _ _ e; cases e

theorem flagUnion (cl : Nat) : Statement (.flagUnion cl) := by
  intro _ _ e; cases e

theorem fwkpendClear (iod : Nat) (v : BitVec 64) : Statement (.fwkpendClear iod v) := by
  intro _ _ e; cases e

theorem fwalmWrite (iod : Nat) (v : BitVec 64) : Statement (.fwalmWrite iod v) := by
  intro _ _ e; cases e

theorem fwsmapBind (iod : Nat) (n : Nat) (v : BitVec 64) : Statement (.fwsmapBind iod n v) := by
  intro _ _ e; cases e

theorem fwsmapUnbind (iod : Nat) (n : Nat) : Statement (.fwsmapUnbind iod n) := by
  intro _ _ e; cases e

theorem fwpaceWrite (iod : Nat) (v : BitVec 64) : Statement (.fwpaceWrite iod v) := by
  intro _ _ e; cases e

theorem scyccmpWrite (hart : Nat) (v : BitVec 64) : Statement (.scyccmpWrite hart v) := by
  intro _ _ e; cases e

theorem sipNotifyClear (hart : Nat) (v : BitVec 64) : Statement (.sipNotifyClear hart v) := by
  intro _ _ e; cases e

theorem strmctlWrite (hart : Nat) (v : BitVec 64) : Statement (.strmctlWrite hart v) := by
  intro _ _ e; cases e

theorem registerWrite (hart : Nat) (addr : Nat) (v : BitVec 64) : Statement (.registerWrite hart addr v) := by
  intro _ _ e; cases e

theorem hostKick (port : Nat) (addr : Nat) (v : BitVec 64) : Statement (.hostKick port addr v) := by
  intro _ _ e; cases e

theorem kickRestart (iod : Nat) (n : Nat) : Statement (.kickRestart iod n) := by
  intro _ _ e; cases e

theorem bitmapStoreRetry (iod : Nat) : Statement (.bitmapStoreRetry iod) := by
  intro _ _ e; cases e

theorem schedulingRound (iod : Nat) : Statement (.schedulingRound iod) := by
  intro _ _ e; cases e

theorem launch (iod : Nat) (n : Nat) : Statement (.launch iod n) := by
  intro _ _ e; cases e

theorem signal (iod : Nat) (n : Nat) : Statement (.signal iod n) := by
  intro _ _ e; cases e

theorem pace (iod : Nat) (n : Nat) : Statement (.pace iod n) := by
  intro _ _ e; cases e

theorem nop (iod : Nat) (n : Nat) : Statement (.nop iod n) := by
  intro _ _ e; cases e

theorem unservedRecord (cl : Nat) (n : Nat) : Statement (.unservedRecord cl n) := by
  intro _ _ e; cases e

theorem continuationDeferred (cl : Nat) : Statement (.continuationDeferred cl) := by
  intro _ _ e; cases e

theorem svcAttach (hart : Nat) : Statement (.svcAttach hart) := by
  intro _ _ e; cases e

theorem svcReply (hart : Nat) : Statement (.svcReply hart) := by
  intro _ _ e; cases e

theorem qcbWrite (hart : Nat) : Statement (.qcbWrite hart) := by
  intro _ _ e; cases e

theorem svcForwarded (hart : Nat) : Statement (.svcForwarded hart) := by
  intro _ _ e; cases e

theorem serviceRingRound (cl : Nat) : Statement (.serviceRingRound cl) := by
  intro _ _ e; cases e

theorem watchdogExpiry (part : Nat) : Statement (.watchdogExpiry part) := by
  intro _ _ e; cases e

theorem uncorrectableSramError (core : Nat) (addr : Nat) : Statement (.uncorrectableSramError core addr) := by
  intro _ _ e; cases e

theorem registerFileParityError (core : Nat) (n : Nat) : Statement (.registerFileParityError core n) := by
  intro _ _ e; cases e

theorem uncorrectableTierMemoryError (hart : Nat) (addr : Nat) : Statement (.uncorrectableTierMemoryError hart addr) := by
  intro _ _ e; cases e

theorem correctableError (n : Nat) : Statement (.correctableError n) := by
  intro _ _ e; cases e

theorem coreFenced (core : Nat) : Statement (.coreFenced core) := by
  intro _ _ e; cases e

theorem coreRepair (core : Nat) : Statement (.coreRepair core) := by
  intro _ _ e; cases e

theorem lockInterfaceRequest (part : Nat) : Statement (.lockInterfaceRequest part) := by
  intro _ _ e; cases e

theorem startInterfaceRequest (part : Nat) : Statement (.startInterfaceRequest part) := by
  intro _ _ e; cases e

theorem stopInterfaceRequest (part : Nat) : Statement (.stopInterfaceRequest part) := by
  intro _ _ e; cases e

theorem hostMemoryRequest (port : Nat) (strm : IdeStream) (wr : Bool) (addr : Nat) (v : BitVec 64) : Statement (.hostMemoryRequest port strm wr addr v) := by
  intro _ _ e; cases e

theorem ownershipFlipToHost (page : Nat) : Statement (.ownershipFlipToHost page) := by
  intro _ _ e; cases e

theorem ownershipFlipToDevice (page : Nat) : Statement (.ownershipFlipToDevice page) := by
  intro _ _ e; cases e

theorem fabricRemoteOperation (src : Nat) (seq : BitVec 32) (op : FabricOp) (addr : Nat) (v : BitVec 64) : Statement (.fabricRemoteOperation src seq op addr v) := by
  intro _ _ e; cases e

theorem flitFailure (link : Nat) (part : Nat) (tag : Bool) : Statement (.flitFailure link part tag) := by
  intro _ _ e; cases e

theorem linkRetrain (link : Nat) (lane : Nat) : Statement (.linkRetrain link lane) := by
  intro _ _ e; cases e

theorem keyUpdate (link : Nat) (dir : Nat) : Statement (.keyUpdate link dir) := by
  intro _ _ e; cases e

theorem coreThrottle (die : Nat) (n : Nat) : Statement (.coreThrottle die n) := by
  intro _ _ e; cases e

theorem deviceReset : Statement .deviceReset := by
  intro _ _ e; cases e

theorem boot (img : BootImages) : Statement (.boot img) := by
  intro _ _ e; cases e

theorem getMeasurements (n : Nat) : Statement (.getMeasurements n) := by
  intro _ _ e; cases e

theorem mgmtReadIdentity : Statement .mgmtReadIdentity := by
  intro _ _ e; cases e

theorem mgmtReadTelemetry : Statement .mgmtReadTelemetry := by
  intro _ _ e; cases e

theorem mgmtResetRequest : Statement .mgmtResetRequest := by
  intro _ _ e; cases e

theorem illegalInstruction (w : BitVec 32) : Statement (.illegalInstruction w) := by
  intro _ _ e; cases e

theorem instructionFetchFault (cause : BitVec 8) (addr : Nat) : Statement (.instructionFetchFault cause addr) := by
  intro _ _ e; cases e

theorem uncorrectableError (kind : UncorrKind) (n : Nat) (addr : Nat) : Statement (.uncorrectableError kind n addr) := by
  intro _ _ e; cases e

theorem coreRailSetting (die : Nat) (temp : Nat) : Statement (.coreRailSetting die temp) := by
  intro _ _ e; cases e

theorem linkKeyInstall (part : Nat) (link : Nat) (secret : BitVec 64) : Statement (.linkKeyInstall part link secret) := by
  intro _ _ e; cases e

end Laws.RoundTrip

end Sys2Proof
end

