-- ==== Sys2Proof/Tests/Slice0.lean ====
section
/-!
SUPPORT. Tests/Slice0.lean: checks of the model's own: words of the opcode table that the decoder reads, ill-formed terms
that `Instr.wf` refuses, the manual's worked examples, and for the statements states and operands that meet their
hypotheses. The expected results come from the manual's encodings, tables and examples.
-/

set_option Elab.async false

namespace Sys2Proof.Tests

open Sys2Proof Sys2Proof.Machine Sys2Proof.Spec

/-! ### Small states -/

/-- Context 0 of core 0 in S mode at 0x20000, the first GiB mapped onto itself and owned by its partition 0. -/
def home : State := State.reset.aimed 0
/-- The same in U mode. -/
def user : State := let s := home.withMap true; s.setHart 0 { s.hart 0 with mode := .u }
/-- The Lodestar of cluster 0, the first Orrery core, and the message hart of core 0. -/
def lode : State := { State.reset.aimed 3888 with cur := 3888 }
def orr : State := { State.reset.aimed 3936 with cur := 3936 }
def mess : State := { State.reset.aimed 3456 with cur := 3456 }
/-- `s` with `x[1]` to `x[4]` of its hart given. -/
def regs (s : State) (a b c d : Word) : State :=
  s.setHart s.cur { s.me with x := (((s.me.x.set 1 a).set 2 b).set 3 c).set 4 d }
/-- `s` with four lanes for context 0, and its `vtype` and `vl` given. -/
def lanes (s : State) (vt : Word) (vl : Nat) : State :=
  (s.setCore 0 { s.core 0 with vlp := 0x803 }).setHart 0 { s.hart 0 with vec := { (s.hart 0).vec with vtype := vt, vl := vl } }
/-- `s` with a doubleword of memory. -/
def dword (s : State) (a v : Nat) : State := { s with mem := Memory.write s.mem a v 8 }
/-- `s` with a matrix instruction of context 0 queued. -/
def queued (s : State) : State := s.setCore 0 { s.core 0 with mq := [{ slot := 0, array := 0, op := .zero }] }
/-- `s` with windows of partition 0 at 0x100000 that hold 16,384 pending lines. -/
def fullWindow (s : State) : State :=
  let w : Window := { en := true, base := 0x100000, pages := 1, pending := List.replicate 16384 (0, 0) }
  let p : Partition := { s.part 0 with wins := Vector.replicate 16 w }
  { s with parts := #v[p, {}, {}, {}, {}, {}, {}, {}] }

/-- What a checked operation answers. -/
def okOf {α : Type} (x : Except Trap α) : Option α :=
  match x with
  | .ok a => some a
  | .error _ => none
def errOf {α : Type} (x : Except Trap α) : Option Trap :=
  match x with
  | .ok _ => none
  | .error t => some t

theorem ok_of {α : Type} {x : Except Trap α} {a : α} (h : okOf x = some a) : x = .ok a := by
  cases x <;> simp_all [okOf]
theorem err_of {α : Type} {x : Except Trap α} {t : Trap} (h : errOf x = some t) : x = .error t := by
  cases x <;> simp_all [errOf]

end Sys2Proof.Tests

namespace Sys2Proof.Tests

open Sys2Proof Sys2Proof.Machine Sys2Proof.Spec

/-! ### Hypotheses that are met: the scalar base -/

theorem witness_computational : aluValue home (.addi 1 0 5) = some (1, 5) ∧
    aluValue (regs home 0 0x8000000000000000 0xFFFFFFFFFFFFFFFF 0) (.div 1 2 3) = some (1, 0x8000000000000000) := by
  decide +kernel

theorem witness_branches : branchOf home (.bne 0 0 4) = some (false, 8) ∧ branchOf home (.beq 0 0 4) = some (true, 8) ∧
    (BitVec.ofInt 64 (home.me.pc.toInt + 8)).getLsbD 1 = false ∧ branchOf home (.beq 0 0 1) = some (true, 2) ∧
    (BitVec.ofInt 64 (home.me.pc.toInt + 2)).getLsbD 1 = true ∧ jumpOf home (.jal 1 2) = some (1, 0x20004) ∧
    jumpOf (regs home 0 0x30003 0 0) (.jalr 1 2 0) = some (1, 0x30002) := by decide +kernel

theorem witness_loads :
    (∀ s : State, loadForm s (.ld 1 2 0) = some (1, s.x 2 + (0 : BitVec 12).signExtend 64, 8, fun v => v)) ∧
    (regs home 0 0x3000 0 0).x 2 = 0x3000 ∧ home.check home.who .load (.scalar 8) 8 0x3000 = .ok 0x3000 ∧
    (home.region home.who.core 0x3000).isBlock = false ∧
    home.check home.who .load (.scalar 8) 8 0x3001 = .error ⟨0x04, 0x3001⟩ ∧
    lode.check lode.who .load (.scalar 8) 8 0xFE0000000000 = .ok 0xFE0000000000 ∧
    (lode.region lode.who.core 0xFE0000000000).isBlock = true ∧
    (lode.regLoad lode.cur (lode.region lode.who.core 0xFE0000000000)).isSome = true ∧
    (lode.region lode.who.core 0xFE000000FFF8).isBlock = true ∧
    (lode.regLoad lode.cur (lode.region lode.who.core 0xFE000000FFF8)).isSome = false :=
  ⟨fun _ => rfl, by decide +kernel, ok_of (by decide +kernel), by decide +kernel, err_of (by decide +kernel), ok_of (by decide +kernel),
    by decide +kernel⟩

theorem witness_stores :
    (∀ s : State, storeForm s (.sd 2 1 0) = some (s.x 2 + (0 : BitVec 12).signExtend 64, s.x 1, 8)) ∧
    (Instr.sd 2 1 0).wf = true ∧ Memory.wf home.mem = true ∧ home.windowFull 0x3000 = false ∧
    home.check home.who .store (.scalar 8) 8 0x3000 = .ok 0x3000 ∧
    home.check home.who .store (.scalar 8) 8 0x3004 = .error ⟨0x06, 0x3004⟩ ∧
    (lode.regStore lode.cur (lode.region lode.who.core 0xFE0000000000) 0).isSome = true ∧
    (lode.regStore lode.cur (lode.region lode.who.core 0xFE000000FFF8) 0).isSome = false :=
  ⟨fun _ => rfl, by decide +kernel, by decide +kernel, by decide +kernel, ok_of (by decide +kernel), err_of (by decide +kernel),
    by decide +kernel, by decide +kernel⟩

theorem witness_full_window : (fullWindow home).windowFull 0x100000 = true ∧
    (fullWindow home).linesFit [0x4000, 0x4001] = false ∧ home.region home.who.core 0x100000 = .tier := by
  refine ⟨?_, ?_, by decide +kernel⟩ <;>
    simp [State.windowFull, State.linesFit, fullWindow, Window.adds, Window.holds, localOf, List.eraseDups,
      List.eraseDupsBy, List.eraseDupsBy.loop, -List.reduceReplicate, -Nat.reducePow] <;> decide +kernel

theorem witness_atomics :
    amoForm (.amoadd 1 2 3 0 0 3) = some (1, 2, 3, 3, fun _ x y => x + y) ∧
    home.check home.who .amo .atomic 8 0x3000 = .ok 0x3000 ∧
    home.check home.who .amo .atomic 4 0x3002 = .error ⟨0x06, 0x3002⟩ ∧
    home.check home.who .lr .resv 8 0x3000 = .ok 0x3000 ∧ home.check home.who .sc .resv 8 0x3000 = .ok 0x3000 ∧
    home.check home.who .sc .resv 8 0x3004 = .error ⟨0x06, 0x3004⟩ ∧
    (home.setHart 0 { home.me with resv := some ⟨0xC0, 4⟩ }).me.resv = some ⟨0x3000 / 64, amoScopeCode 3⟩ :=
  ⟨rfl, ok_of (by decide +kernel), err_of (by decide +kernel), ok_of (by decide +kernel), ok_of (by decide +kernel),
    err_of (by decide +kernel), by decide +kernel⟩

/-! ### Traps, CSRs, boundaries -/

theorem witness_traps : isCtx home.cur = true ∧ home.me.mode = .s ∧ user.me.mode = .u ∧ isMach lode.cur = true ∧
    isOrr orr.cur = true ∧ isMsg mess.cur = true ∧ lode.me.mode = .m ∧
    ((⟨0x0D, 5⟩ : Trap).cause ≠ 0x09 ∧ (⟨0x0D, 5⟩ : Trap).cause ≠ 0xB0 ∧ (⟨0x0D, 5⟩ : Trap).cause ≠ 0xD5) := by
  decide +kernel

/-- A CSR write that completes, one that traps and one that waits. -/
def csrKind (r : CsrOut) : Nat :=
  match r with
  | .done _ => 0
  | .trap _ _ => 1
  | .wait _ _ => 2

theorem witness_csrs : csrForm (regs home 0 7 0 0) (.csrrw 1 2 0x008) = some (.write, 1, 2, 7, 0x008) ∧
    home.csrOk 0x008 = true ∧ csrReadOnly 0x008 = false ∧ home.csrOk 0xC00 = true ∧ csrReadOnly 0xC00 = true ∧
    home.csrOk 0x7C0 = false ∧ (queued home).hasQueued 0 = true ∧ csrWrites .set 0 = false ∧
    csrKind (home.csrWrite 0x008 7) = 0 ∧ csrKept home 0x003 0xE0 = some 0 ∧ csrKept home 0x003 0x9F = some 0x9F ∧
    csrKept home 0x002 4 = some 4 ∧ csrKept home 0x002 5 = some 0 ∧ csrKept lode 0x7C0 9 = some 8 := by decide +kernel

theorem witness_fences : (4 : BitVec 3).toNat ≤ 4 ∧ (4 : Nat) < (5 : BitVec 3).toNat ∧ home.myCore.issuepol ≠ 1 ∧
    (home.setCore 0 { home.core 0 with issuepol := 1 }).myCore.issuepol = 1 ∧ isCtx lode.cur = false := by decide +kernel

/-- Context 0 with a latched notify that `sie` enables. -/
def notified (s : State) : State := s.setHart 0 { s.hart 0 with sc := { (s.hart 0).sc with notify := true, sie := 1 } }

theorem witness_wfi : (notified home).enabledPending 0 ≠ 0 ∧ home.enabledPending 0 = 0 ∧ home.me.mode ≠ .u ∧
    ((notified home).setHart 0 { (notified home).hart 0 with park := some .wfi }).enabledPending 0 ≠ 0 := by decide +kernel

theorem witness_invalidations : selects 0 0 none none ⟨0, false, 0, 0, false, 0, 30, 0xCF⟩ :=
  ⟨Or.inl rfl, rfl, ⟨(by intro _ h; cases h), (by intro _ h; cases h)⟩⟩

/-- Context 0 in U mode, where interrupts are enabled, and with deferred exceptions. -/
def owed (n : Nat) : State := user.setHart 0 { user.hart 0 with deferred := List.replicate n ⟨0x34, 0⟩ }

theorem witness_boundaries : (notified user).runs 0 = true ∧ (notified user).due 0 = some .interrupt ∧
    (owed 1).due 0 = some .deferred ∧ (owed 1).runs 0 = true ∧
    (home.setHart 0 { home.me with saveReq := some (.save 1), ctxState := 2 }).due 0 = some .save ∧
    ((owed 1).setHart 0 { (owed 1).me with saveReq := some (.save 1), ctxState := 2 }).due 0 = some .save ∧
    (notified (owed 1)).due 0 = some .deferred ∧ home.due 0 = none ∧
    ((owed 1).setHart 0 { (owed 1).me with begun := some {} }).due 0 = none ∧
    (owed 32).due 0 = some .deferred ∧
    (home.setHart 0 { home.me with saveReq := some (.save 1), ctxState := 2 }).runs 0 = true ∧
    ((home.setHart 0 { home.me with scyccmp := 1 }).core 0).cycle.toNat <
      ((home.setHart 0 { home.me with scyccmp := 1 }).hart 0).scyccmp.toNat := by decide +kernel

end Sys2Proof.Tests

namespace Sys2Proof.Tests

open Sys2Proof Sys2Proof.Machine Sys2Proof.Spec

/-! ### Hypotheses that are met: steps and words -/

/-- The answer is a next state; the next state, or the state itself. -/
def isNext (r : Host.Outcome State Fault Refusal) : Bool :=
  match r with
  | .next _ => true
  | _ => false
def next (r : Host.Outcome State Fault Refusal) (s : State) : State :=
  match r with
  | .next t => t
  | _ => s

/-- The reset machine with a word where context 0 fetches. -/
noncomputable def placed (w : Nat) : State := State.reset.withFetchWord 32 w

theorem witness_steps : (placed 0x00508093).agenda = [.issue 0] ∧
    okOf ((placed 0x00508093).fetch 0) = some 0x00508093 ∧ okOf ((placed 0xFFFFFFFF).fetch 0) = some 0xFFFFFFFF ∧
    (errOf ((user.setHart 0 { user.me with pc := 0x40000000 }).fetch 0)).isSome = true ∧
    (0xFFFFFFFF : W32).extractLsb' 0 5 = 31 ∧ (0x00000001 : W32).extractLsb' 0 2 ≠ 3 ∧
    (Instr.wfiWake 0).wf = true ∧ encodeFields (.wfiWake 0) = none ∧
    isNext (step (placed 0x00508093)) = true ∧ Memory.wf (placed 0x00508093).mem = true := by decide +kernel

/-- The placed machine with its agenda empty, and the like of a Lodestar and of a message hart. -/
noncomputable def settled : State := { placed 0x00508093 with agenda := [] }
def lodeTurn : State := { lode with agenda := [] }
def messTurn : State := { mess with agenda := [] }

theorem witness_issues : (∃ t, issues settled 0 0 t) ∧ (∃ t, issues lodeTurn 3888 3888 t) ∧
    (∃ t, issues messTurn 0 3456 t) ∧ freshLine settled 0 0x20000 := by
  refine ⟨?_, ?_, ?_, ?_⟩
  · apply Exists.intro
    refine And.intro (fun h => absurd h (by decide +kernel)) ?_
    rw [if_neg (by decide)]
    exact ⟨by decide +kernel, Or.inr ⟨by decide +kernel, 0, by decide +kernel, by decide +kernel, rfl⟩⟩
  · apply Exists.intro
    refine And.intro (fun h => absurd h (by decide +kernel)) ?_
    rw [if_pos (by decide)]
    exact ⟨rfl, rfl, by decide +kernel⟩
  · apply Exists.intro
    refine And.intro (fun _ r h => ?_) ?_
    · have e : (messTurn.core (coreOf 3456)).running = some ⟨placedMsg messTurn.pkg, 0⟩ := by decide +kernel
      rw [e] at h; cases h; decide
    · rw [if_neg (by decide)]
      exact ⟨by decide +kernel, Or.inl ⟨by decide +kernel, by decide +kernel, by decide +kernel, rfl⟩⟩
  · intro e h
    have n : (settled.core 0).icache = [] := by decide +kernel
    rw [n] at h; cases h

theorem quiet_home : quiet home := by
  intro i h
  have n : home.moves.isEmpty = true := by decide +kernel
  rw [List.isEmpty_iff.mp n] at h; cases h

/-- A step of the device that changes the state moves by itself. -/
theorem auto_moves {s : State} {i : Instr} (hi : i ∈ s.moves) (hn : isNext (exec i s) = true)
    (h : next (exec i s) s ≠ s) : s.autoMove.isSome = true := by
  unfold State.autoMove
  refine List.findSome?_isSome_iff.mpr ⟨i, hi, ?_⟩
  cases e : exec i s <;> simp_all [isNext, next]

theorem witness_turns : (owed 1).runs 0 = true ∧ (owed 1).due 0 = some .deferred ∧ State.reset.runs 3888 = false ∧
    (lode.setHart 3888 { lode.me with park := some .wfi }).idles 3888 = true ∧
    (lode.setHart 3888 { lode.me with park := some .wfi }).due 3888 = none ∧
    home.ready (msgKey 1) = false ∧ (home.core 1).pick (home.readyOf 1) = none ∧
    (queued home).autoMove.isSome = true ∧ home.unitRuns 0 = true ∧ (0 : Nat) < unitCount ∧
    (home.check (home.whoHart 0) .fetch .fetch 4 (home.hart 0).pc) = .ok 0x20000 :=
  ⟨by decide +kernel, by decide +kernel, by decide +kernel, by decide +kernel, by decide +kernel, by decide +kernel,
    by decide +kernel,
    auto_moves (i := .matrixQueueExecute 0) (by decide +kernel) (by decide +kernel)
      (fun e => absurd (congrArg (fun s => (s.core 0).mq.length) e) (by decide +kernel)),
    by decide +kernel, by decide, ok_of (by decide +kernel)⟩

/-- Context 0 stopped for its retirement. -/
def retiring : State := home.setHart 0 { home.me with saveReq := some .retire, stopped := true, ctxState := 2 }

theorem witness_retirement : isCtx 0 = true ∧ (retiring.hart 0).stopped = true ∧
    (retiring.hart 0).saveReq = some .retire ∧ retiring.hasQueued 0 = false ∧ retiring.maySwitch 0 = true ∧
    retiring.eventRoom (clusterOf 0) = true ∧ (retiring.hart 0).deferred = [] ∧ (retiring.hart 0).waiting = [] := by
  decide +kernel

theorem witness_user_instruction : (encodeFields (.addi 1 0 5)).isSome = true ∧ isCtx user.cur = true ∧
    user.me.mode = .u ∧ isNext (exec (.addi 1 0 5) user) = true ∧ (1 : Nat) ≠ user.cur := by decide +kernel

/-- The step runs the placed instruction: `addi x1, x1, 5`. -/
theorem test_step_runs_the_word : ((next (step (placed 0x00508093)) State.reset).hart 0).getX 1 = 5 := by decide +kernel

/-! ### Hypotheses that are met: vectors -/

/-- A state and an instruction meet the hypotheses of `RunsElementByElement`. -/
def elemReady (form : State → Instr → Option ElemForm) (s : State) (i : Instr) : Bool :=
  match form s i with
  | none => false
  | some F => i.wf && s.lanes s.cur ≠ 0 && !s.vill && F.regs.all (fun r => s.me.streamAt r = none) && F.ok &&
      F.late && F.issue.isNone && (elementsTo s s.me.vec.vl).all (fun j => s.me.arrive ≠ some j)
/-- They meet those of the clause in which element j is reached before. -/
def elemStopped (form : State → Instr → Option ElemForm) (s : State) (i : Instr) (j : Nat) : Bool :=
  match form s i with
  | none => false
  | some F => i.wf && s.lanes s.cur ≠ 0 && !s.vill && F.regs.all (fun r => s.me.streamAt r = none) && F.ok &&
      F.late && F.issue.isNone && (elementsTo s s.me.vec.vl).contains j && s.me.arrive = some j &&
      (match runElements F.vm F.op (elementsTo s j) s with
        | .all _ => true
        | _ => false)
/-- They meet those of `RunsWhole`, the effect or the exception as `ends` says. -/
def wholeReady (form : State → Instr → Option WholeForm) (s : State) (i : Instr) (ends : Bool) : Bool :=
  match form s i with
  | none => false
  | some F => i.wf && s.lanes s.cur ≠ 0 && !s.vill && F.regs.all (fun r => s.me.streamAt r = none) && F.ok &&
      s.me.vec.vstart = 0 && (okOf (F.eff s)).isSome == ends

/-- The form is refused at issue. -/
def notOk (form : State → Instr → Option ElemForm) (s : State) (i : Instr) : Bool :=
  match form s i with
  | none => false
  | some F => !F.ok || !F.late

/-- `s` reached before element 2. -/
def reached (s : State) : State := s.setHart 0 { s.hart 0 with arrive := some 2 }

theorem witness_integer_elements : elemReady intForm (lanes home 0x02 4) (.vaddVv 1 2 3 0 0 0) = true ∧
    elemReady intForm (lanes home 0x03 32) (.vdivVx 1 2 3 0 1) = true ∧
    elemStopped intForm (reached (lanes home 0x02 4)) (.vaddVv 1 2 3 0 0 0) 2 = true ∧ home.lanes home.cur = 0 ∧
    (lanes home 0x8000000000000000 0).vill = true := by decide +kernel

theorem witness_floating_elements : elemReady floatForm (lanes home 0x22 4) (.vfaddVv 1 2 3 0 0 0) = true ∧
    elemReady floatForm (lanes home 0x41 4) (.vfexp2 1 2 0 0) = true ∧
    notOk floatForm (lanes home 0x02 4) (.vfaddVv 1 2 3 0 0 0) = true ∧
    elemStopped floatForm (reached (lanes home 0x22 4)) (.vfaddVv 1 2 3 0 0 0) 2 = true := by decide +kernel

theorem witness_compares_moves_conversions :
    elemReady compareForm (lanes home 0x02 4) (.vmseqVv 1 2 3 0 0 0) = true ∧
    elemReady compareForm (lanes home 0x22 4) (.vmflt 1 2 3 0 0 0) = true ∧
    elemReady moveForm (lanes home 0x02 4) (.vslideup 1 2 3 0 0) = true ∧
    elemStopped moveForm (reached (lanes home 0x02 4)) (.vid 1 0) 2 = true ∧
    elemReady convertForm (lanes home 0x22 4) (.vcvt 1 2 2 0 0 0) = true ∧
    elemReady convertForm (lanes home 0x22 4) (.vcvt 4 2 1 4 0 0) = true ∧
    notOk convertForm (lanes home 0x22 4) (.vcvt 4 3 3 1 0 0) = true := by decide +kernel

theorem witness_whole_instructions : wholeReady wholeForm (lanes home 0x02 4) (.vmand 1 2 3 0 0) true = true ∧
    wholeReady wholeForm (lanes home 0x02 4) (.vredsum 1 2 3 0 0 0) true = true ∧
    wholeReady wholeForm ((lanes home 0x02 4).setHart 0 { (lanes home 0x02 4).hart 0 with vec :=
      { ((lanes home 0x02 4).hart 0).vec with vfm := 1, v := ((lanes home 0x02 4).hart 0).vec.v.set 2 1 } }) (.vfchk 2 0)
      false = true := by decide +kernel

end Sys2Proof.Tests

namespace Sys2Proof.Tests

open Sys2Proof Sys2Proof.Machine Sys2Proof.Spec

/-! ### Words -/

/-- The decoder reads the word as the instruction. -/
noncomputable def readsAs (fw : Bool) (e : W32 × Instr) : Bool :=
  match decode fw e.1 with
  | .ok i => decide (i = e.2)
  | .error _ => false

/-- The manual's worked encodings. -/
theorem test_worked_encodings_scalar : ([
    (0x00000073, .ecall), (0x0000100F, .fenceI), (0x00100073, .ebreak), (0x00102573, .csrrs 10 0 1),
    (0x02C5C53B, .divw 10 11 12), (0x12000073, .sfenceVma 0 0), (0x12B50073, .sfenceVma 10 11), (0x10200073, .sret),
    (0x10500073, .wfi), (0x30200073, .mret), (0x06B6752F, .amoadd 10 12 11 1 1 7), (0x140572AF, .lr 5 10 1 0 7),
    (0x1A75732F, .sc 6 10 7 0 1 7), (0x61CC702F, .amoand 0 24 28 0 0 7), (0x6605B60B, .ldaW 12 11 3),
    (0x680E3E8B, .ldaD 29 28 3), (0x6A65B00B, .stlW 11 6 3), (0x6C62B00B, .stlD 5 6 3), (0x6CDF400B, .stlD 30 13 4),
    (0x6212400B, .fenceS 4 1 4), (0x60C5B50B, .wait 10 11 12 3), (0x6002B30B, .wait 6 5 0 3), (0x6405000B, .pub 10)
    ] : List (W32 × Instr)).all (readsAs false) = true := by decide +kernel

theorem test_worked_encodings_vector : ([
    (0x4720B1D7, .vfmaccVv 3 18 1 0 1 1), (0x206F4357, .vfmulVf 6 6 30 0 0), (0x022572D7, .vset 5 10 0x12),
    (0x6001705B, .vmpush 2 0), (0x0089625B, .vcvt 4 8 2 2 0 0), (0x0069645B, .vcvt 8 6 2 2 0 0),
    (0x105E905B, .vmsneVx 0 5 29 0 0), (0xB00033DB, .vid 7 0), (0xB226F05B, .vappend 2 13 0 1),
    (0xE2A3955B, .vmergeVx 10 10 7 0), (0x06B52207, .vlse 4 10 11 2 1), (0x10052107, .vleS 2 10 2),
    (0x08751107, .vlxe 2 7 10 1 0), (0x088631A7, .vsxe 3 8 12 3 0), (0x08C59427, .vsxe 8 12 11 1 0),
    (0x05F32227, .vsse 4 6 31 2 0), (0x000286AB, .mset 13 5), (0x0400102B, .mzero 1), (0x1080802B, .mopa 0 1 1),
    (0x1102102B, .mopa 1 2 4), (0x2003812B, .mrd 2 0 7), (0x3086222B, .mdot 4 2 8 12), (0x4010002B, .vmaxexp 1 0),
    (0x420580AB, .vqst 1 11 0), (0x4205B0AB, .vqst2 1 11 1), (0x5006002B, .vqsave 12), (0x5800002B, .vqclr)
    ] : List (W32 × Instr)).all (readsAs false) = true := by decide +kernel

theorem test_worked_encodings_parallel : ([
    (0x0085027B, .vtex 4 8 10 0), (0x1085027B, .vrayq 4 8 10 0), (0x1285827B, .vrayq 4 8 11 1),
    (0x2020027B, .vsobol 4 2 0 0), (0x2062817B, .vsobol 2 6 5 0), (0x305601FB, .vvbmin 3 5 12 0),
    (0x402300FB, .vblend 1 2 6 0), (0x8080027B, .rcQ 4 8 0), (0x8480827B, .rcQt 4 8 1 0), (0x8681827B, .rcQt 4 8 3 1),
    (0x0005850B, .taskSpawn 10 11), (0x0202800B, .taskSpawnt 5), (0x0602800B, .taskForkt 5), (0x0805850B, .taskPop 10 11),
    (0x0A05B50B, .taskJoin 10 11 3), (0x0C00000B, .taskExit), (0x2232828B, .gbarMax 5 5 3),
    (0x40C5B50B, .msgSend 10 11 12 3), (0x42C5C00B, .msgSendt 11 12 4), (0x4400000B, .msgDone),
    (0x8075B00B, .aqNotify 11 7 3), (0x80B5200B, .aqNotify 10 11 2), (0x80B5300B, .aqNotify 10 11 3),
    (0x9005B50B, .tcopy 10 11 3), (0x92C5850B, .cmAcq 10 11 12), (0xA025000B, .strmSet 10 2)
    ] : List (W32 × Instr)).all (readsAs false) = true := by decide +kernel

theorem test_worked_encodings_firmware : ([
    (0x0002A07B, .fwSwait 0 5), (0x0005A57B, .fwSwait 10 11), (0x0005C57B, .fwQcbld 10 11), (0x000FC57B, .fwQcbld 10 31),
    (0x00AFD07B, .fwQcbst 31 10), (0x00C5D07B, .fwQcbst 11 12), (0x00C53F7B, .fwDisp 30 10 12),
    (0x00C5B57B, .fwDisp 10 11 12), (0x00C5857B, .fwRing 10 11 12), (0x01948E7B, .fwRing 28 9 25),
    (0x202515FB, .fwBext 11 10 8 2), (0x20B5957B, .fwBext 10 11 8 11)
    ] : List (W32 × Instr)).all (readsAs true) = true := by decide +kernel

/-- Words of spec/opcode_table.json with their operand fields filled, from lui to addw. -/
theorem test_words_lui_to_addw : ([
    (0xA5C845B7, .lui 11 679044),
    (0xA5CD1917, .auipc 18 679121),
    (0xD1E50C93, .addi 25 10 3358),
    (0xD6BAA113, .slti 2 21 3435),
    (0xDB813493, .sltiu 9 2 3512),
    (0xE056C813, .xori 16 13 3589),
    (0xE52C6B93, .ori 23 24 3666),
    (0xE9F2FF13, .andi 30 5 3743),
    (0x03881393, .slli 7 16 56),
    (0x03DDD713, .srli 14 27 61),
    (0x40245A93, .srai 21 8 2),
    (0xFD398E1B, .addiw 28 19 4051),
    (0x00CF129B, .slliw 5 30 12),
    (0x0115D61B, .srliw 12 11 17),
    (0x416B599B, .sraiw 19 22 22),
    (0x01E18D33, .add 26 3 30),
    (0x405701B3, .sub 3 14 5),
    (0x00AC9533, .sll 10 25 10),
    (0x00F328B3, .slt 17 6 15),
    (0x0148BC33, .sltu 24 17 20),
    (0x019E40B3, .xor 1 28 25),
    (0x01E4D433, .srl 8 9 30),
    (0x405A57B3, .sra 15 20 5),
    (0x00A0EB33, .or 22 1 10),
    (0x00F67EB3, .and 29 12 15),
    (0x034B8333, .mul 6 23 20),
    (0x039216B3, .mulh 13 4 25),
    (0x03E7AA33, .mulhsu 20 15 30),
    (0x025D3DB3, .mulhu 27 26 5),
    (0x02A3C233, .div 4 7 10),
    (0x02F955B3, .divu 11 18 15),
    (0x034EE933, .rem 18 29 20),
    (0x03957CB3, .remu 25 10 25),
    (0x01EA813B, .addw 2 21 30)] : List (W32 × Instr)).all (readsAs false) = true := by decide +kernel

/-- Words of spec/opcode_table.json with their operand fields filled, from subw to csrrc. -/
theorem test_words_subw_to_csrrc : ([
    (0x405104BB, .subw 9 2 5),
    (0x00A6983B, .sllw 16 13 10),
    (0x00FC5BBB, .srlw 23 24 15),
    (0x4142DF3B, .sraw 30 5 20),
    (0x039803BB, .mulw 7 16 25),
    (0x03EDC73B, .divw 14 27 30),
    (0x02545ABB, .divuw 21 8 5),
    (0x02A9EE3B, .remw 28 19 10),
    (0x02FF72BB, .remuw 5 30 15),
    (0xE74588E3, .beq 11 20 3896),
    (0x819B1A63, .bne 22 25 2058),
    (0x1BE1CBE3, .blt 3 30 1243),
    (0xB4575D63, .bge 14 5 2477),
    (0x4EACEEE3, .bltu 25 10 1662),
    (0xE8F37063, .bgeu 6 15 2880),
    (0xA6B41C6F, .jal 24 658741),
    (0xB8EE00E7, .jalr 1 28 2958),
    (0xBDB48403, .lb 8 9 3035),
    (0xC28A1783, .lh 15 20 3112),
    (0xC750AB03, .lw 22 1 3189),
    (0xCC263E83, .ld 29 12 3266),
    (0xD0FBC303, .lbu 6 23 3343),
    (0xD5C25683, .lhu 13 4 3420),
    (0xDA97EA03, .lwu 20 15 3497),
    (0xEC5D0F23, .sb 26 5 3806),
    (0x86A390A3, .sh 7 10 2145),
    (0x20F92223, .sw 18 15 516),
    (0xBB4EB3A3, .sd 29 20 2983),
    (0x0320000F, .fence 3 2),
    (0x0100000F, .pause),
    (0x0000100F, .fenceI),
    (0x5C169873, .csrrw 16 13 1473),
    (0x5C1C2BF3, .csrrs 23 24 1473),
    (0x5C12BF73, .csrrc 30 5 1473)] : List (W32 × Instr)).all (readsAs false) = true := by decide +kernel

/-- Words of spec/opcode_table.json with their operand fields filled, from csrrwi to vmaccVv. -/
theorem test_words_csrrwi_to_vmaccVv : ([
    (0x5C1C53F3, .csrrwi 7 24 1473),
    (0x5C12E773, .csrrsi 14 5 1473),
    (0x5C197AF3, .csrrci 21 18 1473),
    (0x00000073, .ecall),
    (0x00100073, .ebreak),
    (0x10200073, .sret),
    (0x30200073, .mret),
    (0x10500073, .wfi),
    (0x12570073, .sfenceVma 14 5),
    (0x100CA52F, .lr 10 25 0 0 2),
    (0x1EF328AF, .sc 17 6 15 1 1 2),
    (0x0948AC2F, .amoswap 24 17 20 0 0 2),
    (0x079E20AF, .amoadd 1 28 25 1 1 2),
    (0x21E4A42F, .amoxor 8 9 30 0 0 2),
    (0x665A27AF, .amoand 15 20 5 1 1 2),
    (0x44A0AB2F, .amoor 22 1 10 1 0 2),
    (0x82F62EAF, .amomin 29 12 15 0 1 2),
    (0xA54BA32F, .amomax 6 23 20 1 0 2),
    (0xC39226AF, .amominu 13 4 25 0 1 2),
    (0xE5E7AA2F, .amomaxu 20 15 30 1 0 2),
    (0x022D7DD7, .vset 27 26 18),
    (0x10A3F257, .vsetv 4 7 10),
    (0x0B5D05D7, .vaddVv 11 21 26 1 0 1),
    (0x018E9957, .vaddVx 18 24 29 0 0),
    (0x03B82CD7, .vaddVi 25 27 16 0 1),
    (0x1DE28157, .vsubVv 2 30 5 1 1 0),
    (0x1A3114D7, .vsubVx 9 3 2 1 1),
    (0x20608857, .vmulVv 16 6 1 0 0 0),
    (0x229C1BD7, .vmulVx 23 9 24 0 1),
    (0x38CD8F57, .vmulhVv 30 12 27 1 0 0),
    (0x3AF813D7, .vmulhVx 7 15 16 1 1),
    (0x452B8757, .vmulhuVv 14 18 23 0 1 0),
    (0x43641AD7, .vmulhuVx 21 22 8 0 1),
    (0x59898E57, .vmaccVv 28 24 19 1 0 0)] : List (W32 × Instr)).all (readsAs false) = true := by decide +kernel

/-- Words of spec/opcode_table.json with their operand fields filled, from vmaccVx to vfdivVv. -/
theorem test_words_vmaccVx_to_vfdivVv : ([
    (0x5BBF12D7, .vmaccVx 5 27 30 1 1),
    (0x61E78657, .vandVv 12 30 15 0 0 0),
    (0x623B19D7, .vandVx 19 3 22 0 1),
    (0x686CAD57, .vandVi 26 6 25 1 0),
    (0x7E9C01D7, .vorVv 3 9 24 1 1 1),
    (0x70CC9557, .vorVx 10 12 25 0 0),
    (0x72F028D7, .vorVi 17 15 0 0 1),
    (0x89218C57, .vxorVv 24 18 3 1 0 0),
    (0x8B5E10D7, .vxorVx 1 21 28 1 1),
    (0x8183A457, .vxorVi 8 24 7 0 0),
    (0x97B607D7, .vsllVv 15 27 12 0 1 1),
    (0x99E09B57, .vsllVx 22 30 1 1 0),
    (0x9A372ED7, .vsllVi 29 3 14 1 1),
    (0xA07A8357, .vsrlVv 6 7 21 0 0 0),
    (0xA29216D7, .vsrlVx 13 9 4 0 1),
    (0xA8CAAA57, .vsrlVi 20 12 21 1 0),
    (0xBEFF0DD7, .vsraVv 27 15 30 1 1 1),
    (0xB1239257, .vsraVx 4 18 7 0 0),
    (0xB35E25D7, .vsraVi 11 21 28 0 1),
    (0xC9848957, .vminVv 18 24 9 1 0 0),
    (0xCBB51CD7, .vminVx 25 27 10 1 1),
    (0xD5E28157, .vmaxVv 2 30 5 0 1 0),
    (0xD23114D7, .vmaxVx 9 3 2 0 1),
    (0xE8608857, .vminuVv 16 6 1 1 0 0),
    (0xEA9C1BD7, .vminuVx 23 9 24 1 1),
    (0xF0CD8F57, .vmaxuVv 30 12 27 0 0 0),
    (0xF2F813D7, .vmaxuVx 7 15 16 0 1),
    (0x0D2BB757, .vfaddVv 14 18 23 1 1 0),
    (0x0B644AD7, .vfaddVf 21 22 8 1 1),
    (0x1189BE57, .vfsubVv 28 24 19 0 0 0),
    (0x13BF42D7, .vfsubVf 5 27 30 0 1),
    (0x29E7B657, .vfmulVv 12 30 15 1 0 0),
    (0x2A3B49D7, .vfmulVf 19 3 22 1 1),
    (0x3465BD57, .vfdivVv 26 6 11 0 1 0)] : List (W32 × Instr)).all (readsAs false) = true := by decide +kernel

/-- Words of spec/opcode_table.json with their operand fields filled, from vfdivVf to vmsleuVx. -/
theorem test_words_vfdivVf_to_vmsleuVx : ([
    (0x329741D7, .vfdivVf 3 9 14 0 1),
    (0x48C3B557, .vfmaccVv 10 12 7 1 0 0),
    (0x4AF348D7, .vfmaccVf 17 15 6 1 1),
    (0x5121BC57, .vfnmaccVv 24 18 3 0 0 0),
    (0x535E40D7, .vfnmaccVf 1 21 28 0 1),
    (0x6D8EB457, .vfmsacVv 8 24 29 1 1 0),
    (0x6BBA47D7, .vfmsacVf 15 27 20 1 1),
    (0x71ECBB57, .vfminVv 22 30 25 0 0 0),
    (0x72364ED7, .vfminVf 29 3 12 0 1),
    (0x887AB357, .vfmaxVv 6 7 21 1 0 0),
    (0x8A9246D7, .vfmaxVf 13 9 4 1 1),
    (0x94C8BA57, .vfsgnjVv 20 12 17 0 1 0),
    (0x92FD4DD7, .vfsgnjVf 27 15 26 0 1),
    (0xA926B257, .vfsgnjnVv 4 18 13 1 0 0),
    (0xAB5945D7, .vfsgnjnVf 11 21 18 1 1),
    (0xB184B957, .vfsgnjxVv 18 24 9 0 0 0),
    (0xB3B54CD7, .vfsgnjxVf 25 27 10 0 1),
    (0xC9E03157, .vfsqrt 2 30 1 0),
    (0xDA3034D7, .vfclass 9 3 1 1),
    (0x0060885B, .vmseqVv 16 6 1 0 0 0),
    (0x029C1BDB, .vmseqVx 23 9 24 0 1),
    (0x08CEAF5B, .vmseqVi 30 12 29 1 0),
    (0x1EF503DB, .vmsneVv 7 15 10 1 1 1),
    (0x112D975B, .vmsneVx 14 18 27 0 0),
    (0x13622ADB, .vmsneVi 21 22 4 0 1),
    (0x29898E5B, .vmsltVv 28 24 19 1 0 0),
    (0x2BBF12DB, .vmsltVx 5 27 30 1 1),
    (0x31E7865B, .vmsltuVv 12 30 15 0 0 0),
    (0x323B19DB, .vmsltuVx 19 3 22 0 1),
    (0x4C658D5B, .vmsleVv 26 6 11 1 1 0),
    (0x4A9711DB, .vmsleVx 3 9 14 1 1),
    (0x40CFA55B, .vmsleVi 10 12 31 0 0),
    (0x52FA08DB, .vmsleuVv 17 15 20 0 0 1),
    (0x59289C5B, .vmsleuVx 24 18 17 1 0)] : List (W32 × Instr)).all (readsAs false) = true := by decide +kernel

/-- Words of spec/opcode_table.json with their operand fields filled, from vmsleuVi to vcpop. -/
theorem test_words_vmsleuVi_to_vcpop : ([
    (0x5B5320DB, .vmsleuVi 1 21 6 1 1),
    (0x658E845B, .vsaddVv 8 24 29 0 1 0),
    (0x63BA17DB, .vsaddVx 15 27 20 0 1),
    (0x69E6AB5B, .vsaddVi 22 30 13 1 0),
    (0x7A340EDB, .vsadduVv 29 3 8 1 0 1),
    (0x707B935B, .vsadduVx 6 7 23 0 0),
    (0x729A26DB, .vsadduVi 13 9 20 0 1),
    (0x8CC88A5B, .vssubVv 20 12 17 1 1 0),
    (0x8AFD1DDB, .vssubVx 27 15 26 1 1),
    (0x9126825B, .vssubuVv 4 18 13 0 0 0),
    (0x935915DB, .vssubuVx 11 21 18 0 1),
    (0xA984895B, .vdivVv 18 24 9 1 0 0),
    (0xABB51CDB, .vdivVx 25 27 10 1 1),
    (0xB5E2815B, .vdivuVv 2 30 5 0 1 0),
    (0xB23114DB, .vdivuVx 9 3 2 0 1),
    (0xC860885B, .vremVv 16 6 1 1 0 0),
    (0xCA9C1BDB, .vremVx 23 9 24 1 1),
    (0xD0CD8F5B, .vremuVv 30 12 27 0 0 0),
    (0xD2F813DB, .vremuVx 7 15 16 0 1),
    (0xEF2B875B, .vmergeVv 14 18 23 1 1),
    (0xEB641ADB, .vmergeVx 21 22 8 1),
    (0xE38BAE5B, .vmergeVi 28 24 23 0),
    (0xF00102DB, .vmvVv 5 2 0),
    (0xF005965B, .vmvVx 12 11),
    (0xF00F29DB, .vmvVi 19 30),
    (0x0465BD5B, .vmfeq 26 6 11 0 1 0),
    (0x169C31DB, .vmfne 3 9 24 0 1 1),
    (0x28C3B55B, .vmflt 10 12 7 1 0 0),
    (0x3AFA38DB, .vmfle 17 15 20 1 0 1),
    (0x4121BC5B, .vmand 24 18 3 0 0),
    (0x555830DB, .vmor 1 21 16 0 1),
    (0x6D8EB45B, .vmxor 8 24 29 1 1),
    (0x7DB637DB, .vmandn 15 27 12 1 1),
    (0x81E03B5B, .vcpop 22 30 0)] : List (W32 × Instr)).all (readsAs false) = true := by decide +kernel

/-- Words of spec/opcode_table.json with their operand fields filled, from vfirst to vfmclr. -/
theorem test_words_vfirst_to_vfmclr : ([
    (0x90303EDB, .vfirst 29 3 0),
    (0xA870335B, .viota 6 7 1 0),
    (0xB20036DB, .vid 13 1),
    (0x04C8CA5B, .vredsum 20 12 17 0 1 0),
    (0x16FF4DDB, .vredmax 27 15 30 0 1 1),
    (0x2926C25B, .vredmin 4 18 13 1 0 0),
    (0x3B5D45DB, .vredmaxu 11 21 26 1 0 1),
    (0x4184C95B, .vredminu 18 24 9 0 0 0),
    (0x57BB4CDB, .vredand 25 27 22 0 1 1),
    (0x6DE2C15B, .vredor 2 30 5 1 1 0),
    (0x7E3944DB, .vredxor 9 3 18 1 1 1),
    (0x8060C85B, .vfredsum 16 6 1 0 0 0),
    (0x92974BDB, .vfredmax 23 9 14 0 0 1),
    (0xA8CDCF5B, .vfredmin 30 12 27 1 0 0),
    (0x0AF853DB, .vslideup 7 15 16 1 1),
    (0x112DD75B, .vslidedown 14 18 27 0 0),
    (0x23645ADB, .vslide1up 21 22 8 0 1),
    (0x3989DE5B, .vslide1down 28 24 19 1 0),
    (0x4BB152DB, .vrgather 5 27 2 1 0 1),
    (0x51E7D65B, .vcompress 12 30 15 0 0),
    (0x603059DB, .vmvxs 19 3 0),
    (0x7001DD5B, .vmvsx 26 3),
    (0x0A89625B, .vcvt 4 8 2 2 1 1),
    (0x00C0755B, .vfrsqrt 10 12 0 0),
    (0x12F078DB, .vfrcp 17 15 0 1),
    (0x29207C5B, .vfexp2 24 18 1 0),
    (0x3B5070DB, .vflog2 1 21 1 1),
    (0x4180745B, .vfsin 8 24 0 0),
    (0x53B077DB, .vfcos 15 27 0 1),
    (0x600CF05B, .vmpush 25 0),
    (0x7000705B, .vmelse),
    (0x8000705B, .vmpop),
    (0x9402705B, .vfchk 4 1),
    (0xA000705B, .vfmclr)] : List (W32 × Instr)).all (readsAs false) = true := by decide +kernel

/-- Words of spec/opcode_table.json with their operand fields filled, from vappend to taskPop. -/
theorem test_words_vappend_to_taskPop : ([
    (0xBAFD705B, .vappend 15 26 1 1),
    (0x0003A207, .vle 4 7 2 0),
    (0x10092587, .vleS 11 18 2),
    (0x054EA907, .vlse 18 29 20 2 0),
    (0x15952C87, .vlseS 25 10 25 2),
    (0x09EAA107, .vlxe 2 30 21 2 0),
    (0x18312487, .vlxeS 9 3 2 2),
    (0x0006A827, .vse 16 13 2 0),
    (0x06FC2BA7, .vsse 23 24 15 2 1),
    (0x08C2AF27, .vsxe 30 12 5 2 0),
    (0x000803AB, .mset 7 16),
    (0x020D802B, .mrel 27),
    (0x0400102B, .mzero 1),
    (0x1009802B, .mopa 0 0 19),
    (0x1281102B, .mops 1 1 2),
    (0x1507802B, .mopai 0 2 15),
    (0x200B19AB, .mrd 19 1 22),
    (0x2261802B, .mwr 0 6 3),
    (0x240711AB, .mrdc 3 1 14),
    (0x26CC802B, .mwrc 0 12 25),
    (0x30FA08AB, .mdot 17 0 15 20),
    (0x4120002B, .vmaxexp 18 0),
    (0x420E10AB, .vqst 1 28 1),
    (0x4204A42B, .vqst2 8 9 0),
    (0x500A002B, .vqsave 20),
    (0x5200802B, .vqload 1),
    (0x5406002B, .vscsave 12),
    (0x560B802B, .vscload 23),
    (0x5800002B, .vqclr),
    (0x00078A0B, .taskSpawn 20 15),
    (0x020D000B, .taskSpawnt 26),
    (0x0403820B, .taskFork 4 7),
    (0x0609000B, .taskForkt 18),
    (0x080E890B, .taskPop 18 29)] : List (W32 × Instr)).all (readsAs false) = true := by decide +kernel

/-- Words of spec/opcode_table.json with their operand fields filled, from taskJoin to rcQt. -/
theorem test_words_taskJoin_to_rcQt : ([
    (0x0A053C8B, .taskJoin 25 10 3),
    (0x0C00000B, .taskExit),
    (0x2051048B, .gbarArrive 9 2 5),
    (0x2266880B, .gbarMax 16 13 6),
    (0x247C0B8B, .gbarMin 23 24 7),
    (0x26828F0B, .gbarAdd 30 5 8),
    (0x2808038B, .gbarOr 7 16 0),
    (0x41ED870B, .msgSend 14 27 30 0),
    (0x4254100B, .msgSendt 8 5 1),
    (0x4400000B, .msgDone),
    (0x60FF328B, .wait 5 30 15 3),
    (0x6251C00B, .fenceS 4 5 3),
    (0x640B000B, .pub 22),
    (0x66019D0B, .ldaW 26 3 1),
    (0x6807218B, .ldaD 3 14 2),
    (0x6AACB00B, .stlW 25 10 3),
    (0x6CF3400B, .stlD 6 15 4),
    (0x8148800B, .aqNotify 17 20 0),
    (0x900E108B, .tcopy 1 28 1),
    (0x93E4840B, .cmAcq 8 9 30),
    (0xA02A000B, .strmSet 20 2),
    (0x0080827B, .vtex 4 8 1 0),
    (0x1286027B, .vrayq 4 8 12 1),
    (0x148B827B, .vrayo 4 8 23 0),
    (0x2282027B, .vsobol 4 8 4 1),
    (0x3087827B, .vvbmin 4 8 15 0),
    (0x428D027B, .vblend 4 8 26 1),
    (0x8080027B, .rcQ 4 8 0),
    (0x868D027B, .rcQt 4 8 26 1)] : List (W32 × Instr)).all (readsAs false) = true := by decide +kernel

/-- The words of Xlfw. -/
theorem test_words_of_the_firmware_cores : ([
    (0x014E897B, .fwRing 18 29 20),
    (0x20B51CFB, .fwBext 25 10 8 11),
    (0x000AA17B, .fwSwait 2 21),
    (0x005134FB, .fwDisp 9 2 5),
    (0x0006C87B, .fwQcbld 16 13),
    (0x00FC507B, .fwQcbst 24 15)] : List (W32 × Instr)).all (readsAs true) = true := by decide +kernel



/-! ### Ill-formed terms -/

/-- One ill-formed term for each check of `Instr.wf`; the same check lets its neighbour pass. -/
theorem test_ill_formed_terms : ([
    (.fence 1 0, .fence 1 1), (.vle 1 2 6 0, .vle 1 2 5 0), (.vleS 1 2 6, .vleS 1 2 5), (.vse 1 2 7 0, .vse 1 2 4 0),
    (.vlse 1 2 3 4 0, .vlse 1 2 3 3 0), (.vlseS 1 2 3 5, .vlseS 1 2 3 0), (.vsse 1 2 3 4 0, .vsse 1 2 3 3 0),
    (.vsxe 1 2 3 4 0, .vsxe 1 1 3 3 0), (.vlxe 1 1 2 3 0, .vlxe 1 2 1 3 0), (.vlxeS 1 1 2 3, .vlxeS 1 2 1 3),
    (.vslideup 1 1 2 0 0, .vslideup 1 2 1 0 0), (.vslide1up 1 1 2 0 0, .vslide1up 1 2 1 0 0), (.viota 1 1 0 0, .viota 1 2 0 0),
    (.vrgather 1 2 1 0 0 0, .vrgather 1 2 2 0 0 0), (.vrgather 1 1 2 0 0 0, .vrgather 1 3 2 0 0 0),
    (.vcompress 1 2 1 0 0, .vcompress 1 2 2 0 0), (.vcvt 1 2 2 1 0 0, .vcvt 1 2 3 1 0 0),
    (.taskJoin 1 2 5, .taskJoin 1 2 4), (.msgSend 1 2 3 5, .msgSend 1 2 3 4), (.msgSendt 1 2 7, .msgSendt 1 2 0),
    (.wait 1 2 3 5, .wait 1 2 3 4), (.ldaW 1 2 5, .ldaW 1 2 4), (.stlD 1 2 6, .stlD 1 2 4), (.aqNotify 1 2 5, .aqNotify 1 2 4),
    (.tcopy 1 2 5, .tcopy 1 2 4), (.fenceS 5 1 1, .fenceS 4 1 1), (.fenceS 0 0 1, .fenceS 0 1 1), (.fenceS 0 1 0, .fenceS 0 1 8)
    ] : List (Instr × Instr)).all (fun e => !e.1.wf && e.2.wf) = true := by decide +kernel

theorem test_ill_formed_groups : ([
    (.vtex 4 6 10 0, .vtex 4 8 10 0), (.vtex 2 8 10 0, .vtex 12 8 10 0), (.vtex 8 8 10 0, .vtex 8 4 10 0),
    (.vtex 0 8 10 1, .vtex 0 8 10 0), (.vrayq 12 8 1 0, .vrayq 4 8 1 0), (.vrayq 4 12 1 0, .vrayq 4 16 1 0),
    (.vrayo 15 8 1 0, .vrayo 7 8 1 0), (.vsobol 1 3 5 0, .vsobol 1 2 5 0), (.vsobol 3 2 5 0, .vsobol 4 2 5 0),
    (.vvbmin 5 5 1 0, .vvbmin 4 5 1 0), (.vblend 0 5 1 1, .vblend 0 5 1 0), (.rcQ 8 8 0, .rcQ 4 8 0),
    (.rcQt 4 8 15 0, .rcQt 4 8 16 0), (.rcQt 4 8 7 0, .rcQt 4 8 3 0), (.fwBext 1 2 1 63, .fwBext 1 2 0 63)
    ] : List (Instr × Instr)).all (fun e => !e.1.wf && e.2.wf) = true := by decide +kernel

theorem test_ill_formed_events : ([
    (.messageRun 432, .messageRun 431), (.lmfmtWrite 0 16 0, .lmfmtWrite 0 15 0), (.streamRefill 0 4 0, .streamRefill 0 3 0),
    (.interrupt 3944, .interrupt 3943), (.lsevt0Pop 48, .lsevt0Pop 47), (.watchdogExpiry 8, .watchdogExpiry 7),
    (.triangle 24 0, .triangle 23 7), (.fwsmapUnbind 0 64, .fwsmapUnbind 1 63), (.hostKick 2 0 0, .hostKick 1 0 0),
    (.flitFailure 16 0 false, .flitFailure 15 7 false), (.correctableError 10, .correctableError 9),
    (.linkRetrain 0 8, .linkRetrain 15 7), (.keyUpdate 0 2, .keyUpdate 15 1), (.coreThrottle 4 0, .coreThrottle 3 0)
    ] : List (Instr × Instr)).all (fun e => !e.1.wf && e.2.wf) = true := by decide +kernel

/-! ### The manual's worked examples -/

/-- R169's example: the blend of two pixels. -/
theorem test_blend_example : blendPixel 0x0F071076 0x803264C8 0xFF64FF00 = 0xFF4BB164 := by decide +kernel

/-- The worked row of "A worked row": element by element, code and residue, first and second order. -/
theorem test_quantised_row :
    (let run (second : Bool) (l : List FVal) := (l.foldl (fun (a : List Nat × W32 × W32) x =>
        let r := quantStep .fp4 0 second x a.2.1 a.2.2 127
        (a.1 ++ [r.1.toNat], r.2.2.1, r.2.2.2)) ([], 0, 0))
     let row : List FVal := [0x3FA00000, 0x40280000, 0x3F400000, 0x40A00000, 0x40580000, 0x3F000000].map
        ((Fmt.ieee fp32).decode false)
     run false row = ([2, 5, 1, 7, 4, 2], 0, 0x3F000000) ∧
     run true row = ([2, 5, 2, 6, 6, 2], 0xBE000000, 0x3EC00000)) := by decide +kernel

/-- The queue of R247's table: lg 4, `aqhead` 10, `aqtail` 20. -/
def tableQueue : State := State.reset.setAgent 0 (({} : Agent).setQ 0 { lg := 4, head := 10, tail := 20, state := 1, en := true })
/-- The cause of a notify of the tail, or none with the new tail. -/
def notifyOf (v : Word) : Option (BitVec 8) × Word :=
  match tableQueue.notifyCheck 0 0 v with
  | .error c => (some c, 0)
  | .ok t => (none, ((t.agent 0).q 0).tail)
theorem test_notify_table : notifyOf 20 = (none, 20) ∧ notifyOf 26 = (none, 26) ∧ notifyOf 27 = (some 0x58, 0) ∧
    notifyOf 18 = (some 0x59, 0) := by decide +kernel

/-- The walk of "A walk, worked": its three entries, the last as given. -/
def walked (leaf : Nat) : State :=
  dword (dword (dword home 0x1000000 0x400401) 0x1001800 0x400801) 0x1002488 leaf
/-- What it answers in a mode for a kind of access. -/
def walkOf (leaf : Nat) (md : Mode) (acc : Acc) : Option Nat :=
  let w := home.who
  match (walked leaf).walk { w with tr := { w.tr with atp := 0x9000500000001000, mode := md } } acc 0x4012345678 with
  | .ok f => some (f.pa 0x4012345678)
  | .error _ => none
theorem test_walk_example : walkOf 0x4000000D7 .u .store = some 0x1000145678 ∧ walkOf 0x4000000D7 .s .store = none ∧
    walkOf 0x400000057 .u .store = none ∧ walkOf 0x400000057 .u .load = some 0x1000145678 ∧
    walkOf 0x4000004D7 .u .load = none := by decide +kernel

end Sys2Proof.Tests

namespace Sys2Proof.Tests

open Sys2Proof Sys2Proof.Machine Sys2Proof.Spec

/-! ### Hypotheses that are met: configuration, memory, masks and work vectors -/

/-- `s` with the vector state of context 0 given. -/
def vec (s : State) (f : VecState → VecState) : State := s.setHart 0 { s.hart 0 with vec := f (s.hart 0).vec }

theorem witness_configuration : vsetForm (lanes home 0x02 4) (.vset 1 2 0x12) = some (1, 2, 0x22) ∧
    (lanes home 0x02 4).lanes 0 ≠ 0 ∧ Spec.legalType 0x22 ∧ ¬ Spec.legalType 0x23 ∧ home.lanes home.cur = 0 ∧
    vsetForm (regs (lanes home 0x02 4) 0 0 0x80 0) (.vsetv 1 2 3) = some (1, 2, 0x80) ∧ Spec.legalType 0x80 := by
  refine ⟨by decide +kernel, by decide +kernel, ?_, ?_, by decide +kernel, by decide +kernel, ?_⟩ <;>
    (unfold Spec.legalType; decide)

theorem witness_elements_apart : (31 : Nat) < 32 ∧ 0 < (64 : Nat) ∧ (255 + 1) * 64 ≤ 16384 ∧ (4095 + 1) * 4 ≤ 16384 := by decide

theorem witness_vector_memory :
    elemReady memForm (lanes home 0x02 4) (.vle 1 0 2 0) = true ∧ elemReady memForm (lanes home 0x00 4) (.vse 1 0 4 0) = true ∧
    elemReady memForm (lanes home 0x02 4) (.vlxeS 1 2 0 2) = true ∧
    elemStopped memForm (reached (regs (lanes home 0x02 4) 0x3000 0 0 0)) (.vle 1 1 2 0) 2 = true := by decide +kernel

/-- Four lanes and 32-bit elements. -/
def typed : State := lanes home 0x02 4

theorem witness_element_moves :
    typed.checkElem .load (typed.bankOk typed.who (elementAt 0x3000 32 0)) (elementAt 0x3000 32 0) =
      .ok [0x3000, 0x3001, 0x3002, 0x3003] ∧ typed.bankFmt typed.who 0x3000 = 0 ∧
    typed.checkElem .store (typed.bankOk typed.who (elementAt 0x3000 32 1)) (elementAt 0x3000 32 1) =
      .ok [0x3004, 0x3005, 0x3006, 0x3007] ∧
    (errOf (typed.checkElem .load (typed.bankOk typed.who (elementAt 0x40000000 32 0)) (elementAt 0x40000000 32 0))).isSome =
      true ∧ typed.windowFull 0x3004 = false ∧ 8 ≤ (elementAt 0x3000 32 1).width ∧ Memory.wf typed.mem = true :=
  ⟨ok_of (by decide +kernel), by decide +kernel, ok_of (by decide +kernel), by decide +kernel⟩

/-- Context 0 with n masks on chip and k of them spilled, at 0x3000. -/
def masked (n k : Nat) : State :=
  vec (lanes home 0x02 4) (fun v => { v with mstack := List.replicate n 1, spilled := k, vmsp := 0x3000 + BitVec.ofNat 64 (256 * k) })

/-- The same with the stack at an address that no table maps. -/
def unmapped (n k : Nat) : State := vec (masked n k) (fun v => { v with vmsp := 0x40001000 })

theorem witness_mask_stack : vecReady (masked 0 0) [0, 2] ∧ vecReady (masked 16 0) [0, 2] ∧
    (masked 16 0).checkSpan .store 256 (masked 16 0).me.vec.vmsp = .ok 0x3000 ∧
    (masked 0 1).checkSpan .load 256 ((masked 0 1).me.vec.vmsp - 256) = .ok 0x3000 ∧
    (masked 0 0).me.vec.vstart = 0 ∧
    (masked 15 0).me.vec.mstack.length < 16 ∧ 16 ≤ (masked 16 65535).me.vec.mstack.length ∧
    65535 ≤ (masked 16 65535).me.vec.spilled ∧ (masked 16 65534).me.vec.spilled < 65535 ∧
    (masked 16 0).me.vec.mstack = List.replicate 15 1 ++ [1] ∧ (List.replicate 15 (1 : BitVec 2048)).length = 15 ∧
    (masked 16 0).overfull = false ∧ (masked 16 0).linesFit (linesOf (keptAt (masked 16 0) 0x3000) 256) = true ∧
    Memory.wf (masked 16 0).mem = true ∧ (masked 1 0).me.vec.mstack = [1] ∧ (masked 0 0).me.vec.mstack = [] ∧
    (masked 0 1).me.vec.spilled ≠ 0 ∧
    (errOf ((unmapped 16 0).checkSpan .store 256 (unmapped 16 0).me.vec.vmsp)).isSome = true ∧
    (errOf ((unmapped 0 1).checkSpan .load 256 ((unmapped 0 1).me.vec.vmsp - 256))).isSome = true :=
  ⟨⟨by decide +kernel, by decide +kernel, by decide +kernel⟩, ⟨by decide +kernel, by decide +kernel, by decide +kernel⟩,
    ok_of (by decide +kernel), ok_of (by decide +kernel), by decide +kernel⟩

/-- A work vector at 0x3000 of capacity n with its elements at 0x4000, and its address in `x1`; `x2` is misaligned. -/
def workVec (n : Nat) : State := dword (dword (regs (lanes home 0x02 4) 0x3000 0x3010 0 0) 0x3008 n) 0x3010 0x4000
/-- What an append to it loses, and the first address that fails, where its state needs no room that is missing. -/
def appends (s : State) : Option (Nat × Option Word) :=
  let c := s.cache s.who .amo 0x3000
  let word (k : Nat) : Nat := bytesAt s (keptAt s (0x3000 + 8 * k)) 8
  let base : Word := BitVec.ofNat 64 (word 2)
  let act := activeList s 0
  let slots := (List.range act.length).map (word 0 + ·)
  let r := (slots.zip act).foldl (fun (x : Append) e => x.element 2 s.sew (word 1) base e.1 e.2)
    ⟨c.writePa c.who 0x3000 (word 0 + act.length) 8, 0, none⟩
  let done := match r.first with
    | none => vdone r.s
    | some va => (vdone r.s).deferOrWait s.cur s.me.hgen ⟨0x12, va⟩ .append
  if c.addsWaiting done = false && done.overfull = false then some (r.lost, r.first) else none

theorem witness_append : vecReady (workVec 9) [2] ∧ (workVec 9).me.vec.vstart = 0 ∧ activeList (workVec 9) 0 ≠ [] ∧
    activeList (workVec 9) 1 = [] ∧ ((workVec 9).x 1).toNat % 32 = 0 ∧ ((workVec 9).x 2).toNat % 32 ≠ 0 ∧
    (workVec 9).check (workVec 9).who .amo .atomic 32 0x3000 = .ok 0x3000 ∧ appends (workVec 9) = some (0, none) ∧
    appends (workVec 2) = some (2, none) ∧ appends (dword (workVec 9) 0x3010 0x3FFFFFF8) = some (2, some 0x40000000) ∧
    (errOf ((workVec 9).check (workVec 9).who .amo .atomic 32 0x40000000)).isSome = true :=
  ⟨⟨by decide +kernel, by decide +kernel, by decide +kernel⟩, by decide +kernel, by decide +kernel, by decide +kernel,
    by decide +kernel, by decide +kernel, ok_of (by decide +kernel), by decide +kernel, by decide +kernel⟩

theorem witness_rounding : (0 : Rat) ≤ 1 / 2 ∧ (0x3C00 : Nat) < 2 ^ fp16.width ∧ (fp16.decode 0x3C00).isNan = false ∧
    (127 : Nat) < 256 ∧ (31 : Nat) < 64 ∧ (15 : Nat) < 16 := by decide +kernel

/-! ### Hypotheses that are met: the matrix engine and the quantiser -/

/-- Context 0 holds both arrays, with MVL 16 and a type. -/
def arrays (vt : Word) : State :=
  let s := (lanes home vt 4).setHart 0 { (lanes home vt 4).hart 0 with mvl := 1 }
  s.setCore 0 { s.core 0 with hold0 := some 0, hold1 := some 0 }
/-- Another hart holds them. -/
def foreign : State := (arrays 0x22).setCore 0 { (arrays 0x22).core 0 with hold0 := some 1, hold1 := some 1 }

theorem witness_matrix_grants : home.lanes home.cur = 0 ∧ matReady (arrays 0x22) [] ∧ (queued (arrays 0x22)).hasQueued 0 = true ∧
    (arrays 0x22).hasQueued 0 = false ∧ ((regs (arrays 0x22) 16 0 0 0).x 1).toNat = 16 ∧
    holder foreign 0 ≠ none ∧ holder foreign 0 ≠ some (slotOf foreign.cur) ∧ ((regs foreign 5 0 0 0).x 1).toNat / 4 % 2 = 1 ∧
    holder (arrays 0x22) 0 = some (slotOf (arrays 0x22).cur) ∧ matReady (queued (arrays 0x22)) [] :=
  ⟨by decide +kernel, ⟨by decide +kernel, by decide +kernel, by decide +kernel⟩, by decide +kernel, by decide +kernel, by decide +kernel,
    by decide +kernel, by decide +kernel, by decide +kernel, by decide +kernel,
    ⟨by decide +kernel, by decide +kernel, by decide +kernel⟩⟩

theorem witness_matrix_updates : (∀ s : State, updateForm s (.mopa 0 1 2) =
      updateForm.update s (tensorType s) .opa 0 1 2) ∧ matReady (arrays 0x31) (2 :: (List.range 8).map (8 * 1 + ·)) ∧
    tensorType (arrays 0x31) ∧ ¬ tensorType (arrays 0x22) ∧ byteType (arrays 0x00) ∧ rowsOf 1 = 16 ∧
    8 * rowsOf (arrays 0x31).me.mvl ≤ (arrays 0x31).vmaxNow ∧ (arrays 0x31).vmaxNow < 8 * 64 ∧ rowsOf 3 = 64 ∧
    holder (arrays 0x31) 0 = some (slotOf (arrays 0x31).cur) ∧ (arrays 0x31).me.mvl ≠ 0 ∧
    holder foreign 1 ≠ some (slotOf foreign.cur) ∧ (arrays 0x31).myCore.mq.length < 32 ∧
    (home.setCore 0 { home.core 0 with mq := List.replicate 32 { slot := 0, array := 0, op := .zero } }).myCore.mq.length = 32 :=
  ⟨fun _ => rfl, ⟨by decide +kernel, by decide +kernel, by decide +kernel⟩, by unfold tensorType; decide +kernel,
    by unfold tensorType; decide +kernel, by unfold byteType; decide +kernel, by decide +kernel⟩

theorem witness_queued_updates : ((queued home).core 0).mq = [{ slot := 0, array := 0, op := .zero }] := by decide +kernel

theorem witness_accumulator_moves : matReady (regs (arrays 0x22) 15 16 0 0) [2] ∧ moveType (arrays 0x22) ∧ ¬ moveType (arrays 0x31) ∧
    holder (arrays 0x22) 1 = some (slotOf (arrays 0x22).cur) ∧ rowsOf (arrays 0x22).me.mvl = 16 ∧
    (regs (arrays 0x22) 15 16 0 0).x 1 = 15 ∧ (regs (arrays 0x22) 15 16 0 0).x 2 = 16 ∧
    (∀ s : State, rowForm s (.mrdc 2 1 1) = some (1, 2, s.x 1, false, fun n => (n, (s.x 1).toNat))) ∧
    matReady (arrays 0x31) [4, 8, 12] ∧ tensorType (arrays 0x31) ∧ ¬ (tensorType (arrays 0x22) ∨ byteType (arrays 0x22)) :=
  ⟨⟨by decide +kernel, by decide +kernel, by decide +kernel⟩, by unfold moveType; decide +kernel, by unfold moveType; decide +kernel,
    by decide +kernel, by decide +kernel, by decide +kernel, by decide +kernel, fun _ => rfl,
    ⟨by decide +kernel, by decide +kernel, by decide +kernel⟩, by unfold tensorType; decide +kernel,
    by unfold tensorType byteType; decide +kernel⟩

/-- Context 0 with the axis word of the quantiser. -/
def axis (s : State) (q : Word) : State := s.setHart 0 { s.hart 0 with quant := { (s.hart 0).quant with qaxis := q } }

theorem witness_block_scales : quantType (lanes home 0x22 4) ∧ ¬ quantType (lanes home 0x02 4) ∧ matReady (lanes home 0x22 4) [2] ∧
    (∀ i < 4, entOf (axis (lanes home 0x22 4) 0x80000).me.quant.qaxis i = 0) ∧
    (∃ i < (lanes home 0x22 64).me.vec.vl, 63 < entOf 62 (i + 2000)) ∧
    (regs (lanes home 0x22 4) 0x3000 0x3040 0x3041 0).x 1 = 0x3000 ∧
    home.checkBlock .store 512 0x3000 = .ok 0x3000 ∧ home.checkBlock .load 64 0x3040 = .ok 0x3040 ∧
    home.checkBlock .load 512 0x3000 = .ok 0x3000 ∧ home.checkBlock .store 64 0x3040 = .ok 0x3040 ∧
    home.overfull = false ∧ (0x3040 : Nat) % 512 ≠ 0 ∧ (0x3041 : Nat) % 64 ≠ 0 :=
  ⟨by unfold quantType; decide +kernel, by unfold quantType; decide +kernel,
    ⟨by decide +kernel, by decide +kernel, by decide +kernel⟩, by decide +kernel, by decide +kernel, by decide +kernel, ok_of (by decide +kernel),
    ok_of (by decide +kernel), ok_of (by decide +kernel), ok_of (by decide +kernel), by decide +kernel⟩

theorem witness_quantising_stores : quantType (axis (lanes home 0x22 4) 0x80000) ∧ (lanes home 0x22 4).me.streamAt 1 = none ∧
    (narrowOf 0x80000).2 = 7 ∧ (lanes home 0x22 4).me.arrive = none ∧ (0x7F : Byte) ≠ 255 ∧
    (FVal.fin false (5 / 4)).isNan = false ∧ (FVal.fin false (5 / 4)).isInf = false ∧
    ((Fmt.ieee fp32).decode false ((0 : W32).setWidth 64)).isNan = false := by
  refine ⟨?_, by decide +kernel, by decide +kernel, by decide +kernel, by decide, by decide +kernel, by decide +kernel, by decide +kernel⟩
  unfold quantType; decide +kernel

/-- Values that a root or a special function rounds: of each function an ordinary one, and one that needs a fixed-point sum. -/
theorem witness_special_values : finiteOf fp32 false 2 ∧ finiteOf fp64 false 2 ∧ finiteOf fp32 true (1 / 2) ∧
    (∀ op ∈ [SfOp.rsqrt, .rcp, .exp2, .log2], sfSpecial op (.fin false 2) = none ∧ decided op (signed false 2)) ∧
    (∀ op ∈ [SfOp.sin, .exp2], sfSpecial op (.fin true (1 / 2)) = none) ∧ decided .sin (signed true (1 / 2)) ∧
    decided .exp2 (signed true (1 / 2)) ∧ bound fp32 1 := by
  refine ⟨⟨0x40000000, by decide, by decide +kernel⟩, ⟨0x4000000000000000, by decide, by decide +kernel⟩,
    ⟨0xBF000000, by decide, by decide +kernel⟩, ?_, by decide +kernel, ?_, ?_, ⟨1, 0, by decide, by decide, by decide +kernel, by decide +kernel⟩⟩
  · intro op h
    simp only [List.mem_cons, List.not_mem_nil, or_false] at h
    rcases h with rfl | rfl | rfl | rfl
    · exact ⟨by decide +kernel, trivial⟩
    · exact ⟨by decide +kernel, trivial⟩
    · exact ⟨by decide +kernel, .inl (by decide +kernel)⟩
    · exact ⟨by decide +kernel, .inl (by decide +kernel)⟩
  · exact .inr (.inl (by decide +kernel))
  · exact .inr (.inr (.inr ⟨256, by decide, by decide +kernel⟩))

end Sys2Proof.Tests

namespace Sys2Proof.Tests

open Sys2Proof Sys2Proof.Machine Sys2Proof.Spec

/-! ### Hypotheses that are met: tasks and gangs -/

/-- A record that keeps R288's limits, of a class. -/
def rec0 (cls : BitVec 8) : TaskRec := { code := 0x20000, cls := cls }
/-- Memory holds at 0x3000 a record that keeps R288's limits and at 0x3040 one that does not. -/
def recorded : State := dword (dword (regs home 0x3000 0x3040 0x3008 0x40000000) 0x3000 0x20000) 0x3040 0x20002
/-- Context 0 at a depth of n of 3. -/
def deep (n : BitVec 8) : State := recorded.setHart 0 { recorded.me with task := { tdepth := n, tmax := 3 } }
/-- The first record of a state's memory that `task.spawn` would read. -/
def readRec (s : State) (a : Word) : Option TaskRec := (okOf (s.loadWords a 8)).map (fun e => TaskRec.ofWords e.1)

theorem witness_placing : placing (.taskFork 1 1) = some (true, some 1, 1) ∧ isCtx home.cur = true ∧
    (recorded.x 3).toNat % 64 ≠ 0 ∧ (errOf (recorded.loadWords 0x40000000 8)).isSome = true ∧
    readRec recorded 0x3000 = some { code := 0x20000 } ∧ legalRecord (rec0 0) ∧
    readRec recorded 0x3040 = some { code := 0x20002 } ∧ ¬ legalRecord { code := 0x20002 } ∧
    (deep 3).me.task.tmax.toNat ≤ (deep 3).me.task.tdepth.toNat ∧
    (deep 2).me.task.tdepth.toNat < (deep 2).me.task.tmax.toNat ∧ ¬ dequeIsFull (home.core 0) ∧
    dequeIsFull { home.core 0 with deque := List.replicate 64 (rec0 0) } ∧
    ¬ dequeIsFull { home.core 0 with deque := List.replicate 64 (rec0 0), dqcap := 1 } := by
  refine ⟨rfl, by decide +kernel, by decide +kernel, by decide +kernel, by decide +kernel, ?_, by decide +kernel, ?_,
    by decide +kernel, by decide +kernel, ?_, ?_, ?_⟩
  · unfold legalRecord; decide +kernel
  · unfold legalRecord; decide +kernel
  · unfold dequeIsFull; decide +kernel
  · unfold dequeIsFull; decide +kernel
  · unfold dequeIsFull; decide +kernel

/-- A record in the inbox of core 0, in its deque, and in the store of its cluster, of the given classes. -/
def offered (i d p : List (BitVec 8)) : State :=
  let s := home.setCore 0 { home.core 0 with inbox := i.map rec0, deque := d.map rec0 }
  s.setCluster 0 { s.cluster 0 with pls := p.map (fun c => ⟨rec0 c, 0⟩) }

/-- Nothing is in the store, so nothing there can be chosen. -/
theorem store_empty (s : State) (k : Nat) (h : (s.cluster (clusterOf k)).pls = []) :
    (∀ j q, ¬ agedCand s k j q) ∧ ∀ j q, ¬ storeCand s k j q :=
  ⟨fun j q c => by have := c.1; simp [h] at this, fun j q c => by have := c.1; simp [h] at this⟩

theorem witness_chosen_inbox : Chosen (offered [3] [3] []) 0 (.inbox 0) (rec0 3) ∧ (offered [3] [3] []).hasQueued 0 = false := by
  have e := store_empty (offered [3] [3] []) 0 (by decide +kernel)
  refine ⟨⟨e.1, ⟨by decide +kernel, by decide +kernel, fun j q h => absurd h (Nat.not_lt_zero j)⟩, ?_, fun j q c => absurd c (e.2 j q)⟩,
    by decide +kernel⟩
  intro q c
  have h : ((offered [3] [3] []).core (coreOf 0)).deque.getLast? = some (rec0 3) := by decide +kernel
  have := c.1
  rw [h] at this
  cases this
  decide

theorem witness_chosen_deque : Chosen (offered [] [2] []) 0 .deque (rec0 2) ∧ (((offered [] [2] []).core 0).spilled = []) := by
  have e := store_empty (offered [] [2] []) 0 (by decide +kernel)
  refine ⟨⟨e.1, ⟨by decide +kernel, by decide +kernel⟩, ?_, fun j q c => absurd c (e.2 j q)⟩, by decide +kernel⟩
  intro j q c
  have h : ((offered [] [2] []).core (coreOf 0)).inbox = [] := by decide +kernel
  have := c.1
  rw [h] at this; simp at this

theorem witness_chosen_store : Chosen (offered [] [] [5]) 0 (.store 0) (rec0 5) := by
  have hp : ((offered [] [] [5]).cluster (clusterOf 0)).pls = [⟨rec0 5, 0⟩] := by decide +kernel
  have hi : ((offered [] [] [5]).core (coreOf 0)).inbox = [] := by decide +kernel
  have hd : ((offered [] [] [5]).core (coreOf 0)).deque = [] := by decide +kernel
  have he : (offered [] [] [5]).eligible 0 (rec0 5) = true := by decide +kernel
  refine Or.inr ⟨?_, ?_, ?_, ?_⟩
  · rintro j q ⟨h1, h2, -⟩
    rw [hp] at h1 h2
    match j with
    | 0 => exact absurd h2.2 (by decide)
    | j + 1 => simp at h1
  · refine ⟨by rw [hp]; rfl, he, ?_, fun j q h => absurd h (Nat.not_lt_zero j)⟩
    intro j q h _
    rw [hp] at h
    match j with
    | 0 => cases h; exact Nat.le_refl _
    | j + 1 => simp at h
  · intro j q c
    have := c.1
    rw [hi] at this; simp at this
  · intro q c
    have := c.1
    rw [hd] at this; simp at this

/-- A record only in the deque of core 1. -/
def stealable : State := home.setCore 1 { home.core 1 with deque := [rec0 2] }

theorem witness_stealing : stealable.victims 0 = [] ++ 1 :: (stealable.victims 0).tail ∧ nothingOwn stealable 0 ∧
    (stealable.core 1).deque = [rec0 2] ∧ stealable.eligible 0 (rec0 2) = true ∧ (rec0 2).flags.getLsbD 0 = false ∧
    nothingOwn home 0 ∧ (∀ v ∈ home.victims 0, (home.core v).deque = [] ∧ (home.core v).spilled = []) ∧
    home.enabledPending 0 = 0 ∧ (notified home).enabledPending 0 ≠ 0 ∧ (notified home).me.globally = false ∧
    (notified user).me.globally = true ∧ (notified user).nextInterrupt 0 = some 0xF0 := by
  have no (s : State) (hi : (s.core (coreOf 0)).inbox = []) (hd : (s.core (coreOf 0)).deque = [])
      (hp : (s.cluster (clusterOf 0)).pls = []) : nothingOwn s 0 :=
    ⟨fun i r c => by have := c.1; rw [hi] at this; simp at this, fun r c => by have := c.1; rw [hd] at this; simp at this,
      (store_empty s 0 hp).2⟩
  exact ⟨by decide +kernel, no _ (by decide +kernel) (by decide +kernel) (by decide +kernel), by decide +kernel, by decide +kernel, by decide,
    no _ (by decide +kernel) (by decide +kernel) (by decide +kernel), by decide +kernel⟩

/-- Core `c` with a spill area of two places at `base`, records on chip and spilled ones, in a state whose partition's pages
are user pages. -/
def spilled (s : State) (c : Nat) (base : Word) (chip : List TaskRec) (l : List Nat) : State :=
  s.setCore c { s.core c with dqbase := base, dqcap := 2, deque := chip, spilled := l }
/-- What refilling a place gives: the record, or the cause and the address. -/
def refilled (s : State) (c n : Nat) : Option TaskRec × Option (BitVec 8 × Word) :=
  match s.readSpilled c n with
  | .ok r => (some r, none)
  | .error t => (none, some (t.cause, t.tval))

/-- A spilled record that comes back, one whose area is unmapped, and a 65th record that spills the oldest. -/
theorem witness_spills :
    refilled (spilled (dword user 0x5000 0x20000) 0 0x5000 [rec0 1] [0]) 0 0 = (some { code := 0x20000 }, none) ∧
    refilled (spilled user 1 0x40000000 [] [1]) 1 1 = (none, some (0x53, 0x40000040)) ∧
    (okOf ((spilled user 0 0x5000 [] []).bump.agentWrites ((spilled user 0 0x5000 [] []).whoDeque 0) 0x5000
      (rec0 1).words)).isSome = true ∧
    (errOf ((spilled user 0 0x40000000 [] []).bump.agentWrites ((spilled user 0 0x40000000 [] []).whoDeque 0) 0x40000000
      (rec0 1).words)).isSome = true ∧
    topOf (spilled (dword user 0x5000 0x20000) 1 0x5000 [rec0 1] [0]) 1 = some { code := 0x20000 } ∧
    (home.setHart 0 { home.me with begun := some (rec0 1) }).me.begun = some (rec0 1) ∧
    (home.setCore 0 { home.core 0 with fenced := true }).runs 0 = false ∧ home.overfull = false ∧
    home.eventRoom 0 = true ∧
    (home.setCluster 0 { home.cluster 0 with evq := List.replicate 256 { kind := 5 } }).eventRoom 0 = false := by decide +kernel

theorem witness_unread : Unread (spilled user 1 0x40000000 [] [1]) 1 1 0x40000040 := by
  refine ⟨?_, ?_⟩
  · have h : refilled (spilled user 1 0x40000000 [] [1]) 1 1 = (none, some (0x53, 0x40000040)) := by decide +kernel
    unfold refilled at h
    split at h
    · cases h
    · next t e =>
      rw [e]
      obtain ⟨c, v⟩ := t
      simp only [Prod.mk.injEq, Option.some.injEq] at h
      obtain ⟨-, rfl, rfl⟩ := h
      rfl
  · rfl

/-- Context 0 in a task whose join block lies at 0x3000, with a count of n there and a continuation. -/
def joined (n code : Nat) : State :=
  let s := dword (dword (regs home 0x3000 0x3040 0x40000000 0) 0x3000 n) 0x3040 code
  s.setHart 0 { s.me with task := { tjoin := 0x3000 } }

theorem witness_exit_and_join : (joined 2 0).me.bar.bpend = false ∧ (joined 2 0).me.task.tjoin ≠ 0 ∧
    (joined 2 0).joinWaits 0x3000 = false ∧ ((okOf ((joined 2 0).joinDec home.who 0 0x3000)).map (·.1)).isSome = true ∧
    (((errOf ((joined 2 0).joinDec home.who 0 0x40000000)).map (·.cause)).getD 0xD5 ≠ 0xD5) ∧
    ((joined 2 0).x 2).toNat % 128 ≠ 0 ∧ ((joined 2 0).x 1).toNat % 128 = 0 ∧
    (joined 2 0).check (joined 2 0).who .amo .atomic 8 0x3000 = .ok 0x3000 ∧
    bytesAt (joined 2 0) 0x3000 8 = 2 ∧ bytesAt (joined 1 0) 0x3000 8 = 1 ∧ bytesAt (joined 0 0) 0x3000 8 = 0 ∧
    (okOf ((joined 1 0x20000).joinTake (joined 1 0x20000).who 0x3000)).map (·.1) = some 1 ∧
    readRec (joined 1 0x20000) 0x3040 = some { code := 0x20000 } ∧ readRec (joined 1 2) 0x3040 = some { code := 2 } ∧
    ¬ legalRecord { code := 2 } ∧ (home.cluster 0).evq.length < 256 := by
  refine ⟨by decide +kernel, by decide +kernel, by decide +kernel, by decide +kernel, by decide +kernel, by decide +kernel,
    by decide +kernel, ok_of (by decide +kernel), by decide +kernel, by decide +kernel, by decide +kernel, by decide +kernel,
    by decide +kernel, by decide +kernel, ?_, by decide +kernel⟩
  unfold legalRecord; decide +kernel

/-- The Lodestar of cluster 0 keeps continuations and records of a repaired core. -/
def keeping (held moved : List TaskRec) : State := home.setCluster 0 { home.cluster 0 with held := held, moved := moved }

theorem witness_kept_records : ((keeping [rec0 1] []).cluster 0).held = [rec0 1] ∧ ((keeping [] [rec0 2]).cluster 0).held = [] ∧
    ((keeping [] [rec0 2]).cluster 0).moved = [rec0 2] ∧ ((keeping [] [rec0 2]).cluster 0).pls.length < 256 := by decide +kernel

/-- R299, R358: a continuation goes to the store before a record of a repaired core. -/
theorem test_continuation_goes_first :
    (match exec (.continuationDeferred 0) (keeping [rec0 1] [rec0 2]) with
      | .next t => ((t.cluster 0).pls.map (·.task), (t.cluster 0).moved)
      | _ => ([], [])) = ([rec0 1], [rec0 2]) := by decide +kernel

/-- Context 0 in gang 2 of its cluster, of one member or two. -/
def ganged (size : BitVec 6) : State :=
  let s := home.setHart 0 { home.me with task := { tgang := 2, member := true } }
  s.setCluster 0 { s.cluster 0 with gangs := (s.cluster 0).gangs.set 2 { en := true, size := size, members := 1 } }

theorem witness_barriers : barrierForm (.gbarArrive 1 2 2) = some (0, fun x _ => x, 1, 2, 2) ∧
    (ganged 0).me.task.member = true ∧ (ganged 0).me.task.tgang = 2 ∧ home.me.task.member = false ∧
    ((ganged 0).cluster 0).gang 2 = { en := true, size := 0, members := 1 } ∧
    (((ganged 0).cluster 0).gang 2).arr + 1 = (((ganged 0).cluster 0).gang 2).size.toNat + 1 ∧
    (((ganged 1).cluster 0).gang 2).arr + 1 ≠ (((ganged 1).cluster 0).gang 2).size.toNat + 1 ∧
    (((ganged 0).cluster 0).gang 2).away = [] ∧ (ganged 0).overfull = false ∧
    (∀ o, o < 0x1D0 → home.home none (0x100000 + o) = 0x100000 + o) ∧ (home.complex 0).bitmap = none ∧
    home.runs 0 = true ∧
    ((home.setHart 0 { home.me with park := some (.gbar 1 2), bar := { bpend := true, brel := true } }).hart 0).park =
      some (.gbar 1 2) :=
  ⟨rfl, by decide +kernel⟩

/-! ### Hypotheses that are met: messages -/

/-- Context 0 with a message record at 0x3000 (handler 0x20000) and the destination word of the message hart of core n. -/
def sending (n : Nat) : State :=
  let d := (hlocOf home.pkg (ctxKey n 0)).setWidth 64
  dword (regs home 0x3000 d 0x3008 (d + 0x80000)) 0x3000 0x20000

/-- `s` in a domain with package 1, whose partition of tenant 7 is keyed and in RUN; and with its links down. -/
def abroad (s : State) : State :=
  { s.setPart 0 { s.part 0 with ptid := 7 } with
    domain := [0, 1], remotes := [{ pkg := 1, ptid := 7, run := true, keyed := true }] }
def cutOff (s : State) : State := { s with links := s.links.map (fun l => { l with up := false }) }
/-- The first eight words of the record a state's `x1` names, and the state after reading them. -/
def sendRead (s : State) : Option (List Word × State) := okOf (s.loadWords (s.x 1) 8)

theorem witness_send_reads : ∃ l u, (sending 1).loadWords 0x3000 8 = .ok (l, u) ∧
    u = { sending 1 with tlb := u.tlb, free := u.free } :=
  Laws.loadWords_memory 8 (sending 1) 0x3000 (by decide +kernel)

theorem witness_sends : sendForm (.msgSend 5 1 2 3) = some (false, 5, 1, 2, 3) ∧
    legalMsg (sending 1) [0x20000, 0, 0, 0, 0, 0, 0, 0] ((sending 1).x 2) ∧
    ¬ legalMsg (sending 1) [0x20000, 0, 0, 0, 0, 0, 0, 0] ((sending 1).x 4) ∧
    ((sending 1).x 1).toNat % 64 = 0 ∧ ((sending 1).x 3).toNat % 64 ≠ 0 ∧
    (sendRead (sending 1)).map (·.1) = some [0x20000, 0, 0, 0, 0, 0, 0, 0] ∧ (sending 1).me.sendQ.length < 8 ∧
    BitVec.ofNat 6 (((sending 1).x 2).toNat / 2 ^ 12) = (sending 1).pkg ∧ (sending 1).me.holdsRefused (coreNumber ((sending 1).x 2)) = false ∧
    ((sending 1).checkCpl 0x40000000).isSome = true ∧ (sending 1).checkCpl 0x3100 = none := by
  refine ⟨rfl, ?_, ?_, by decide +kernel⟩
  · unfold legalMsg; decide +kernel
  · unfold legalMsg; decide +kernel

/-- A send to package 1 that has no route to it, before and after its completion word is written. -/
def cutBefore : State := cutOff (abroad (sending 1))
def cutAfter : State :=
  let s := cutBefore
  let d := (sending 1).x 2 + 0x1000
  let m := messageOf s [0x20000, 0x3100, 0, 0, 0, 0, 0, 0] d 0 3 false
  State.writeCompletion (s.setHart 0 { s.me with seqs := put s.me.seqs (coreNumber d) 1, sendQ := [⟨m, .unsent⟩] }) 0 m 4 0xD4

/-- A record for another package: the package is not this one, and its word is legal there; with no route the completion
word is written at once. -/
theorem witness_sends_abroad : legalMsg (abroad (sending 1)) [0x20000, 0x3100, 0, 0, 0, 0, 0, 0] ((sending 1).x 2 + 0x1000) ∧
    BitVec.ofNat 6 (((sending 1).x 2 + 0x1000).toNat / 2 ^ 12) ≠ (abroad (sending 1)).pkg ∧
    (abroad (sending 1)).routed = true ∧ (cutOff (abroad (sending 1))).routed = false ∧
    cutBefore.addsWaiting cutAfter = false ∧ cutAfter.overfull = false ∧ Memory.read cutAfter.mem 0x3100 8 = 0xD404 := by
  refine ⟨?_, by decide +kernel⟩
  unfold legalMsg; decide +kernel

/-- A message of context 0 to the message hart of core n, or to context h of it of a generation. -/
def mail (n : Nat) (h : Option Nat) (gen : W32) : Msg :=
  { handler := 0x20000, cpl := 0, payload := Vector.replicate 5 0, dst := hlocOf home.pkg (ctxKey n (h.getD 0)),
    tohart := h.isSome, gen := gen, src := 0, srcPkg := home.pkg, srcGen := 0, tr := {}, seq := 0, scope := 3,
    trapping := false }
/-- The same message from context 0 of package 1, of tenant 7. -/
def foreignMail (n : Nat) : Msg := { mail n none 0 with srcPkg := 1, ptid := 7 }
/-- One message on its way to core 1, which has taken none. -/
def onItsWay : State := { home with flights := [⟨1, mail 1 none 0⟩] }
/-- Core 1 with a message waiting, running, or refused from context 0. -/
def holding (l : List Msg) (run : Option RunMsg) (ref : List (Nat × BitVec 6)) : State :=
  home.setCore 1 { home.core 1 with msgBuf := l, running := run, refused := ref }
/-- Context 0 with one entry of its send queue. -/
def sent (x : SendState) : State := home.setHart 0 { home.me with sendQ := [⟨mail 1 none 0, x⟩] }

theorem flightAt_head (s : State) (f : Flight) (h : s.flights = [f]) : flightAt s 0 f :=
  ⟨by rw [h]; rfl, fun i g h => absurd h (Nat.not_lt_zero i)⟩

theorem witness_arrivals : flightAt onItsWay 0 ⟨1, mail 1 none 0⟩ ∧
    flightAt { abroad home with flights := [⟨1, foreignMail 1⟩] } 0 ⟨1, foreignMail 1⟩ ∧ (onItsWay.core 1).absent = false ∧
    (onItsWay.core 1).fenced = false ∧ onItsWay.earlierHeld 1 (mail 1 none 0) = false ∧
    (onItsWay.core 1).unexpected (mail 1 none 0) = false ∧ (mail 1 none 0).srcPkg = onItsWay.pkg ∧
    (foreignMail 1).srcPkg ≠ onItsWay.pkg ∧
    ((holding (List.replicate 32 (mail 1 none 0)) none []).core 1).msgBuf.length = 32 ∧
    ((holding [] none (List.replicate 64 (1, home.pkg))).core 1).refused.length = 64 ∧
    ((holding [] none (List.replicate 64 (1, home.pkg))).core 1).refused.contains (0, home.pkg) = false :=
  ⟨flightAt_head _ _ rfl, flightAt_head _ _ rfl, by decide +kernel⟩

theorem witness_message_runs : SamePartition (holding [] none []) 1 (mail 1 none 0) ∧
    ¬ SamePartition (holding [] none []) 1 { mail 1 none 0 with src := 3888 } ∧ SamePartition (abroad home) 1 (foreignMail 1) ∧
    ((holding [] none []).core 1).running = none ∧ ((holding [mail 1 (some 2) 7] none []).core 1).msgBuf = [mail 1 (some 2) 7] ∧
    (7 : W32) ≠ ((holding [mail 1 (some 2) 7] none []).hart (hartOfHloc (mail 1 (some 2) 7).dst)).hgen ∧
    ((holding [mail 1 none 0] none [(0, home.pkg)]).core 1).refused = [(0, home.pkg)] ∧
    ((holding [mail 1 none 0] none [(0, 1)]).core 1).refused = [(0, 1)] ∧ (1 : BitVec 6) ≠ home.pkg := by
  refine ⟨⟨0, by decide +kernel, fun _ => by decide +kernel, fun h => absurd (by decide +kernel) h⟩, ?_,
    ⟨0, by decide +kernel, fun h => absurd h (by decide +kernel), fun _ => by decide +kernel⟩, by decide +kernel⟩
  rintro ⟨q, -, h, -⟩
  exact absurd (h (by decide +kernel)).1 (by decide +kernel)

/-- A message that a trapping send of context 0 waits for, running on core 1. -/
def running65536 (m : Msg) (n : Nat) : State := holding [] (some ⟨m, n⟩) []

theorem witness_message_ends : ((running65536 (mail 1 none 0) 65536).core 1).running = some ⟨mail 1 none 0, 65536⟩ ∧
    isMsg mess.cur = true ∧ (∀ r, (mess.core (coreOf mess.cur)).running = some r → r.msg.cpl = 0) ∧ mess.overfull = false ∧
    mess.addsWaiting ((wentOnly mess).endMessage (coreOf mess.cur) 1 0) = false ∧
    ((wentOnly mess).endMessage (coreOf mess.cur) 1 0).overfull = false ∧
    home.toLodestar 0 0 = false ∧ (home.hart 0).areaNow = none ∧ (home.hart 0).deferred.length < 32 ∧ isCtx 0 = true := by
  refine ⟨by decide +kernel, by decide +kernel, fun r h => ?_, by decide +kernel⟩
  have e : (mess.core (coreOf mess.cur)).running = some ⟨placedMsg mess.pkg, 0⟩ := by decide +kernel
  rw [e] at h; cases h; rfl

theorem witness_completions : (∃ pa, home.check (home.ender 1 { mail 1 none 0 with cpl := 0x3100, tr := home.trOf 0 }) .store
      (.scalar 8) 8 0x3100 = .ok pa ∧ home.region (home.ender 1 (mail 1 none 0)).core pa = .tier) ∧
    (errOf (home.check (home.ender 1 { mail 1 none 0 with cpl := 0x40000000, tr := home.trOf 0 }) .store (.scalar 8) 8
      0x40000000)).map (·.cause) = some 0x0F ∧ (∀ b, (home.complex b).bitmap = none) ∧ Memory.wf home.mem = true := by
  refine ⟨⟨0x3100, ok_of (by decide +kernel), by decide +kernel⟩, by decide +kernel, fun b => ?_, by decide +kernel⟩
  match b with
  | 0 => decide +kernel
  | 1 => decide +kernel
  | b + 2 => rfl

theorem witness_resends :
    (∃ e ∈ ((sent (.refused true)).hart 0).sendQ, destOf e.msg.dst = destOf (hlocOf home.pkg (ctxKey 1 0)) ∧ e.state = .refused true) ∧
    (∀ e ∈ ((sent (.flying false)).hart 0).sendQ, e.state ≠ .refused true) := by decide +kernel

/-! ### Hypotheses that are met: waiting, publication, notifies, comets -/

/-- A second leaf: the GiB of virtual addresses from 0x40000000 maps the one that starts at `pa`. -/
def mapped (s : State) (pa : Nat) : State := dword s 0x11008 (pa / 4096 * 1024 + 0xCF)

theorem witness_wait : isCtx home.cur = true ∧ home.check home.who .load (.scalar 8) 8 0x3000 = .ok 0x3000 ∧
    home.region home.who.core 0x3000 = .tier ∧ bytesAt (dword home 0x3000 5) 0x3000 8 = 5 ∧
    (mapped home 0xFE1000000000).check home.who .load (.scalar 8) 8 0x40001010 = .ok 0xFE1000001010 ∧
    home.region home.who.core 0xFE1000001010 = .agentBlock 0 0x1010 ∧
    ((home.setHart 0 { home.me with park := some (.wait 1 0x3000 5 3) }).hart 0).park = some (.wait 1 0x3000 5 3) ∧
    ((regs home 0x100 1 0 0).x 1).getLsbD 8 = true ∧ (home.myCore.cmask[0]?.getD 0) &&& 1 ≠ 1 ∧
    ((home.setHart 0 { home.me with park := some (.cmAcq 1 2 false 4) }).hart 0).park = some (.cmAcq 1 2 false 4) :=
  ⟨by decide +kernel, ok_of (by decide +kernel), by decide +kernel, by decide +kernel, ok_of (by decide +kernel), by decide +kernel⟩

/-- Windows of partition 0: all enabled, elsewhere. -/
def windowed : State :=
  let w : Window := { en := true, base := 0x1000000, pages := 1, ver := 0 }
  home.setPart 0 { home.part 0 with wins := Vector.replicate 16 w }

theorem witness_publication : windowed.partOf windowed.cur = 0 ∧ ((windowed.part 0).win 3).en = true ∧
    windowed.region none (windowed.hostAddr 0 0) ≠ .tier ∧ ((windowed.part 0).win 3).ver.toNat < 2 ^ 46 ∧ home.runs 0 = true ∧
    ((home.part 0).win 3).en = false ∧ (2 ^ 3 : Nat) / 2 ^ 3 % 2 = 1 ∧
    (∀ p ∈ windowed.parts.toList, ∀ v ∈ p.wins.toList, v.holds (localOf (windowed.hostAddr 0 0)) = false) := by decide +kernel

theorem witness_notify :
    (mapped home 0xFE1000000000).check home.who .store (.scalar 8) 8 0x40001010 = .ok 0xFE1000001010 ∧
    (mapped home 0xFE1000000000).check home.who .store (.scalar 8) 8 0x40001050 = .ok 0xFE1000001050 ∧
    home.region home.who.core 0xFE1000001050 = .agentBlock 0 (0x1010 + 64 * 1) ∧
    (∀ g i, i < 8 → home.region home.who.core 0x3000 ≠ .agentBlock g (0x1010 + 64 * i)) ∧
    ((tableQueue.agent 0).q 0).state = 1 := by
  refine ⟨ok_of (by decide +kernel), ok_of (by decide +kernel), by decide +kernel, fun g i _ h => ?_, by decide +kernel⟩
  have e : home.region home.who.core 0x3000 = .tier := by decide +kernel
  rw [e] at h
  cases h

/-- One comet. -/
def comet (c : Comet) : State := { home with comets := [c] }

theorem cometAt_head (c : Comet) : cometAt (comet c) 0 c := ⟨rfl, fun i _ h => absurd h (Nat.not_lt_zero i)⟩

theorem witness_comets : cometAt (comet (.notify 0 0 5)) 0 (.notify 0 0 5) ∧ cometAt (comet (.pacing 4 0)) 0 (.pacing 4 0) ∧
    cometAt (comet (.doorbell 0 9 0)) 0 (.doorbell 0 9 0) ∧ (comet (.notify 0 0 5)).ihlocCtx 0 0 = some 0 ∧
    ((comet (.notify 0 0 5)).hart 0).ctxState = 1 ∧ home.eventRoom 0 = true ∧ (home.hart 1).ctxState = 0 ∧
    (home.hart 1).areaNow = none ∧ ((home.setHart 1 { home.hart 1 with savedAt := some 0x4000 }).hart 1).areaNow = some 0x4000 ∧
    (home.region none 0x4160 ≠ .tier ∨ home.linesFit (linesOf 0x4160 8) = true) ∧
    ((home.setCluster 0 { home.cluster 0 with evq := [{ kind := 5 }], evWait := [{ kind := 6 }] }).cluster 0).evWait = [{ kind := 6 }] :=
  ⟨cometAt_head _, cometAt_head _, cometAt_head _, by decide +kernel⟩

end Sys2Proof.Tests

namespace Sys2Proof.Tests

open Sys2Proof Sys2Proof.Machine Sys2Proof.Spec

/-! ### Hypotheses that are met: copies and streams -/

/-- A copy of four words from 0x4000 to 0x5000; the same with a control word given; the same with a tile on the tensor. -/
def copyWords (ctl tile : Word) : List Word :=
  [0x4000, tile, 0, 0, 0, 0x100000004, 1, 0, 0x1000100000004, ctl, 0, 0, 0, 0, 0, 0]
/-- Memory holds it at 0x3000. -/
def copying (ctl tile : Word) : State :=
  ((copyWords ctl tile).zipIdx).foldl (fun s e => dword s (0x3000 + 8 * e.2) e.1.toNat)
    (regs home 0x3000 0x3008 0x40000000 0)
/-- What `tcopy` reads there. -/
def copyRead (s : State) : Option (List Word) := (okOf (s.loadWords 0x3000 16)).map (·.1)

theorem witness_copy_starts : (regs home 0x3000 0x3008 0 0).x 2 = 0x3008 ∧ (0x3008 : Nat) % 128 ≠ 0 ∧
    (errOf ((copying 2 0x5000).loadWords 0x40000000 16)).isSome = true ∧
    copyRead (copying 2 0x5000) = some (copyWords 2 0x5000) ∧ legalDesc (descOf (copyWords 2 0x5000)) ∧
    ¬ legalDesc (descOf (copyWords 0x100000002 0x5000)) ∧ home.converts home.who (descOf (copyWords 2 0x5000)) = none ∧
    ctlOf (descOf (copyWords 2 0x5000)) 4 1 = 0 ∧ ctlOf (descOf (copyWords 18 0x5000)) 4 1 = 1 ∧
    home.copiesOf home.cur < 16 := by
  refine ⟨by decide +kernel, by decide, by decide +kernel, by decide +kernel, ?_, ?_, by decide +kernel⟩ <;> (unfold legalDesc; decide +kernel)

theorem box_of_four (ctl tile : Word) (h : boxTotal (descOf (copyWords ctl tile)) = 4) (e : Nat)
    (b : inBox (descOf (copyWords ctl tile)) e) : e < 4 := by
  have := b.2; omega

theorem witness_copy_spans : ¬ spansMeet (descOf (copyWords 2 0x5000)) ∧ spansMeet (descOf (copyWords 2 0x4004)) ∧
    addressesOk (descOf (copyWords 2 0x5000)) ∧ ¬ addressesOk (descOf (copyWords 2 0x800000000000)) := by
  have t (a : Word) (h : boxTotal (descOf (copyWords 2 a)) = 4) := box_of_four 2 a h
  refine ⟨?_, ?_, ⟨?_, ?_, ?_⟩, ?_⟩
  · rintro ⟨-, e, f, he, -, hf, h⟩
    have a := t 0x5000 (by decide +kernel) e he
    have b := t 0x5000 (by decide +kernel) f hf
    exact absurd h ((by decide +kernel : ∀ e < 4, ∀ f < 4, ¬ tileAddr (descOf (copyWords 2 0x5000)) f ≤
      tensorAddr (descOf (copyWords 2 0x5000)) e + eBytes (descOf (copyWords 2 0x5000)) - 1) e a f b)
  · refine ⟨⟨0, 0, ?_, ?_, ?_, ?_⟩, 1, 0, ?_, ?_, ?_, ?_⟩ <;>
      first | (unfold inBox; decide +kernel) | (unfold inTensor; decide +kernel) | decide +kernel
  · intro e he
    exact (by unfold acceptable; decide +kernel : ∀ e < 4, acceptable (tileAddr (descOf (copyWords 2 0x5000)) e)) e
      (t 0x5000 (by decide +kernel) e he)
  · intro e he _
    exact (by unfold acceptable; decide +kernel : ∀ e < 4, acceptable (tensorAddr (descOf (copyWords 2 0x5000)) e)) e
      (t 0x5000 (by decide +kernel) e he)
  · unfold acceptable; decide +kernel
  · rintro ⟨h, -⟩
    have := h 0 (by unfold inBox; decide +kernel)
    revert this
    unfold acceptable; decide +kernel

/-- That copy in flight on core 0, with elements done and a stop. -/
def flying (ctl : Word) (done : List Nat) (stop : Option CopyStop) (chunks : List Nat) : Copy :=
  { id := 5, slot := 0, hgen := 0, desc := descOf (copyWords ctl 0x5000), descAt := 0x3000, tr := home.trOf 0, scope := 3, frm := 0,
    done := done, stop := stop, chunks := chunks }
def flight (c : Copy) : State := home.setCore 0 { home.core 0 with copies := [c] }

/-- The same copy, converting between two formats of banks. -/
def converting (done : List Nat) : Copy := { flying 2 done none [] with conv := some (3, 4) }

theorem witness_copy_moves : running (flight (flying 2 [1] none [])) 0 (flying 2 [1] none []) ∧
    running (flight (converting [0])) 0 (converting [0]) ∧ inTensor (flying 2 [1] none []).desc 2 ∧
    copyCheck home 0 (flying 2 [1] none []) .load 4 0x4008 = .ok [0x4008, 0x4009, 0x400A, 0x400B] ∧
    copyCheck home 0 (flying 2 [1] none []) .store 4 0x5009 = .ok [0x5009, 0x500A, 0x500B, 0x500C] ∧
    (flying 2 [1] none []).left ≠ 0 ∧ Desc.shape (flying 2 [1] none []).desc = false ∧
    home.overfull = false ∧ home.cap1 ≤ 0x3000000000 ∧
    ((errOf (copyCheck home 0 (flying 2 [1] none []) .load 4 0x40000000)).map (·.cause)) = some 0x0D ∧
    (converting [0]).left ≠ 0 ∧ (converting [0]).conv = some (3, 4) ∧
    (okOf (home.checkElemBy (home.copyWho 0 (converting [0])) .load 1 (fun _ => true) (packedAt 0x4000 3 1))).isSome = true ∧
    (errOf (home.checkElemBy (home.copyWho 0 (converting [0])) .store 1 (fun _ => true) (packedAt 0x40000000 4 1))).isSome = true ∧
    (flying 2 [0, 1, 2, 3] none []).left = 0 ∧ (flying 2 [0, 1, 2, 3] none []).chunksDue = [] ∧
    (flying 0x10042 [0, 1, 2, 3] none []).chunksDue = [0] ∧ field (flying 2 [] none []).desc 96 8 = 0 := by
  refine ⟨⟨by decide +kernel, by decide +kernel, by decide +kernel⟩, ⟨by decide +kernel, by decide +kernel, by decide +kernel⟩,
    ?_, ok_of (by decide +kernel), ok_of (by decide +kernel), by decide +kernel⟩
  unfold inTensor; decide +kernel

/-- A copy that posts an addition or a decrement at 0x3100, done. -/
def posted (ctl : Word) : Copy :=
  { flying ctl [0, 1, 2, 3] none [] with desc := (flying ctl [] none []).desc ||| (0x3100#1024 <<< 768) ||| (1#1024 <<< 832) }

theorem witness_copy_ends : running (flight (posted 2)) 0 (posted 2) ∧ running (flight (posted 10)) 0 (posted 10) ∧
    home.check (home.copyWho 0 (posted 2)) .amo .atomic 8 0x3100 = .ok 0x3100 ∧
    home.check (home.copyWho 0 (posted 2)) .amo .atomic 8 0x40000000 = .error ⟨0x0F, 0x40000000⟩ ∧
    (posted 2).left = 0 ∧ (posted 2).chunksDue = [] ∧ field (posted 2).desc 96 8 = 0x3100 ∧ ctlOf (posted 2).desc 3 1 = 0 ∧
    ctlOf (posted 10).desc 3 1 = 1 ∧ (home.hart 0).hgen = (posted 2).hgen ∧ (home.core 0).fenced = false ∧
    bytesAt (dword home 0x3100 2) 0x3100 8 = 2 ∧ bytesAt home 0x3100 8 = 0 ∧ home.linesFit [0x3100 / 64] = true ∧
    (okOf ((withoutCopy (dword home 0x3100 1) 0 5).joinTake (home.copyWho 0 (posted 10)) 0x3100)).map (·.1) = some 1 ∧
    (home.hart 0).areaNow = none ∧ (home.region none 0x4108 ≠ .tier ∨ home.linesFit (linesOf 0x4108 8) = true) := by
  refine ⟨⟨by decide +kernel, by decide +kernel, by decide +kernel⟩, ⟨by decide +kernel, by decide +kernel, by decide +kernel⟩,
    ok_of (by decide +kernel), err_of (by decide +kernel), by decide +kernel⟩

theorem witness_copy_stop : home.check (home.copyWho 0 (flying 2 [] none [])) .store .vector 8 (0x3000 + 112) = .ok 0x3070 ∧
    home.check (home.copyWho 0 (flying 2 [] none [])) .store .vector 8 (0x3000 + 120) = .ok 0x3078 ∧
    ((flight (flying 2 [] (some ⟨0x4000, 0⟩) [])).core 0).copies.find? (fun x => x.id = 5) =
      some (flying 2 [] (some ⟨0x4000, 0⟩) []) ∧ (flight (flying 2 [] (some ⟨0x4000, 0⟩) [])).me.hgen = 0 ∧
    (home.hart 0).ctxState = 1 ∧ (home.hart 0).deferred.length < 32 ∧ home.eventRoom 0 = true :=
  ⟨ok_of (by decide +kernel), ok_of (by decide +kernel), by decide +kernel⟩

/-- A pattern of eight words from 0x4000, and memory that holds it at 0x3000. -/
def patternWords (n : Word) : List Word := [0x4000, 4, 0, 0, 0x100000000 + n, 0x200000001, 0, 0]
def patterned (n : Word) : State :=
  ((patternWords n).zipIdx).foldl (fun s e => dword s (0x3000 + 8 * e.2) e.1.toNat) (regs (lanes home 0x02 4) 0x3000 0x3020 0 0)
/-- Stream 0 of context 0 on `v1` over it, with elements fetched. -/
def streaming (vt : Word) (strip : List (Nat × Word)) : State :=
  let s := lanes home vt 4
  s.setHart 0 { s.hart 0 with
    strmctl := 0x10001
    strm := (s.hart 0).strm.set 0 { pat := (descOf (patternWords 8)).setWidth 512, tr := s.trOf 0, strip := strip } }

theorem witness_stream_set : home.lanes home.cur = 0 ∧ (lanes home 0x02 4).lanes 0 ≠ 0 ∧ ((patterned 8).x 2).toNat % 64 ≠ 0 ∧
    (okOf ((patterned 8).loadWords 0x3000 8)).map (·.1) = some (patternWords 8) ∧
    legalPattern ((descOf (patternWords 8)).setWidth 512) ∧ ¬ legalPattern ((descOf (patternWords 0)).setWidth 512) ∧
    (∀ m, m < 8 → acceptable (elementAddr ((descOf (patternWords 8)).setWidth 512) m)) ∧
    countOf ((descOf (patternWords 8)).setWidth 512) 0 = 8 := by
  refine ⟨by decide +kernel, by decide +kernel, by decide +kernel, by decide +kernel, ?_, ?_, ?_, by decide +kernel⟩
  · unfold legalPattern; decide +kernel
  · unfold legalPattern; decide +kernel
  · unfold acceptable; decide +kernel

theorem witness_stream_reads : streams (streaming 0x02 []).me 0 1 ∧ (streamOf (streaming 0x02 []).me 0).total = 8 ∧
    (streamOf (streaming 0x02 []).me 0).strip.all (fun e => e.1 ≠ 3) = true ∧
    ((okOf ((streaming 0x02 []).agentRead (whoCopy 0 (home.trOf 0) none false) 0x400C 4))).isSome = true ∧
    (streamOf (streaming 0x02 []).me 0).width = 32 ∧ (streaming 0x02 []).sew = 32 ∧ (streaming 0x01 []).sew = 16 ∧
    (streaming 0x02 []).me.streamAt 1 = some 0 ∧ (streaming 0x02 []).me.streamAt 2 = none ∧
    (∀ j < (streaming 0x02 [(0, 9), (1, 8), (2, 7), (3, 6)]).me.vec.vl,
      ∃ e ∈ (streamOf (streaming 0x02 [(0, 9), (1, 8), (2, 7), (3, 6)]).me 0).strip, e.1 = 0 + j) := by
  refine ⟨?_, by decide +kernel⟩
  unfold streams; decide +kernel

/-! ### Hypotheses that are met: graphics and radiance -/

/-- `x1` to `x4` of context 0 with four lanes and a type. -/
def shaded (vt a : Word) : State := regs (lanes home vt 4) a 0 0 0

theorem witness_graphics : elemReady gfxForm (shaded 0x22 0) (.vsobol 4 2 1 0) = true ∧
    elemReady gfxForm (shaded 0x03 0x3000) (.vvbmin 3 5 1 0) = true ∧ elemReady gfxForm (shaded 0x02 0x0F071076) (.vblend 1 2 1 0) = true ∧
    elemReady gfxForm (shaded 0x22 0x3000) (.vrayq 4 8 1 0) = true ∧ notOk gfxForm (shaded 0x02 0x3000) (.vrayo 4 8 1 0) = true ∧
    elemReady gfxForm (dword (dword (shaded 0x22 0x3000) 0x3000 0x4000) 0x3008 0x10000010001) (.vtex 4 8 1 0) = true ∧
    ((gfxForm (shaded 0x02 0xA) (.vblend 1 2 1 0)).bind (·.issue)) = some ⟨0x72, 0xA⟩ ∧
    elemStopped gfxForm (reached (shaded 0x22 0)) (.vsobol 4 2 1 0) 2 = true := by decide +kernel

theorem witness_graphics_values : (0 : Nat) ≤ 2 ∧ (FVal.inf false).finite = false ∧
    (TexDesc.ofWords [0x4000, 0x10000010001, 0, 0]).isSome = true ∧
    ((home.ray 8 0).degenerate = true ∨ (home.ray 8 0).degenerate = false) := by decide +kernel

/-- The unit of cluster 0 bound at 0x3000 in a state, and context 0 with `rcdesc`. -/
def bound (st : BitVec 2) (desc : Word) (f : Radiance → Radiance) : State :=
  let s := shaded 0x22 0
  let s := s.setCluster 0 { s.cluster 0 with rc := f { (s.cluster 0).rc with rcbind := 0x3000, state := st } }
  s.setHart 0 { s.hart 0 with rcdesc := desc }

theorem witness_radiance_queries : rcForm (.rcQt 4 8 16 0) = some ⟨0, some 16, 4, 8⟩ ∧
    vecReady (bound 2 0x3000 id) (RcForm.regs ⟨0, some 16, 4, 8⟩) ∧ isFp32 (bound 2 0x3000 id) = true ∧ rcBound (bound 2 0x3000 id) ∧
    pinFor (bound 2 0x3000 id) (newPin (bound 2 0x3000 id)) ∧ ¬ rcBound (bound 2 0 id) ∧
    (unit (bound 1 0x3000 id) 0).state = 1 ∧ isFp32 (lanes home 0x02 4) = false ∧
    (let s := vec (bound 2 0x3000 id) (fun v => { v with vstart := 1 })
     rcBound s ∧ s.me.vec.vstart ≠ 0 ∧ ∀ p, ¬ pinFor s p) := by
  refine ⟨rfl, ⟨by decide +kernel, by decide +kernel, by decide +kernel⟩, by decide +kernel, ⟨by decide +kernel, by decide +kernel⟩,
    Or.inl ⟨by decide +kernel, rfl⟩, ?_, by decide +kernel, by decide +kernel, ⟨by decide +kernel, by decide +kernel⟩, by decide +kernel, ?_⟩
  · rintro ⟨-, h⟩; exact absurd h (by decide +kernel)
  · rintro p (⟨h, -⟩ | ⟨-, h, -⟩)
    · exact absurd h (by decide +kernel)
    · have n : (vec (bound 2 0x3000 id) (fun v => { v with vstart := 1 })).me.pin = none := by decide +kernel
      rw [n] at h; cases h

/-- A descriptor within R174's limits, as eight doublewords: one level of 4,096 entries (or eight of 65,536), one hidden
layer, the rates of training, B = 1 and S = 1. -/
def rcWords : List Word := [0x4000, 0x0C00000101, 0x100000000, 0, 0x3C00000000000000, 0x3F0000003F000000, 0x0001000133000000, 0]
def rcLarge : List Word :=
  [0x4000, 0x1010101000000108, 0x0001000110101010, 0x0001000100010001, 0x3C00000000010001, 0x3F0000003F000000, 0x0001000133000000, 0]
/-- Memory holds one at 0x3000, where the unit is bound. -/
def loading (l : List Word) : State := (l.zipIdx).foldl (fun s e => dword s (0x3000 + 8 * e.2) e.1.toNat) ((bound 1 0 id).withMap true)
/-- What an agent's work answers. -/
def doneOf {α : Type} (x : Except AgFail α) : Option α :=
  match x with
  | .ok a => some a
  | .error _ => none
/-- The block a unit reads at 0x3000. -/
def rcRead (s : State) : Option (BitVec 512) := (doneOf (agBlock (rcParty s 0 0) 0x3000 64 s)).map (·.1)

theorem witness_radiance_units : home.ownerOfCluster 0 = some 0 ∧ home.ownerOfCluster 47 = none ∧
    (unit (loading rcWords) 0).state = 1 ∧ (unit (loading rcWords) 0).rcbind.toNat % 64 = 0 ∧
    (unit (bound 1 0 (fun r => { r with rcbind := 8 })) 0).rcbind.toNat % 64 ≠ 0 ∧
    rcRead (loading rcWords) = some ((descOf rcWords).setWidth 512) ∧ legalModel ((descOf rcWords).setWidth 512) ∧
    ¬ legalModel 0 ∧ legalModel ((descOf rcLarge).setWidth 512) ∧
    1048576 < (RcDesc.ofBlock ((descOf rcLarge).setWidth 512)).params ∧ 1 ≤ (RcDesc.ofBlock ((descOf rcWords).setWidth 512)).hidden ∧
    (doneOf (rcLoad 0 (rcParty (loading (rcWords.map (fun _ => 0))) 0 0) (loading (rcWords.map (fun _ => 0))))).isNone = true := by
  refine ⟨by decide +kernel, by decide +kernel, by decide +kernel, by decide +kernel, by decide +kernel, by decide +kernel, ?_, ?_, ?_,
    by decide +kernel, by decide +kernel, by decide +kernel⟩ <;> (unfold legalModel; decide +kernel)

theorem witness_radiance_work :
    unitWorks (bound 2 0 (fun r => { r with train := true, ring := [⟨Vector.replicate 8 0, Vector.replicate 3 0⟩] })) 0 0
      (fun r => goesOnWith r true (r.train && !r.wb && decide ((RcDesc.ofBlock r.desc).batch ≤ r.ring.length))) ∧
    unitWorks (bound 2 0 (fun r => { r with todo := some (true, []) })) 0 0 (fun r => goesOnWith r true false) ∧
    unitWorks (bound 2 0 id) 0 0 (fun r => r.todo.isNone && !r.wb && decide ((RcDesc.ofBlock r.desc).gsteps ≤ r.since) &&
      !(bound 2 0 id).slotPinned 0 (1 - r.cur)) ∧
    unitWorks (bound 2 0 (fun r => { r with wb := true })) 0 0 (fun r => goesOnWith r false r.wb) ∧
    (unit (bound 0 0 id) 0).state ≠ 2 ∧ (bound 2 0 id).overfull = false ∧ (bound 2 0 id).eventRoom 0 = true := by
  refine ⟨?_, ?_, ?_, ?_, by decide +kernel⟩ <;> (unfold unitWorks; decide +kernel)

/-- `v2` streams at 32 bits under a type of 64-bit elements. -/
theorem witness_wrong_width : ((streaming 0x03 []).setHart 0 { (streaming 0x03 []).hart 0 with strmctl := 0x10002 }).me.streamAt 2 = some 0 ∧
    (streamOf (streaming 0x03 []).me 0).width ≠ (streaming 0x03 []).sew ∧ (streaming 0x03 []).lanes 0 ≠ 0 ∧
    (streaming 0x03 []).vill = false ∧ (∀ j < 0, (streamOf (streaming 0x03 []).me j).width = 64) := by decide +kernel

end Sys2Proof.Tests

namespace Sys2Proof.Tests

open Sys2Proof Sys2Proof.Machine Sys2Proof.Spec

/-! ### Hypotheses that are met: the graphics agents -/

/-- Partition 0 with its first GiB mapped for U mode; agent a with one queue that has one entry at 0x3000. -/
def serving (a : Nat) (f : AgentQueue → AgentQueue) : State :=
  (home.withMap true).setAgent a (({} : Agent).setQ 0 (f { base := 0x3000, tail := 1, state := 1, en := true }))
/-- The entry's first doubleword. -/
def entryAt (a w : Nat) : State := dword (serving a id) 0x3000 w
def entryRead (s : State) : Option (BitVec 512) := (doneOf (agBlock (s.whoAgent 0 [agentTlb 0]) 0x3000 64 s)).map (·.1)

/-- Agent 4 with a PRESENT entry that has, or has not, settled. -/
def presenting (x : Option Bool) : State := serving 4 (fun t => { t with pres := true, entry := some 2, settled := x })

theorem witness_agents : (∃ b, entryWork (.agentNop 0 0) = some ⟨0, 0, 0, 0, b⟩) ∧ (∃ b, entryWork (.blend 4 0) = some ⟨2, 1, 4, 0, b⟩) ∧
    home.ownerOfAgent 23 = none ∧ (serving 0 id).ownerOfAgent 0 = some 0 ∧ (serving 0 id).ownerOfAgent 4 = some 0 ∧
    ((serving 0 id).agent 0).turn = some 0 ∧ (home.agent 0).turn = none ∧ entryRead (serving 0 id) = some 0 ∧
    entryRead (entryAt 0 3) = some 3 ∧ ¬ takesType 0 false (bytesOf 3 0 1) ∧ takesType 0 false (bytesOf 1 0 1) ∧
    commonFields 0 0 0 ∧ ¬ commonFields 0 0 0x200 ∧ commonFields 2 1 1 ∧
    (doneOf (agBlock ((serving 0 id).whoAgent 0 [agentTlb 0]) 0x40000000 64 (serving 0 id))).isNone = true ∧
    ((serving 0 (fun t => { t with entry := some 0 })).agent 0).turn = some 0 ∧
    missed ((presenting (some false)).agent 4) 0 ∧ ¬ missed ((presenting (some true)).agent 4) 0 ∧
    inHand ((serving 0 (fun t => { t with entry := some 0 })).agent 0) 0 ∧ toBegin ((presenting (some true)).agent 4) 0 ∧
    toBegin ((serving 0 id).agent 0) 0 ∧ ((presenting (some true)).agent 4).turn = some 0 := by
  refine ⟨⟨_, rfl⟩, ⟨_, rfl⟩, by decide +kernel, by decide +kernel, by decide +kernel, by decide +kernel, by decide +kernel,
    by decide +kernel, by decide +kernel, ?_, ?_, ?_, ?_, ?_, by decide +kernel, by decide +kernel,
    ⟨by decide +kernel, by decide +kernel, 2, by decide +kernel, by decide +kernel, by decide +kernel⟩, fun h => absurd h.2.1 (by decide +kernel),
    ⟨by decide +kernel, 0, by decide +kernel, fun h => absurd h.2.2 (by decide +kernel)⟩,
    ⟨by decide +kernel, .inr ⟨by decide +kernel, 2, by decide +kernel, by decide +kernel, by decide +kernel⟩⟩, ⟨by decide +kernel, .inl (by decide +kernel)⟩,
    by decide +kernel⟩
  · unfold takesType; decide +kernel
  · unfold takesType; decide +kernel
  · unfold commonFields; decide +kernel
  · unfold commonFields; decide +kernel
  · unfold commonFields; decide +kernel

/-- Agent 0 with records left to emit for its queue 0, whose entry they serve. -/
def emitting (n : Nat) : State :=
  let g := (serving 0 (fun t => { t with entry := some 1 })).agent 0
  (serving 0 id).setAgent 0 { g with emit := List.replicate n (rec0 0), emitQ := some 0 }


theorem witness_entries :
    (doneOf (agFinish 0 0 ((serving 0 id).whoAgent 0 [agentTlb 0]) 0x3000 1 0 (serving 0 id))).isSome = true ∧
    (home.agent 0).emitQ = none ∧ ((emitting 1).agent 0).emitQ = some 0 ∧ ((emitting 1).agent 0).emit = [rec0 0] ∧
    ((emitting 2).cluster 0).held = [] ∧ ((emitting 2).cluster 0).moved = [] ∧ ((emitting 2).placeStore 0 (rec0 0)).isSome = true ∧
    (((emitting 2).setCluster 0 { (emitting 2).cluster 0 with pls := List.replicate 256 ⟨rec0 0, 0⟩ }).placeStore 0 (rec0 0)).isNone = true ∧
    (queueOf (presenting none) 4 0).entry = some 2 ∧ (queueOf (presenting none) 4 0).settled = none ∧ (queueOf (presenting (some true)) 4 0).settled ≠ none ∧
    (queueOf (presenting none) 4 0).state = 1 ∧ (queueOf home 4 0).entry = none ∧ bytesOf 2 0 1 = 2 ∧
    (Instr.aqctlEnable 0 0 1).wf = true ∧ (queueOf (serving 0 (fun t => { t with state := 2 })) 0 0).state = 2 ∧
    (queueOf (serving 0 id) 0 0).state ≠ 2 ∧
    (queueOf (serving 0 (fun t => { t with entry := some 0, posted := true })) 0 0).posted = true ∧
    (queueOf (presenting none) 4 0).posted = false := by decide +kernel

/-- Agent 0 with a NOP entry that posts to 0x3008, and after its event. -/
def beforePost : State := serving 0 (fun t => { t with entry := some (0x100 + 0x3008 * 2 ^ 448) })
def afterPost : State := next (execAgentNop 0 0 beforePost) home

/-- R246, R367: after its post the entry keeps the head until its next event. -/
theorem test_posted_entry_holds_the_head :
    (queueOf afterPost 0 0).head = (queueOf beforePost 0 0).head ∧
    Memory.read afterPost.mem 0x3008 1 = Memory.read beforePost.mem 0x3008 1 + 1 ∧
    (queueOf (next (execAgentNop 0 0 afterPost) home) 0 0).head = (queueOf beforePost 0 0).head + 1 ∧
    (queueOf (next (execAgentNop 0 0 afterPost) home) 0 0).entry = none := by decide +kernel

theorem witness_agent_figures : 1 ≤ (240 : Nat) ∧ ((serving 0 id).agent 0).turn = some 0 ∧ (diceGrids 240 1).length = 16 := by decide +kernel

/-! ### Hypotheses that are met: registers -/

/-- The cases in which a block's register keeps something: at a boundary offset of each range. -/
theorem witness_block_registers : (regKept home 3888 (.clusterBlock 0 0x10) 0x1F).isSome = true ∧
    (regKept home 3888 (.clusterBlock 0 0x2000) 0x1000).isSome = true ∧ (regKept home 3888 (.clusterBlock 0 0x20E8) 9).isSome = true ∧
    (regKept home 3888 (.clusterBlock 0 0x2178) 9).isSome = true ∧ (regKept home 3888 (.clusterBlock 0 0x3FD8) 9).isSome = true ∧
    (regKept home 3888 (.clusterBlock 0 0x20F0) 9).isSome = false ∧ (regKept home 3888 (.agentBlock 4 0x20) 1).isSome = true ∧
    (regKept home 3888 (.agentBlock 0 0x11C8) 5).isSome = true ∧ (regKept home 0 (.partBlock 0 0) 5).isSome = true ∧
    (regKept home 3936 (.partBlock 1 0xB8) 0x200000).isSome = true ∧ (regKept home 3936 (.partBlock 0 0xB8) 0).isSome = false ∧
    (regKept home 0 (.partBlock 7 0x7D0) 5).isSome = true := by decide +kernel

theorem witness_windows : (Instr.hwEnable 0 15 0x1000000).wf = true ∧ (windowed.part 0).wins[3].en = true ∧ ((home.part 0).win 3).en = false ∧
    windowFits home 0x1000000 { pages := 1, ver := 8 } ∧ ¬ windowFits home 0x1000000 { pages := 0, ver := 8 } ∧
    ¬ windowFits windowed 0x1000000 { pages := 1, ver := 8 } ∧ (home.part 0).attached = false ∧
    ((home.setPart 0 { home.part 0 with attached := true, svcHart := 9 }).part 0).svcHart = 9 := by
  refine ⟨by decide +kernel, by decide +kernel, by decide +kernel, ?_, ?_, ?_, by decide +kernel, by decide +kernel⟩ <;>
    (unfold windowFits; decide +kernel)

theorem witness_register_events : selectedCore home 0 = some 0 ∧
    selectedCore (home.setCluster 0 { home.cluster 0 with lsel := 8, spareUsed := true }) 0 = none ∧
    ((queued home).core 0).mq ≠ [] ∧ (home.core 0).mq = [] ∧ (home.core 0).vlpWait = none ∧
    ((home.setCore 0 { home.core 0 with vlpWait := some { v := 0x803 } }).core 0).vlpWait = some { v := 0x803 } ∧
    (home.core 0).absent = false ∧ ((home.setCore 0 { home.core 0 with absent := true }).core 0).absent = true ∧
    (legalVlp 0x9803).getLsbD 11 = true ∧ (legalVlp 0x9803).getLsbD 15 = true ∧
    home.csrOk 0xC00 = true ∧ csrReadOnly 0xC00 = true ∧ home.csrOk 0x7C0 = false ∧ csrKind (home.csrWrite 0x008 7) = 0 ∧
    csrKind ((queued lode).csrWrite 0x7C1 7) = 2 ∧ home.regStore 0 (home.region none 0x5000) 0 = none ∧
    (home.regStore 0 (home.region none 0xFE0000000010) 0).isSome = true ∧ isCtx 0 = true ∧ isMsg 3456 = true ∧ isCtx 3888 = false := by
  decide +kernel

/-- A converting copy in flight holds bank 3 of core 0; none holds another. -/
theorem witness_bank_held : bankHeld (flight { flying 2 [] none [] with banks := [(0, 3)] }) 0 3 ∧
    (∀ b, ¬ bankHeld home 0 b) := by
  refine ⟨⟨_, List.mem_cons_self .., _, List.mem_cons_self .., rfl, by decide +kernel⟩, ?_⟩
  rintro b ⟨x, hx, p, hp, -⟩
  rw [(by decide +kernel : ∀ x ∈ home.cores, x.2.copies = []) x hx] at hp
  cases hp

/-- Context 0 within a vector instruction, at one of its elements. -/
theorem witness_vectorInFlight : vectorInFlight (queued home) 0 ∧ ¬ vectorInFlight home 0 ∧
    vectorInFlight (home.setHart 0 { home.me with stall := some .element, vec := { home.me.vec with vstart := 3 } }) 0 := by
  unfold vectorInFlight; decide +kernel

/-! ### Hypotheses that are met: the Orrery -/

theorem isSome_ok {α : Type} {x : Except Trap α} (h : (okOf x).isSome = true) : ∃ a, x = .ok a := by
  cases x with
  | ok a => exact ⟨a, rfl⟩
  | error t => simp [okOf] at h
theorem isSome_err {α : Type} {x : Except Trap α} (h : (errOf x).isSome = true) : ∃ t, x = .error t := by
  cases x with
  | error t => exact ⟨t, rfl⟩
  | ok a => simp [errOf] at h
/-- What an answer gives, whatever its error says. -/
def goodOf {ε α : Type} (x : Except ε α) : Option α :=
  match x with
  | .ok a => some a
  | .error _ => none
/-- The address can be accessed, and is in no register space. -/
def plainly (s : State) (acc : Acc) (a : Word) : Bool :=
  (okOf (s.check s.who acc (.scalar 8) 8 a)).any (fun pa => !(s.region s.who.core pa).isBlock)
theorem plain_ok {s : State} {acc : Acc} {a : Word} (h : plainly s acc a = true) :
    ∃ pa, s.check s.who acc (.scalar 8) 8 a = .ok pa ∧ (s.region s.who.core pa).isBlock = false := by
  unfold plainly okOf at h
  split at h
  · exact ⟨_, ‹_›, by simpa using h⟩
  · cases h

/-- Slot 0 of complex 0 valid, on the page at 0x2FFC000000, with n records unread; `x1` names it, `x2` is 0x3000. -/
def slotted (n : Word) : State :=
  let s := regs orr 0 0x3000 0x3008 0
  s.setComplex 0 (withSlot (s.complex 0) 0 { valid := true, page := 0x2FFC000000, kick := n })

theorem witness_fw_ring : orrery orr ∧ isOrr home.cur = false ∧ (slotOfComplex orr 0 0).valid = false ∧
    (slotOfComplex (slotted 0) 0 0).valid = true ∧ ((slotted 0).x 2).toNat % 64 = 0 ∧ ((slotted 0).x 3).toNat % 64 ≠ 0 ∧
    (slotOfComplex (slotted 0) 0 0).kick = (slotOfComplex (slotted 0) 0 0).cons ∧ 32 < ((33 : Word) - 0).toNat ∧
    accessible (slotted 32) .load 0x2FFC000800 8 ∧ accessible (slotted 32) .store 0x3000 8 ∧ accessible (slotted 32) .store 0x2FFC000008 1 ∧
    failsAt (slotted 32) .store 0xFFFFFFFFFFC0 8 0xFFFFFFFFFFC0 ∧ (slotted 32).overfull = false ∧
    failsAt (slotted 32) .store 0xFE0000000000 8 0xFE0000000000 := by
  refine ⟨by unfold orrery; decide +kernel, by decide +kernel, by decide +kernel, by decide +kernel, by decide +kernel, by decide +kernel,
    by decide +kernel, by decide, ?_, ?_, ?_, ?_, by decide +kernel, ?_⟩
  · exact fun i hi => plain_ok ((by decide +kernel : ∀ i < 8, plainly (slotted 32) .load (0x2FFC000800 + BitVec.ofNat 64 (8 * i)) = true) i hi)
  · exact fun i hi => plain_ok ((by decide +kernel : ∀ i < 8, plainly (slotted 32) .store (0x3000 + BitVec.ofNat 64 (8 * i)) = true) i hi)
  · exact fun i hi => plain_ok ((by decide +kernel : ∀ i < 1, plainly (slotted 32) .store (0x2FFC000008 + BitVec.ofNat 64 (8 * i)) = true) i hi)
  · obtain ⟨e, h⟩ := isSome_err (by decide +kernel : (errOf ((slotted 32).check (slotted 32).who .store (.scalar 8) 8 0xFFFFFFFFFFC0)).isSome = true)
    refine ⟨0, by decide, by decide +kernel, fun i h => absurd h (Nat.not_lt_zero i), .inl ⟨e, h, ?_⟩⟩
    have k : (errOf ((slotted 32).check (slotted 32).who .store (.scalar 8) 8 0xFFFFFFFFFFC0)).map (·.cause) = some 0x07 := by decide +kernel
    rw [h] at k
    have c : e.cause = 0x07 := Option.some.inj k
    rw [c]
    unfold lineInError; decide
  · obtain ⟨pa, h⟩ := isSome_ok (by decide +kernel : (okOf ((slotted 32).check (slotted 32).who .store (.scalar 8) 8 0xFE0000000000)).isSome = true)
    refine ⟨0, by decide, by decide +kernel, fun i h => absurd h (Nat.not_lt_zero i), .inr ⟨pa, h, ?_⟩⟩
    have k : (okOf ((slotted 32).check (slotted 32).who .store (.scalar 8) 8 0xFE0000000000)).map
      (fun pa => ((slotted 32).region (slotted 32).who.core pa).isBlock) = some true := by decide +kernel
    rw [h] at k
    exact Option.some.inj k

/-- Partition 0 at work, its first GiB mapped for U mode, seen from the first Orrery core. -/
def orrWork : State := { ((regs orr 0x3000 0x3008 0 7).withMap true) with cur := 3936 }

theorem witness_fw_others : (orr.setHart 3936 { orr.me with fwsig := 2 }).me.fwsig &&& 7 ≠ 0 ∧ orr.me.fwsig &&& 7 = 0 ∧
    orr.enabledPending orr.cur = 0 ∧
    ((orr.setHart 3936 { orr.me with park := some (.swait 1 7) }).hart 3936).park = some (.swait 1 7) ∧
    dispatchTarget orrWork 0 0 ∧ (∀ c, ¬ dispatchTarget orrWork 7 c) ∧ (orrWork.x 1).toNat % 64 = 0 ∧ (orrWork.x 2).toNat % 64 ≠ 0 ∧
    orrWork.dispRecord 0 0x3000 = some {} ∧ (dword orrWork 0x3000 2).dispRecord 0 0x3000 = none ∧
    (orrWork.core 0).inbox.length < 16 ∧ (orrWork.core 0).fenced = false ∧ (orrWork.core 0).absent = false ∧
    16 ≤ ((orrWork.setCore 0 { orrWork.core 0 with inbox := List.replicate 16 {} }).core 0).inbox.length ∧
    almanacSize (orr.complex 0) = 0 ∧ almanacSize { orr.complex 0 with fwalm := 0x800000E } = 2 ^ 14 ∧
    (goodOf ((orr.setComplex 0 { orr.complex 0 with fwalm := 0x800000E }).qcbLine 3936 0)).isSome = true ∧
    (goodOf ((orr.setComplex 0 { orr.complex 0 with fwalm := 0xFFFFF800000E }).qcbLine 3936 0)).isNone = true := by
  refine ⟨by decide +kernel, by decide +kernel, by decide +kernel, by decide +kernel, ?_, ?_, by decide +kernel⟩
  · unfold dispatchTarget; decide +kernel
  · rintro c ⟨h, -⟩; exact absurd h (by decide)

theorem witness_complex_registers : (orr.writeBackAll 0 (orr.complex 0).cache).1 = none ∧ (slotOfComplex orr 0 5).valid = false ∧
    (∀ u ∈ (orr.complex 0).slots.toList, u.valid = false ∨ u.qid ≠ 3) ∧ (slotOfComplex (slotted 1) 0 0).valid = true ∧
    (slotOfComplex (slotted 1) 0 0).kick ≠ (slotOfComplex (slotted 1) 0 0).cons ∧ codeOf 5 0 3 ≤ 5 ∧ 5 < codeOf 6 0 3 ∧
    (orr.complex 0).retry = [] ∧ (orr.setComplex 0 { orr.complex 0 with retry := [9] } |>.complex 0).retry = [9] ∧
    orr.hostPort 0 = true ∧ orr.hostPort 1 = false ∧ (0x2FFC001000 : Nat) % 4096 = 0 ∧ Memory.wf orr.mem = true := by decide +kernel

/-- An Almanac of 2^14 QCBs at 0x8000000 whose first is mapped in slot 0 for partition 0, with one record of a code unread. -/
def mappedQueue (code a b : Nat) : State :=
  let s := orrWork.setComplex 0 { withSlot (orrWork.complex 0) 0 { valid := true, page := 0x2FFC000000, kick := 1 } with
    fwalm := 0x800000E }
  dword (dword (dword (dword (dword s 0x8000000 0x8000000003) 0x8000010 0x2FFC000000) 0x2FFC000800 code) 0x2FFC000808 a) 0x2FFC000810 b
/-- The QCB of slot 0 as its core 3937 gets it, with the state after. -/
def served0 (s : State) : Option (Qcb × State) := goodOf (s.getQcb 3937 0)
/-- The record the slot's event serves: its QCB, its number and its words. -/
def recordOf (s : State) : Option (Nat × Word × Option (List Word)) :=
  (served0 s).bind (fun e => (e.2.nextRecord 3937 0 e.1).map (fun r => (e.1.id, r.1, goodOf r.2)))
/-- The state in which that record is taken. -/
def takenBy (s : State) : State := (((served0 s).map (·.2)).getD s).takeRecord 3937 0

theorem witness_records : recordOf orr = none ∧
    (served0 (orr.setComplex 0 { orr.complex 0 with fwalm := 0xFFFFF800000E })).isNone = true ∧ recordOf (mappedQueue 0 0 0) = some (0, 0, some [0, 0, 0, 0, 0, 0, 0, 0]) ∧
    recordOf (mappedQueue 1 0x3000 0) = some (0, 0, some [1, 0x3000, 0, 0, 0, 0, 0, 0]) ∧ recordOf (mappedQueue 9 0 0) = some (0, 0, none) ∧
    (takenBy (mappedQueue 1 0x3000 0)).coresFrom 0 0 ≠ [] ∧ (takenBy (mappedQueue 1 0x3000 0)).dispRecord 0 0x3000 = some {} ∧
    (okOf ((takenBy (mappedQueue 2 0x3000 5)).agentAmo ((takenBy (mappedQueue 2 0x3000 5)).whoAgent 0 []) 0x3000 8 (fun x => x + 5))).isSome = true ∧
    (takenBy (mappedQueue 3 4 0)).ownerOfAgent (6 * 0 + 4) = some 0 ∧ (takenBy (mappedQueue 3 4 0)).ownerOfAgent 23 = none ∧
    ((served0 (mappedQueue 0 0 0)).map (fun e => (goodOf ((e.2.takeRecord 3937 0).finishRecord 3937 e.1 0 1)).isSome)) = some true ∧
    (served0 (mappedQueue 0 0 0)).map (fun e => e.2.overfull) = some false := by decide +kernel

/-- The queue of `mappedQueue` in error, its kick with bit 63 set; in its slot, and in the command window. -/
def restarted (bits : Nat) (kick : Word) : State :=
  let s := dword (mappedQueue 0 0 0) 0x8000000 (0x8000000000 + bits)
  s.setComplex 0 (withSlot (s.complex 0) 0 { valid := true, page := 0x2FFC000000, kick := kick })

theorem witness_kickRestart : 0 < almanacSize ((restarted 4 0).complex 0) ∧ ((restarted 4 0).peekQcb 0 0).qstate = 4 ∧
    ((restarted 3 0).peekQcb 0 0).qstate ≠ 4 ∧
    (goodOf ((restarted 4 0).getQcb 3936 0)).map (fun e => (e.1.home, e.1.mapped)) = some (0, true) ∧
    (goodOf ((restarted 4 0x8000000000000000).getQcb 3936 0)).map (fun e => (slotOfComplex e.2 0 e.1.slot).kick.getLsbD 63) = some true ∧
    (goodOf ((restarted 4 0x8000000000000000).getQcb 3936 0)).map (fun e => (e.2.pageStore 3936 e.1.page 0x18 0 8).isSome) = some true := by
  decide +kernel

theorem witness_rounds_and_lodestar : (orr.hart 3936).fwsig = 0 ∧ ((orr.setHart 3936 { orr.me with fwsig := 1 }).hart 3936).fwsig ≠ 0 ∧
    (home.unserved 0)[0]? = none ∧ ((offered [7] [] []).unserved 0)[0]? = none ∧
    ((home.setCluster 0 { home.cluster 0 with pls := [⟨{ rec0 5 with lanes := 8 }, 0⟩] }).unserved 0)[0]? =
      some (none, { rec0 5 with lanes := 8 }) ∧
    (home.setHart 0 { home.me with task := { tclass := 2 } }).victim [0] 5 = some 0 ∧
    (home.setHart 0 { home.me with task := { tclass := 7 } }).victim [0] 5 = none ∧
    (goodOf (orr.slotFor 0 (orr.peekQcb 0 3))).map (·.1) = some (some 0) := by decide +kernel

end Sys2Proof.Tests

namespace Sys2Proof.Tests

open Sys2Proof Sys2Proof.Machine Sys2Proof.Spec

/-! ### Hypotheses that are met: saving and restoring -/

/-- Context 0 stopped for a save to the area at `a`, with registers and a pc. -/
def saving (a : Word) : State :=
  (regs home 7 8 9 10).setHart 0 { (regs home 7 8 9 10).hart 0 with
    ctxState := 2, saveReq := some (.save 0xF2), stopped := true, ctxarea := a }
/-- Context 0 restoring from an area of zeros that it remembers, or does not. -/
def restoring (at_ : Option Word) : State := home.setHart 0 { home.me with ctxState := 3, ctxarea := 0x100000, savedAt := at_ }

theorem witness_save : isCtx 0 = true ∧ ((saving 0x100000).hart 0).stopped = true ∧ (saving 0x100000).hasQueued 0 = false ∧
    ((saving 0x100000).hart 0).saveReq = some (.save 0xF2) ∧ fitsArea ((saving 0x100000).hart 0) ∧ Memory.wf (saving 0x100000).mem = true ∧
    (saving 0x100000).areaFault 0x100000 false = none ∧ (saving 0xFE0000000000).areaFault 0xFE0000000000 false = some 0xFE0000000000 ∧
    (home.hart 0).ctxState = 1 ∧ (home.hart 1).ctxState = 0 ∧ (home.hart 0).stopped = false ∧ (saving 0x100000).eventRoom 0 = true ∧
    (saving 0x100000).overfull = false ∧ areaFits (saving 0x100000) 0x100000 := by
  refine ⟨by decide +kernel, by decide +kernel, by decide +kernel, by decide +kernel, ?_, by decide +kernel, by decide +kernel,
    by decide +kernel, by decide +kernel, by decide +kernel, by decide +kernel, by decide +kernel, by decide +kernel, ?_⟩
  · unfold fitsArea; decide +kernel
  · exact ⟨by decide +kernel, Laws.linesFit_of_windowOff _ _ (by decide +kernel)⟩

/-- Where a window holds as many pending lines as it may, a save area in it has no room. -/
theorem witness_area_waits : (fullWindow home).overfull = false ∧ ¬ areaFits (fullWindow home) 0x100000 := by
  refine ⟨by simp [State.overfull, fullWindow, -List.reduceReplicate], fun h => ?_⟩
  have f := Laws.linesFit_of_full (fullWindow home) (linesOf 0x100000 0x20000) 0 0 0x4000 (by decide) (by decide)
    (by simp [linesOf, Laws.mem_upto]) (by simp [fullWindow, Window.adds, Window.holds, localOf, -List.reduceReplicate])
    (by simp [fullWindow, -List.reduceReplicate])
  rw [h.2] at f; cases f

/-- Harts of cluster 0 that Lodestar has pre-empted, on core 0 with no lanes, of classes 2, 5 and 5. -/
def preempted : State := home.setCluster 0 { home.cluster 0 with preempted :=
  [⟨0x100000, 0, 2, 0, 0, false, false⟩, ⟨0x200000, 0, 5, 0, 0, false, false⟩, ⟨0x300000, 0, 5, 0, 0, false, false⟩] }
theorem witness_resumes : (home.hart 3).ctxState = 0 ∧ home.resumes 3 = none ∧ home.lanes 3 = 0 ∧
    preempted.resumes 3 = some ⟨0x200000, 0, 5, 0, 0, false, false⟩ := by decide +kernel

theorem witness_restore : ((restoring (some 0x100000)).hart 0).ctxState = 3 ∧ ((restoring none).cluster 0).evWait = [] ∧
    refusedFor (restoring (some 0x100000)) 0 = none ∧ refusedFor (dword (restoring none) 0x1001A0 4) 0 = some 1 ∧
    refusedFor (dword (restoring none) 0x100100 0x200) 0 = some 4 ∧ refusedFor (dword (restoring none) 0x1001D0 0x500000001) 0 = some 5 ∧
    ((restoring none).hart 0).savedAt ≠ some 0x100000 ∧ (restoring none).maySwitch 0 = true ∧ ((restoring none).hart 0).deferred = [] ∧
    ((sent (.flying false)).maySwitch 0) = false ∧ (home.hart 0).ctxState ≠ 3 := by decide +kernel

/-- The save, the command and the restore that follow each other. -/
noncomputable def saved : State := next (exec (.saveComplete 0) (saving 0x100000)) home
noncomputable def commanded : State := next (exec (.ctxRestore ⟨0, false⟩) saved) home

theorem witness_saved_harts : ((saving 0x100000).hart 0).mode ≠ .m ∧ ((saving 0x100000).hart 0).x[0] = 0 ∧
    isNext (exec (.saveComplete 0) (saving 0x100000)) = true ∧ isNext (exec (.ctxRestore ⟨0, false⟩) saved) = true ∧
    saved.eventRoom 0 = true ∧ refusedFor commanded 0 = none ∧ isNext (exec (.restoreComplete 0) commanded) = true := by decide +kernel

/-- What is saved comes back (R331): `x1` and the pc. -/
theorem test_saved_hart_resumes : ((next (exec (.restoreComplete 0) commanded) home).hart 0).getX 1 = 7 ∧
    ((next (exec (.restoreComplete 0) commanded) home).hart 0).pc = 0x20000 := by decide +kernel

/-! ### Hypotheses that are met: service calls, errors, repair -/

/-- Context 0 gone into a service call of a code, saved at 0x100000, with its arguments. -/
def calling (code a0 a2 : Nat) : State :=
  let s := dword (dword (dword (home.withMap true) 0x100088 code) 0x100050 a0) 0x100060 a2
  s.setHart 0 { s.hart 0 with ctxState := 0, savedAt := some 0x100000, call := some 0x100000 }
/-- Partition 0's service has been lost with its hart. -/
def serviceLost (s : State) : State := s.setPart 0 { s.part 0 with svcLost := true }
/-- Partition 0 has context 1 as its service hart, or context 0. -/
def attachedTo (s : State) (k : Nat) : State :=
  (s.setPart 0 { s.part 0 with attached := true, svcHart := k, journal := 0x200000, wdlimit := 1, wdcnt := 1 }).setHart 1
    { s.hart 1 with ctxState := 1 }

theorem witness_service_calls : callWaits (calling 1 0x200000 9) 0 0 0x100000 1 ∧ (∀ q a code, ¬ callWaits home 0 q a code) ∧
    canReturn (calling 1 0x200000 9) 0 0x100000 ∧ callArg (calling 1 0x200000 9) 0x100000 0 = 0x200000 ∧
    codeOf (callArg (calling 1 0x200000 0) 0x100000 2) 0 8 = 0 ∧ codeOf (callArg (calling 1 0x200000 9) 0x100000 2) 0 8 = 9 ∧
    (attachedTo (calling 1 0x200000 9) 1).svcResident 0 = true ∧ serves (attachedTo (calling 2 0 0) 0) 0 0 ∧
    ¬ serves (attachedTo (calling 2 0 0) 1) 0 0 ∧ callWaits (calling 0x100 0 0) 0 0 0x100000 0x100 ∧ callWaits (calling 4 0 0) 0 0 0x100000 4 ∧
    ((calling 0x100 0 0).part 0).attached = false ∧ ((attachedTo (calling 0x100 0 0) 1).part 0).attached = true ∧
    ((attachedTo (calling 2 0 0) 0).svcReplyTo 0 0).isSome = true ∧
    (okOf ((calling 3 0 0).agentReads ((calling 3 0 0).whoAgent 0 []) 0 16)).isSome = true ∧
    (errOf ((calling 3 0 0).agentReads ((calling 3 0 0).whoAgent 0 []) 0x40000000 16)).isSome = true ∧
    almanacSize ((calling 3 0 0).complex 0) ≤ 0 ∧ (calling 1 0x200000 9).overfull = false ∧
    (calling 1 0x200000 9).windowOn = false := by
  refine ⟨?_, ?_, ⟨by decide +kernel, Or.inl ?_⟩, by decide +kernel, by decide +kernel, by decide +kernel, by decide +kernel, ?_, ?_, ?_, ?_, by decide +kernel⟩
  · unfold callWaits; decide +kernel
  · rintro q a code ⟨-, -, h, -⟩
    have n : (home.hart 0).call = none := by decide +kernel
    rw [n] at h; cases h
  · decide +kernel
  · unfold serves; decide +kernel
  · unfold serves; decide +kernel
  · unfold callWaits; decide +kernel
  · unfold callWaits; decide +kernel

/-- The journal of partition 0 holds an applied entry 0; a QCB of an Almanac is free. -/
def applied : State := dword (attachedTo (calling 2 0 0) 0) 0x200000 2
def qcbCall : State :=
  let s := calling 3 0 0
  s.setComplex 0 { s.complex 0 with fwalm := 0x800000E }

/-- A journal whose entry 0 is not applied, and one that cannot be read. -/
def unapplied : State := dword (attachedTo (calling 2 0 0) 0) 0x200000 1
def crossed : State := let s := attachedTo (calling 2 0 0) 0; s.setPart 0 { s.part 0 with journal := 0x40000000 }

theorem witness_replies : serves applied 0 0 ∧ canReturn applied 0 0x100000 ∧ ((applied.svcReplyTo 0 0).map (·.1)) = some 0 ∧
    ((applied.svcReplyTo 0 0).map (fun r => applied.addsWaiting r.2)) = some false ∧
    almanacSize (qcbCall.complex 0) = 16384 ∧ (goodOf (qcbCall.getQcb 3936 0)).map (fun r => r.1.qstate) = some 0 ∧
    (goodOf ((qcbCall.setComplex 0 { qcbCall.complex 0 with fwalm := 0xFFFFF800000E }).getQcb 3936 0)).isNone = true ∧
    ((unapplied.jRead 0 0).map (fun l => (l.getD 0 0).toNat % 256)) = some 1 ∧ ((crossed.jRead 0 0).isNone = true) := by
  refine ⟨?_, ⟨by decide +kernel, Or.inl ?_⟩, by decide +kernel, by decide +kernel, by decide +kernel, by decide +kernel, by decide +kernel⟩
  · unfold serves; decide +kernel
  · decide +kernel

theorem witness_watchdogs : (∀ q < 8, (home.part q).svcLost = false) ∧ ¬ serves home 0 0 ∧
    serves (attachedTo (calling 0 0 0) 1) 0 1 ∧ ((attachedTo (calling 0 0 0) 1).part 0).wdlimit.toNat ≤ ((attachedTo (calling 0 0 0) 1).part 0).wdcnt ∧
    home.overfull = false ∧ (State.restartService ((attachedTo (calling 0 0 0) 1).ctxEvent 1 1 0xD3 0) 0).isSome = true := by
  refine ⟨by decide +kernel, ?_, ?_, by decide +kernel, by decide +kernel, by decide +kernel⟩
  · unfold serves; decide +kernel
  · unfold serves; decide +kernel

/-- Core 0 fenced, and its Lodestar told; with its cluster's spare used up. -/
def broken (told used : Bool) : State :=
  let s := home.setCore 0 { home.core 0 with fenced := true, told := told }
  s.setCluster 0 { s.cluster 0 with spareUsed := used }

theorem witness_errors : Spec.present home 0 ∧ ¬ Spec.present (home.setCore 0 { home.core 0 with absent := true }) 0 ∧
    ¬ Spec.present (broken false true) 384 ∧ home.region none 0x3000 = .tier ∧ home.region none 0x5000000000 ≠ .tier ∧
    ((broken false false).core 0).fenced = true ∧ ((broken false false).core 0).told = false ∧ home.rangeOwner 0x3000 = some 0 ∧
    home.rangeOwner 0x50000000 = none ∧ home.region none 0x50000000 = .tier ∧ home.runs 0 = true ∧ isMach 0 = false ∧ home.partOf 0 = 0 ∧
    isMach 3888 = true ∧ (home.part 0).pstate = 2 ∧ home.eventRoom 0 = true ∧ home.firstCluster 0 = 0 ∧ home.windowOn = false ∧ 0 < ((offered [] [] [1]).cluster 0).pls.length ∧
    (flight (flying 2 [1] none [])).copy? 0 5 = some (flying 2 [1] none []) ∧
    (flying 2 [1] none []).left ≠ 0 ∧ (flying 2 [1] none []).stop = none ∧ (flying 2 [1] none []).ended = false := by
  refine ⟨?_, ?_, ?_, by decide +kernel⟩ <;> (unfold Spec.present; decide +kernel)

/-- A core that holds a record in its deque and its inbox and two messages, of another package and of this one. -/
def loaded : State :=
  home.setCore 0 { home.core 0 with deque := [rec0 0], inbox := [rec0 0], msgBuf := [foreignMail 0, mail 0 none 0] }

theorem witness_lost_entries : Spec.present loaded 0 ∧ ((loaded.core 0).msgBuf[0]?.map (·.srcPkg)) ≠ some loaded.pkg ∧
    ((loaded.core 0).msgBuf[1]?.map (fun m => (m.srcPkg, m.cpl))) = some (loaded.pkg, 0) ∧ 0 / 3 < (loaded.core 0).deque.length ∧
    1 / 3 < (loaded.core 0).inbox.length ∧ loaded.overfull = false := by
  unfold Spec.present; decide +kernel

/-- The message hart of core 1 runs a message of context 0. -/
def delivering : State := { holding [] (some ⟨mail 1 none 0, 0⟩) [] with cur := 3457 }

/-- A context, a message hart, a Lodestar and an Orrery core that read a line in error: the partition runs, agent 0 serves it. -/
theorem witness_partition_error : (home.part 0).pstate = 2 ∧ (home.part 1).pstate ≠ 2 ∧ isCtx home.cur = true ∧ isCtx 0 = true ∧
    (home.hart 0).ctxState = 1 ∧ (home.hart 0).ctxpart.toNat = 0 ∧ (home.hart 0).saveReq = none ∧ (home.hart 1).ctxState ≠ 1 ∧
    (serving 0 id).ownerOfAgent 0 = some 0 ∧ (queueOf (serving 0 id) 0 0).state = 1 ∧ (queueOf (serving 0 id) 0 1).state ≠ 1 ∧
    (serving 0 id).ownerOfAgent 23 ≠ some 0 ∧ isMsg delivering.cur = true ∧ (delivering.endMessage 1 4 0xB0).overfull = false ∧
    (delivering.endMessage 1 4 0xD5).overfull = false ∧ isMach lode.cur = true ∧ isMach orr.cur = true ∧ home.rangeOwner (localOf 0x3000) = some 0 ∧
    home.rangeOwner (localOf 0x50000000) = none ∧ home.eventRoom 0 = true ∧ ((lode.setCluster 0 { lode.cluster 0 with
      evq := List.replicate 256 { kind := 1 } }).eventRoom 0) = false := by decide +kernel

theorem witness_repair : ((broken true false).core 0).fenced = true ∧ ((broken true false).core 0).told = true ∧
    ((broken true false).cluster 0).evWait = [] ∧ ((broken true false).cluster 0).spareUsed = false ∧
    ((broken true false).core 384).fenced = false ∧ ((broken true true).cluster 0).spareUsed = true ∧ (home.core 0).fenced = false := by
  decide +kernel

/-! ### Hypotheses that are met: lifecycle, host, fabric, links -/

/-- Partition 1 unlocked, with one range of tier memory and a half-die. -/
def unlocked : State :=
  home.setPart 1 { home.part 1 with
    pown := 2, pmrbase := (home.part 1).pmrbase.set 0 0x80000000, pmrsize := (home.part 1).pmrsize.set 0 0x200000 }

theorem witness_lifecycle : (unlocked.part 1).pstate = 0 ∧ ¬ LockRefused unlocked 1 ∧
    LockRefused (unlocked.setPart 1 { unlocked.part 1 with pown := 1 }) 1 ∧ (home.part 0).pstate ≠ 0 ∧ (home.part 0).pstate ≠ 1 ∧
    ((home.setPart 0 { home.part 0 with pstate := 1 }).part 0).pstate = 1 ∧ inSomeRange unlocked 1 0x80000000 ∧
    unlocked.ownerOfCluster 6 = some 1 ∧ isCtx 0 = true ∧ (home.hart 0).ctxpart.toNat = 0 ∧
    ((home.setPart 1 { home.part 1 with pstate := 3 }).part 1).pstate ≠ 0 ∧
    (∀ e ∈ (home.setPart 1 { home.part 1 with pstate := 3 }).harts,
      ¬ (isCtx e.1 = true ∧ e.2.ctxpart.toNat = 1 ∧ (e.2.ctxState ≠ 0 ∨ e.2.savedAt ≠ none))) := by
  have e : rangesOf (unlocked.part 1) = [(0x80000000, 0x200000)] := by decide +kernel
  refine ⟨by decide +kernel, ?_, ?_, by decide +kernel, by decide +kernel, by decide +kernel, ⟨(0x80000000, 0x200000), ?_, by decide, by decide⟩,
    by decide +kernel, by decide +kernel, by decide +kernel, by decide +kernel, by decide +kernel⟩
  · rintro (h | ⟨a, ha, b, h, o⟩ | h)
    · rw [e] at h; exact h (List.pairwise_singleton ..)
    · rw [e] at ha
      cases List.mem_singleton.mp ha
      rcases h with h | h | h | h | h
      · subst h; exact absurd o (by unfold Overlap; decide)
      · obtain ⟨p, hp, v, hv, he, -⟩ := h
        exact absurd he ((by decide +kernel : ∀ p ∈ unlocked.parts.toList, ∀ v ∈ p.wins.toList, v.en ≠ true) p hp v hv)
      · obtain ⟨x, hx, he, -⟩ := h
        exact absurd he ((by decide +kernel : ∀ x ∈ unlocked.orr.toList, ¬ codeOf x.fwalm 0 5 ≠ 0) x hx)
      · obtain ⟨x, hx, -, h⟩ := h
        have hn := (by decide +kernel : ∀ x ∈ unlocked.harts, x.2.savedAt = none ∧ x.2.ctxarea = 0) x hx
        rcases h with ⟨c, h, -⟩ | ⟨h, -⟩
        · rw [hn.1] at h; cases h
        · exact h hn.2
      · obtain ⟨q, hq, hne, h⟩ := h
        have k := (by decide +kernel : ∀ q < 8, q ≠ 1 → ∀ b ∈ rangesOf (unlocked.part q), ¬ (0x80000000 < b.1 + b.2)) q hq hne b h
        exact k o.1
    · obtain ⟨q, hq, hne, h⟩ := h
      exact h ((by decide +kernel : ∀ q < 8, q ≠ 1 → (unlocked.part q).pown &&& (unlocked.part 1).pown = 0) q hq hne)
  · exact Or.inr (Or.inr ⟨0, by decide, by decide, by decide +kernel⟩)
  · rw [e]; exact List.mem_singleton.mpr rfl

/-- A page of partition 0's windows with a pending line at 0x1000000. -/
def pendingLine : State :=
  let w : Window := { en := true, base := 0x1000000, pages := 1, pending := [(0x40000, 5)] }
  home.setPart 0 { home.part 0 with wins := Vector.replicate 16 w }

theorem witness_host : hostAsks home 0 0x3000 ∧ ¬ hostAsks home 1 0x3000 ∧ HostServed home 0 ⟨some 0, true⟩ 0x3000 ∧ ¬ HostServed home 0 ⟨some 1, true⟩ 0x3000 ∧
    readsWell home 0x3000 ∧ ¬ readsWell { home with poisoned := [0xC0] } 0x3000 ∧ hostMark home 0 0x3000 = none ∧ hostAsks home 0 0x2FFC000000 ∧
    (∀ e ∈ pendingLines home, e.1 ≠ domainAt home 0x3000 / 64) ∧
    (pendingLines pendingLine).head? = some (0x40000, 5) ∧ domainAt pendingLine 0x1000000 / 64 = 0x40000 ∧ HostServed home 0 ⟨none, false⟩ 0x50000000 := by
  have r : home.rangeOwner 0x3000 = some 0 := by decide +kernel
  have n : home.rangeOwner 0x50000000 = none := by decide +kernel
  refine ⟨by unfold hostAsks; decide +kernel, by unfold hostAsks; decide +kernel, ?_, ?_, by unfold readsWell; decide +kernel,
    by unfold readsWell; decide +kernel, by decide +kernel, by unfold hostAsks; decide +kernel, by decide +kernel,
    by decide +kernel, by decide +kernel, ?_⟩
  · intro q h
    rw [r] at h
    cases h
    exact ⟨by decide +kernel, by decide +kernel, rfl, rfl⟩
  · intro h
    exact absurd (h 0 r).2.2.1 (by decide)
  · intro q h
    rw [n] at h; cases h

/-- Another package's partition of tenant 7, keyed and in RUN, and partition 0 the same tenant's. -/
def remote : State := { home.setPart 0 { home.part 0 with ptid := 7 } with
  remotes := [{ pkg := 1, ptid := 7, run := true, keyed := true }] }

theorem witness_pages_and_fabric : home.inTier 0x3000 = true ∧ (∀ p ∈ home.parts.toList, ∀ v ∈ p.wins.toList, v.holds 0x3000 = false) ∧
    (home.part 0).pstate = 2 ∧ home.inTier 0x5000000000 = false ∧ home.remotes[0 % 4096]? = none ∧ (remote.remotes[4096 % 4096]?).isSome = true ∧
    look remote.fabric 0 0 = 0 ∧ remote.routed = true ∧ remote.region none (domainAt remote 0x3000) = .tier ∧ remote.hostOwned .tier 0x3000 = false ∧
    (remote.part 0).ptid = 7 ∧ (remote.part 0).pstate = 2 ∧ remote.inRange 0 0x3000 = true ∧ remote.windowFull (domainAt remote 0x3000) = false ∧
    remote.overfull = false ∧ (∃ p ∈ windowed.parts.toList, ∃ v ∈ p.wins.toList, v.holds 0x1000000 = true) := by
  decide +kernel

/-- The party of package 1, and a line of `remote` in error. -/
def party1 : RemotePart := { pkg := 1, ptid := 7, run := true, keyed := true }
def remoteBad : State := { remote with badTags := [0xC0] }

theorem witness_remoteMay : remoteMay remote party1 0x3000 8 ∧ ¬ remoteMay remote party1 0x3001 8 ∧ readsWell remote 0x3000 ∧
    ¬ readsWell remoteBad 0x3000 ∧ remoteMay remoteBad party1 0x3000 8 ∧ (∀ q, remoteBad.eventRoom (remoteBad.firstCluster q) = true) ∧
    remoteWrite 5 7 (.store 8) = some 7 ∧ remoteWrite 5 7 (.load 8) = none ∧ remoteBad.rangeOwner 0x3000 = some 0 := by
  refine ⟨⟨by decide, by decide, by decide +kernel, by decide +kernel, rfl, rfl, by decide, 0, by decide, by decide +kernel⟩,
    fun h => absurd h.1 (by decide), by unfold readsWell; decide +kernel, by unfold readsWell; decide +kernel,
    ⟨by decide, by decide, by decide +kernel, by decide +kernel, rfl, rfl, by decide, 0, by decide, by decide +kernel⟩, ?_, rfl, rfl,
    by decide +kernel⟩
  intro q
  have h : remoteBad.clusters = [] := by decide +kernel
  simp [State.eventRoom, State.cluster, h, look]

/-- A message of package 1 for the message hart of core 1; and one of context 0 on its way to package 1. -/
def outMail : Msg := { mail 1 none 0 with dst := hlocOf 1 (ctxKey 1 0) }
def away : State := { (abroad home).setHart 0 { home.me with sendQ := [⟨outMail, .flying false⟩] } with outMsgs := [outMail] }

theorem witness_foreign_messages : (hlocOf 1 (ctxKey 0 0)).extractLsb' 12 6 = party1.pkg ∧
    BitVec.ofNat 6 (((hlocOf home.pkg (ctxKey 1 0)).setWidth 64 : Word).toNat / 2 ^ 12) = (abroad home).pkg ∧
    legalMsg (abroad home) [0x20000, 0x3100, 0, 0, 0, 0, 0, 0] ((hlocOf home.pkg (ctxKey 1 0)).setWidth 64) ∧
    (abroad home).overfull = false ∧ away.outMsgs.find? (fun m => m.src = 0 && m.dst = outMail.dst && m.seq = 0) = some outMail ∧
    (abroad home).outMsgs.find? (fun m => m.src = 0 && m.dst = outMail.dst && m.seq = 0) = none ∧
    outMail.dst.extractLsb' 12 6 = party1.pkg ∧ (mail 1 none 0).dst.extractLsb' 12 6 ≠ party1.pkg ∧ outMail.cpl = 0 ∧
    outMail.srcPkg = away.pkg ∧ outMail.trapping = false ∧ entriesOf away outMail = [⟨outMail, .flying false⟩] := by
  unfold legalMsg entriesOf; decide +kernel

/-- Link 0 keyed for partition 0. -/
def keyed : State := { home with links := home.links.set 0 ((home.link 0).modDir 1 (fun d => { d with keys := [(0, 9)] })) }
/-- Images whose stage n is not verified. -/
def imagesOf (n : Nat) : BootImages :=
  { verified := [n ≠ 1, n ≠ 2, n ≠ 3], version := [0, 0, 0], digest := [0, 0, 0], load := [[(0x3000, 5)], [], []], loaderPc := 0x3000, lodePc := 0x1000, orrPc := 0x2000 }

theorem witness_links_and_boot : (keyed.link 0).up = true ∧ (∃ e ∈ ((keyed.link 0).dir 1).keys, e.1 = 0) ∧ ((home.link 0).dir 1).keys = [] ∧
    5 ∈ (home.link 15).lanes ∧ ((remote.part 0).ptid ≠ 0 ∧ (remote.part 0).pstate = 2) ∧ (home.part 0).ptid = 0 ∧ State.reset.boot = .off ∧
    (∀ i < 4, 1 ≤ i → stageRuns State.reset (imagesOf 0) i) ∧ ¬ stageRuns State.reset (imagesOf 2) 2 ∧ stageRuns State.reset (imagesOf 2) 1 ∧
    orr.boot ≠ .off := by
  refine ⟨by decide +kernel, by decide +kernel, by decide +kernel, by decide +kernel, by decide +kernel, by decide +kernel, by decide +kernel,
    ?_, ?_, ?_, by decide +kernel⟩ <;> (unfold stageRuns; decide +kernel)

end Sys2Proof.Tests

namespace Sys2Proof.Tests

open Sys2Proof Sys2Proof.Machine Sys2Proof.Spec

/-! ### Single steps, by hand from the rules -/

/-- `x1` after an instruction. -/
noncomputable def x1 (s : State) (i : Instr) : Word := (next (exec i s) s).me.getX 1
/-- Elements of `v1` after an instruction. -/
noncomputable def v1 (s : State) (w : Nat) (i : Instr) : List Word := (List.range 4).map ((next (exec i s) s).velem 1 w)
/-- Four lanes and a type, with the elements of `v2` and `v3` given. -/
def pair (vt : Word) (w : Nat) (a b : List Word) : State :=
  let s := (a.zipIdx).foldl (fun s e => s.setVelem 2 w e.2 e.1) (lanes home vt 4)
  (b.zipIdx).foldl (fun s e => s.setVelem 3 w e.2 e.1) s

/-- R95: division by zero, signed overflow, and the W forms, which read and sign-extend the low words. -/
theorem test_division_corners : x1 (regs home 0 7 0 0) (.div 1 2 3) = 0xFFFFFFFFFFFFFFFF ∧ x1 (regs home 0 7 0 0) (.rem 1 2 3) = 7 ∧
    x1 (regs home 0 0x8000000000000000 0xFFFFFFFFFFFFFFFF 0) (.div 1 2 3) = 0x8000000000000000 ∧
    x1 (regs home 0 0x8000000000000000 0xFFFFFFFFFFFFFFFF 0) (.rem 1 2 3) = 0 ∧
    x1 (regs home 0 0x180000000 0xFFFFFFFF 0) (.divw 1 2 3) = 0xFFFFFFFF80000000 ∧
    x1 (regs home 0 0xFFFFFFFF80000005 0 0) (.remuw 1 2 3) = 0xFFFFFFFF80000005 ∧
    x1 (regs home 0 9 0 0) (.divu 1 2 3) = 0xFFFFFFFFFFFFFFFF := by decide +kernel
/-- R93, R94: wraps, signs and high products. -/
theorem test_arithmetic : x1 (regs home 0 0x7FFFFFFFFFFFFFFF 0 0) (.addi 1 2 1) = 0x8000000000000000 ∧
    x1 (regs home 0 0x80000000 0 0) (.addiw 1 2 0xFFF) = 0x7FFFFFFF ∧ x1 (regs home 0 0x80000000 4 0) (.sraw 1 2 3) = 0xFFFFFFFFF8000000 ∧
    x1 (regs home 0 0xFFFFFFFFFFFFFFFF 1 0) (.slt 1 2 3) = 1 ∧ x1 (regs home 0 0xFFFFFFFFFFFFFFFF 1 0) (.sltu 1 2 3) = 0 ∧
    x1 (regs home 0 0xFFFFFFFFFFFFFFFF 0xFFFFFFFFFFFFFFFF 0) (.mulh 1 2 3) = 0 ∧
    x1 (regs home 0 0xFFFFFFFFFFFFFFFF 0xFFFFFFFFFFFFFFFF 0) (.mulhsu 1 2 3) = 0xFFFFFFFFFFFFFFFF ∧
    x1 (regs home 0 0xFFFFFFFFFFFFFFFF 0xFFFFFFFFFFFFFFFF 0) (.mulhu 1 2 3) = 0xFFFFFFFFFFFFFFFE ∧
    x1 home (.auipc 1 0x80000) = 0xFFFFFFFF80020000 := by decide +kernel
/-- R97: byte order and extension; R211: an AMO gives the old value. -/
theorem test_loads_and_atomics : x1 (dword (regs home 0 0x3000 0 0) 0x3000 0x80FF7F01) (.lb 1 2 3) = 0xFFFFFFFFFFFFFF80 ∧
    x1 (dword (regs home 0 0x3000 0 0) 0x3000 0x80FF7F01) (.lhu 1 2 0) = 0x7F01 ∧
    x1 (dword (regs home 0 0x3000 0 0) 0x3000 0x80FF7F01) (.lw 1 2 0) = 0xFFFFFFFF80FF7F01 ∧
    x1 (dword (regs home 0 0x3000 5 0) 0x3000 0x80000000) (.amoadd 1 2 3 0 0 2) = 0xFFFFFFFF80000000 ∧
    Memory.read (next (exec (.amoadd 1 2 3 0 0 2) (dword (regs home 0 0x3000 5 0) 0x3000 0x80000000)) home).mem 0x3000 4 = 0x80000005 := by
  decide +kernel
/-- R322, R323: a trap saves the address and the cause; `sret` returns to it. -/
theorem test_traps : (next (exec .ecall user) user).me.sc.sepc = 0x20000 ∧
    (next (exec .ecall user) user).me.sc.scause = 0x08 ∧ (next (exec .ecall user) user).me.mode = .s ∧
    (next (exec .sret (next (exec .ecall user) user)) user).me.mode = .u ∧ (next (exec .sret (next (exec .ecall user) user)) user).me.pc = 0x20000 := by
  decide +kernel

/-- R116: modulo 2^SEW; R118: one rounding to nearest even. -/
theorem test_vector_arithmetic : v1 (pair 0x00 8 [0xFF, 1, 2, 3] [1, 1, 1, 1]) 8 (.vaddVv 1 2 3 0 0 0) = [0, 2, 3, 4] ∧
    v1 (pair 0x00 8 [0x80, 7, 9, 0xF9] [0xFF, 0, 2, 2]) 8 (.vdivVv 1 2 3 0 0 0) = [0x80, 0xFF, 4, 0xFD] ∧
    v1 (pair 0x22 32 [0x3F800000, 0x7F7FFFFF, 0x3F800000, 0x7F800000] [0x33800000, 0x7F7FFFFF, 0x33800001, 0xFF800000]) 32
      (.vfaddVv 1 2 3 0 0 0) = [0x3F800000, 0x7F800000, 0x3F800001, 0x7FC00000] := by decide +kernel
/-- R124: slides and gathers. -/
theorem test_vector_permutes : v1 (pair 0x02 32 [1, 2, 3, 4] []) 32 (.vslide1up 1 2 0 0 0) = [0, 1, 2, 3] ∧
    v1 (pair 0x02 32 [1, 2, 3, 4] [3, 0, 9, 2]) 32 (.vrgather 1 2 3 0 0 0) = [4, 1, 0, 3] ∧
    v1 (pair 0x02 32 [] []) 32 (.vid 1 0) = [0, 1, 2, 3] := by decide +kernel

end Sys2Proof.Tests

namespace Sys2Proof.Tests

open Sys2Proof Sys2Proof.Machine Sys2Proof.Machine.Gydas

/-! ### gydas and gydld -/


/-- The words of one line without symbols. -/
noncomputable def wordsOf (l : String) : Option (List W32) :=
  let (w, r) := cutWord (txt l)
  match operands r with
  | some os => (code (Env.ev ⟨[], []⟩) w os).map (·.map (·.word))
  | none => none
/-- The value of an absolute expression. -/
def valueOf (e : String) : Option Word :=
  match lex (txt e) with
  | some ts => match (parse ts).bind (Env.ev ⟨[], []⟩) with
    | some ⟨none, v⟩ => some v
    | _ => none
  | none => none

/-- The worked encodings of R58's chapter. -/
theorem test_gydas_worked : wordsOf "vfmacc.vv v3, sv2, v1:c, v0.t" = some [0x4720B1D7] ∧
    wordsOf "amoadd.d.aqrl.dev a0, a1, (a2)" = some [0x06B6752F] ∧ wordsOf "aq.notify.dev a0, a1" = some [0x80B5300B] ∧
    wordsOf "mopa acc1, v4, sv0" = some [0x1102102B] := by decide +kernel
/-- R60, R62: what gydas rejects; R218's program and R105 give the words. -/
theorem test_gydas_suffixes : wordsOf "amoadd.d.hart a0, a1, (a2)" = none ∧ wordsOf "task.exit.dev" = none ∧
    wordsOf "lw.aq a0, 0(a1)" = none ∧ wordsOf "vfsqrt v2, v0, v1" = none ∧ wordsOf "vadd.vi v1, v2, 16" = none ∧
    wordsOf "sfence.vma a0, a1" = some [0x12B50073] ∧ wordsOf "vappend v2, (a3), v0.t" = some [0xB226F05B] := by decide +kernel
/-- R63: pseudo-instructions. -/
theorem test_gydas_pseudo : wordsOf "nop" = some [0x00000013] ∧ wordsOf "pause" = some [0x0100000F] ∧
    wordsOf "li t2, 2" = some [0x00200393] ∧ wordsOf "li a0, 0x12345FFF" = some [0x12346537, 0xFFF5051B] ∧
    wordsOf "li a0, 0x80000000" = none ∧ wordsOf "ret" = some [0x00008067] := by decide +kernel
/-- R59: precedence, signed division and shift, errors. -/
theorem test_gydas_expressions : valueOf "1 | 2 + 3 * 4 << 1 & 0x1C" = some 29 ∧ valueOf "-7 / 2" = some (-3) ∧
    valueOf "-8 >> 1" = some (-4) ∧ valueOf "~0b101 + 1" = some (-5) ∧ valueOf "1 / 0" = none ∧ valueOf "1 << 64" = none := by
  decide +kernel
/-- R369: the longest run after a backslash is the name, and `\()` ends it. -/
theorem test_gydas_substitution :
    substitute [(txt "a", txt "vadd")] 20 (txt "\\a\\().vv v1") = some (txt "vadd.vv v1") ∧
    substitute [(txt "a", txt "vadd")] 20 (txt "\\a.vv") = none ∧ substitute [(txt "e", txt "1")] 20 (txt "\\ea") = none := by
  decide +kernel
/-- R64: zero bytes to a multiple of 4, then `nop` words. -/
theorem test_gydas_padding : padding true 5 3 = [0, 0, 0] ∧ padding true 6 3 = [0, 0] ∧
    padding true 9 4 = [0, 0, 0, 0x13, 0, 0, 0] ∧ padding false 9 4 = [0, 0, 0, 0, 0, 0, 0] := by decide +kernel
/-- R69: the message of the manual's example. -/
theorem test_gydld_message : Rel.branch.fits 0x10004 = false ∧
    (LinkError.reloc .branch (txt ".text") 0x1C (.named (txt "loop_top")) (some 0x10004)).message =
      txt "gydld: KL_BRANCH at .text+0x1C against loop_top: value 0x10004 does not fit" := by decide +kernel

/-- The end of the loop of the issue-trace program, its branch 28 bytes back. -/
def dotLoop : List Text :=
  [txt "        .lanes  0", txt "        .task   dot2", txt "dot2:   li      t2, 2       ; I1", txt "        li      a2, 0",
   txt "loop:   ld      t0, 0(a0)", txt "        .zero   20", txt "        pause", txt "        bne     t2, x0, loop"]
/-- An object as a linked image. -/
noncomputable def linked (l : List Text) : Option (List (Word × List Byte)) :=
  match assemble l with
  | some o => match link [⟨o, [(txt ".text", 0x1000), (txt ".data", 0x2000), (txt ".rodata", 0x3000), (txt ".bss", 0x4000),
      (tasksName, 0x5000)]⟩] with
    | .ok out => some out
    | .error _ => none
  | none => none
/-- The words of the program's table, and R66: the task table's entry. -/
theorem test_gydas_program : (linked dotLoop).map (fun l => (l.map (fun o => ofBytes (o.2.take 4)),
      (l.head?.map (fun o => ofBytes (o.2.drop 32))), l.getLast?.map (·.2))) =
    some ([0x00200393, 0, 0, 0, 0x1000], some 0xFE0392E30100000F,
      some [0x00, 0x10, 0, 0, 0, 0, 0, 0, 0, 0, 0, 0, 0, 0, 0, 0]) := by decide +kernel

/-- LiAndRelocationsLeaveTheirValue: one value of each form. -/
theorem witness_li : (liWords 5 (-2048)).map (·.length) = some 1 ∧ (liWords 5 (-2 ^ 31)).map (·.length) = some 2 ∧
    (liWords 5 2048).map (·.length) = some 2 ∧ liWords 5 (2 ^ 31) = none := by decide +kernel
/-- LiAndRelocationsLeaveTheirValue: the ends of the ranges. -/
theorem witness_fits : Rel.branch.fits (-4096) = true ∧ Rel.jal.fits (2 ^ 20 - 4) = true ∧
    Rel.pcrelHi20.fits (2 ^ 31 - 2 ^ 11 - 1) = true ∧ Rel.hi20.fits (-2 ^ 31 - 2 ^ 11) = true ∧
    Rel.call.fits (-2 ^ 31 - 2 ^ 11) = true ∧ Rel.abs32.fits (2 ^ 32 - 1) = true := by decide +kernel

/-- Objects of one section: with a branch to a symbol, and with Xlfw and Xlgfx. -/
def oneBranch (v : Word) : Placed :=
  ⟨⟨0, [⟨txt ".text", true, 4, [0x63, 0, 0, 0]⟩], [⟨txt "far", .abs v, false⟩], [⟨txt ".text", 0, .branch, .named (txt "far"), 0⟩], []⟩,
    [(txt ".text", 0x1000)]⟩
def bothKinds : Placed := ⟨⟨20, [], [], [], []⟩, []⟩
/-- What the linker makes of its branch: the value, and whether it is rejected. -/
def answer (v : Word) (n : String) : Option Int × Bool :=
  match fieldValue [oneBranch v] (oneBranch v) ⟨txt ".text", 0, .branch, .named (txt n), 0⟩ with
  | .ok x => (some x, false)
  | .error x => (x, true)
/-- LinkingRejectsWhatDoesNotFit: a branch in range, one out of range, an undefined symbol, and the flags. -/
theorem witness_link : answer 0x1010 "far" = (some 0x10, false) ∧ answer 0x9000 "far" = (some 0x8000, true) ∧
    answer 0 "near" = (none, true) ∧ refDef [oneBranch 0] (oneBranch 0) (.named (txt "near")) = none ∧
    bothKinds.obj.eFlags &&& 20 = 20 ∧ (oneBranch 0).addr (txt ".text") 0 = some 0x1000 := by decide +kernel
theorem witness_laidOut : Spec.laidOut [oneBranch 0] ∧ (∃ p ∈ [bothKinds], p.obj.eFlags &&& 20 = 20) ∧
    (∀ p ∈ [oneBranch 0], p.obj.eFlags &&& 20 ≠ 20) := by
  refine ⟨?_, ⟨_, List.mem_singleton.mpr rfl, by decide +kernel⟩, fun p h => ?_⟩
  · intro p hp s hs
    cases List.mem_singleton.mp hp
    cases List.mem_singleton.mp hs
    refine ⟨⟨0x1000, by decide +kernel⟩, fun r hr => ?_⟩
    cases List.mem_singleton.mp hr.1
    decide +kernel
  · cases List.mem_singleton.mp h
    decide +kernel

/-- R65: the identification, the machine and `e_flags` of an object's header; R68: the record of its relocation. -/
theorem test_elf : ((oneBranch 0).obj.elf.take 6, ((oneBranch 0).obj.elf.drop 18).take 2) =
      ([0x7F, 0x45, 0x4C, 0x46, 2, 1], [0x4C, 0x4B]) ∧ ((bothKinds.obj.elf.drop 48).take 4) = [20, 0, 0, 0] ∧
    ((oneBranch 0).obj.rels.map (fun r => r.record 3)) =
      [[0, 0, 0, 0, 0, 0, 0, 0, 3, 0, 0, 0, 3, 0, 0, 0, 0, 0, 0, 0, 0, 0, 0, 0]] := by decide +kernel

end Sys2Proof.Tests
end

namespace Sys2Proof.Proofs.Encoding

open Sys2Proof.Machine Sys2Proof.Spec

/-! ### Words of other lengths (R40) -/

theorem decode_halfword (fw : Bool) (w : W32) (h : w.extractLsb' 0 2 ≠ 3) : decode fw w = .error .halfword := by
  rw [decode, if_pos h]

/-- Bits [1:0] are the low bits of any longer field that begins at bit 0. -/
theorem low2_of_low {n : Nat} (w : W32) (h : 2 ≤ n) : w.extractLsb' 0 2 = (w.extractLsb' 0 n).extractLsb' 0 2 := by
  ext i hi
  have : i < n := by omega
  simp [BitVec.getElem_extractLsb', this]

/-- A word marked as 48-bit or wider is rejected as such: its low bits are 11, so it is no 16-bit encoding. -/
theorem decode_wide (fw : Bool) (w : W32) (h : w.extractLsb' 0 5 = 31 ∨ w.extractLsb' 0 7 = 0x3F) :
    decode fw w = .error .wide := by
  have low : w.extractLsb' 0 2 = 3 := by
    rcases h with h5 | h7
    · rw [low2_of_low w (n := 5) (by decide), h5]; decide
    · rw [low2_of_low w (n := 7) (by decide), h7]; decide
  rw [decode, if_neg (not_not_intro low), if_pos h]

/-- The words R40 gives no meaning: those marked as of another length, the all-zeros word and the all-ones word. -/
def NoInstruction (w : W32) : Prop :=
  w.extractLsb' 0 2 ≠ 3 ∨ w.extractLsb' 0 5 = 31 ∨ w.extractLsb' 0 7 = 0x3F ∨ w = 0 ∨ w = 0xFFFFFFFF

theorem decode_noInstruction (fw : Bool) (w : W32) (h : NoInstruction w) : ∃ e, decode fw w = .error e := by
  rcases h with h2 | h5 | h7 | rfl | rfl
  · exact ⟨_, decode_halfword fw w h2⟩
  · exact ⟨_, decode_wide fw w (.inl h5)⟩
  · exact ⟨_, decode_wide fw w (.inr h7)⟩
  · exact ⟨_, decode_halfword fw 0 (by decide)⟩
  · exact ⟨_, decode_wide fw 0xFFFFFFFF (.inl (by decide))⟩

/-! ### A hart at its instruction -/

/-- `due` decides whether a boundary event comes first (R326). -/
theorem boundary_eq_none (s : State) (k : Nat) : s.boundary k = none ↔ s.due k = none := by
  unfold State.boundary
  cases s.due k with
  | none => simp
  | some d => cases d <;> simp

theorem atInstr_iff (s : State) (k : Nat) :
    s.atInstr k = true ↔ s.runs k = true ∧ s.due k = none ∧ s.idles k = false := by
  simp [State.atInstr, ← boundary_eq_none, and_assoc]

theorem ready_iff (s : State) (k : Nat) : s.ready k = true ↔ s.atInstr k = true ∧ s.heldBy k = none := by
  simp [State.ready]

theorem instrStep_of_underLimit (s : State) (k : Nat) (h : underLimit s k) : instrStep s k = fetchStep s k := by
  rw [instrStep, if_neg]
  simp only [Bool.and_eq_true]
  rintro ⟨hm, hc⟩
  split at hc
  · next r hr => exact absurd (h hm r hr) (by simpa using hc)
  · cases hc

theorem hartStep_of_atInstr (s : State) (k : Nat) (h : s.atInstr k = true) (hl : underLimit s k) :
    hartStep s k = fetchStep s k := by
  obtain ⟨runs, due, idles⟩ := (atInstr_iff s k).mp h
  simp [hartStep, runs, (boundary_eq_none s k).mpr due, idles, instrStep_of_underLimit s k hl]

/-- The cores agree in all that decides whether one of their harts is at its instruction: they differ at most in what
the issue slot remembers (R275, R276, R278). -/
structure CoreAgrees (x y : Core) : Prop where
  fenced : y.fenced = x.fenced
  absent : y.absent = x.absent
  running : y.running = x.running
  cycle : y.cycle = x.cycle
  vlpWait : y.vlpWait = x.vlpWait

theorem CoreAgrees.refl (x : Core) : CoreAgrees x x := ⟨rfl, rfl, rfl, rfl, rfl⟩

theorem CoreAgrees.trans {x y z : Core} (h : CoreAgrees x y) (g : CoreAgrees y z) : CoreAgrees x z :=
  ⟨g.fenced.trans h.fenced, g.absent.trans h.absent, g.running.trans h.running, g.cycle.trans h.cycle,
    g.vlpWait.trans h.vlpWait⟩

theorem CoreAgrees.msgWait (x : Core) (n : Nat) : CoreAgrees x { x with msgWait := n } := ⟨rfl, rfl, rfl, rfl, rfl⟩

theorem CoreAgrees.issued (x : Core) (h : Nat) (ready : List Nat) (m : Bool) :
    CoreAgrees x ((x.issued h ready).msgWaits m) := by
  unfold Core.issued Core.msgWaits
  split <;> exact ⟨rfl, rfl, rfl, rfl, rfl⟩

/-- The states agree in all that decides whether hart `k` is at its instruction. -/
structure AgreeFor (k : Nat) (s t : State) : Prop where
  hart : t.hart k = s.hart k
  clusters : t.clusters = s.clusters
  boot : t.boot = s.boot
  core : ∀ c, CoreAgrees (s.core c) (t.core c)

namespace AgreeFor

variable {k : Nat} {s t : State}

theorem refl (k : Nat) (s : State) : AgreeFor k s s := ⟨rfl, rfl, rfl, fun _ => .refl _⟩

theorem setCore (a : AgreeFor k s t) {c : Nat} {x : Core} (h : CoreAgrees (t.core c) x) :
    AgreeFor k s (t.setCore c x) where
  hart := a.hart
  clusters := a.clusters
  boot := a.boot
  core d := by
    rw [State.core_setCore]
    split
    · next e => exact e ▸ (a.core c).trans h
    · exact a.core d

theorem setHart (a : AgreeFor k s t) {j : Nat} (x : Hart) (ne : k ≠ j) : AgreeFor k s (t.setHart j x) :=
  { a with hart := by rw [State.hart_setHart, if_neg ne, a.hart] }

theorem runs_eq (a : AgreeFor k s t) : t.runs k = s.runs k := by
  obtain ⟨fenced, absent, running, -, -⟩ := a.core (coreOf k)
  simp only [State.runs, a.hart, a.boot, fenced, absent, running]

theorem pending_eq (a : AgreeFor k s t) : t.pending k = s.pending k := by
  unfold State.pending State.cluster
  rw [a.hart, a.clusters, (a.core (coreOf k)).cycle]

theorem due_eq (a : AgreeFor k s t) : t.due k = s.due k := by
  have interrupt : t.nextInterrupt k = s.nextInterrupt k := by
    unfold State.nextInterrupt State.enabledPending
    rw [a.hart, a.pending_eq]
  simp only [State.due, a.hart, interrupt]

theorem idles_eq (a : AgreeFor k s t) : t.idles k = s.idles k := by
  simp only [State.idles, a.hart, (a.core _).vlpWait]

theorem atInstr (a : AgreeFor k s t) (h : s.atInstr k = true) : t.atInstr k = true := by
  rw [atInstr_iff] at h ⊢
  rwa [a.runs_eq, a.due_eq, a.idles_eq]

theorem underLimit (a : AgreeFor k s t) (h : underLimit s k) : Spec.underLimit t k :=
  fun hm r hr => h hm r ((a.core _).running ▸ hr)

end AgreeFor

/-! ### The issue slot (R274 to R278) -/

/-- What holds of `s`, and still holds after a hart that cannot issue at `s` is put in its stall, holds after `markStalls`. -/
theorem markStalls_induct (s : State) (c : Nat) (P : State → Prop) (init : P s)
    (mark : ∀ t k w, P t → s.heldBy k = some w → P (t.modHart k (fun x => { x with stall := some w }))) :
    P (s.markStalls c) := by
  unfold State.markStalls
  refine List.foldlRecOn _ _ init fun t ht h _ => ?_
  dsimp only
  split
  · split
    · next w hw => exact mark t _ w ht hw
    · exact ht
  · exact ht

/-- Marking the stalls of a core leaves a hart that can issue as it was. -/
theorem markStalls_agree (s : State) (c k : Nat) (h : s.heldBy k = none) : AgreeFor k s (s.markStalls c) :=
  markStalls_induct s c (AgreeFor k s) (.refl k s) fun t j w a hj =>
    a.setHart _ (by rintro rfl; rw [h] at hj; cases hj)

/-- A fold that each time keeps its choice or takes the element it looks at chooses an element of the list. -/
theorem mem_of_foldl_choice {f : Option Nat → Nat → Option Nat} (hf : ∀ b g i, f b g = some i → b = some i ∨ g = i)
    (l : List Nat) : ∀ i, l.foldl f none = some i → i ∈ l :=
  List.foldlRecOn (motive := fun b => ∀ i, b = some i → i ∈ l) l f (by simp) fun b ih g hg i e =>
    (hf b g i e).elim (ih i) (fun e => e ▸ hg)

/-- The policy picks a ready context (R275, R276). -/
theorem pick_mem {x : Core} {ready : List Nat} {h : Nat} (hp : x.pick ready = some h) : h ∈ ready := by
  have found {l : List Nat} (e : l.find? (ready.contains ·) = some h) : h ∈ ready := by
    simpa using List.find?_some e
  unfold Core.pick at hp
  split at hp
  · exact found hp
  · dsimp only at hp
    split at hp
    · next i passedOver =>
      cases hp
      refine mem_of_foldl_choice (fun b g i e => ?_) ready h passedOver
      split at e <;> split at e <;> simp_all
    · split at hp
      · next g _ =>
        split at hp
        · next hg => cases hp; exact List.contains_iff_mem.mp hg
        · exact found hp
      · exact found hp

theorem ready_of_pick {s : State} {c h : Nat} (hp : (s.core c).pick (s.readyOf c) = some h) :
    s.ready (ctxKey c h) = true := (List.mem_filter.mp (pick_mem hp)).2

/-! ### A turn in which a hart issues -/

/-- A hart that can issue executes its instruction once the slot has marked the stalls and kept what it remembers. -/
theorem hartStep_of_ready {s : State} {c k : Nat} {x : Core} (hr : s.ready k = true) (hl : underLimit s k)
    (hx : CoreAgrees ((s.markStalls c).core c) x) :
    hartStep ((s.markStalls c).setCore c x) k = fetchStep ((s.markStalls c).setCore c x) k := by
  obtain ⟨atInstr, free⟩ := (ready_iff s k).mp hr
  have agree := (markStalls_agree s c k free).setCore hx
  exact hartStep_of_atInstr _ k (agree.atInstr atInstr) (agree.underLimit hl)

/-- The cycle goes to the message hart (R278). -/
theorem issueSlot_message {s : State} {c : Nat} (hl : underLimit s (msgKey c)) (hr : s.ready (msgKey c) = true)
    (hw : 64 ≤ (s.core c).msgWait ∨ (s.core c).pick (s.readyOf c) = none) :
    issueSlot s c = fetchStep ((s.markStalls c).setCore c { (s.markStalls c).core c with msgWait := 0 }) (msgKey c) := by
  rw [← hartStep_of_ready hr hl (.msgWait _ 0)]
  unfold issueSlot
  simp only [hr, Bool.true_and, decide_eq_true_eq, if_true]
  rcases hw with hw | hw
  · rw [if_pos hw]; rfl
  · rw [hw]; split <;> rfl

/-- The cycle goes to the context the policy picks (R275, R276). -/
theorem issueSlot_context {s : State} {c h : Nat} (hl : underLimit s (ctxKey c h))
    (hm : ¬ (s.ready (msgKey c) = true ∧ 64 ≤ (s.core c).msgWait)) (hp : (s.core c).pick (s.readyOf c) = some h) :
    issueSlot s c = fetchStep ((s.markStalls c).setCore c
      ((((s.markStalls c).core c).issued h (s.readyOf c)).msgWaits (s.ready (msgKey c)))) (ctxKey c h) := by
  rw [← hartStep_of_ready (ready_of_pick hp) hl (.issued ..)]
  unfold issueSlot
  simp only [Bool.and_eq_true, decide_eq_true_eq]
  rw [if_neg hm, hp]
  rfl

/-- `issues` says which hart executes in a turn, and in which state. -/
theorem turn_of_issues {s t : State} {j k : Nat} (h : issues s j k t) : turn s j = fetchStep t k := by
  obtain ⟨hl, h⟩ := h
  unfold turn
  by_cases hj : isMach j = true
  · rw [if_pos hj] at h
    obtain ⟨rfl, rfl, runs, due, idles⟩ := h
    rw [hj, Bool.true_or, if_pos rfl]
    exact hartStep_of_atInstr _ _ ((atInstr_iff _ _).mpr ⟨runs, due, idles⟩) hl
  · rw [if_neg hj] at h
    obtain ⟨hb, h⟩ := h
    have slot : ¬ (isMach j || (s.runs j && (s.boundary j).isSome)) = true := by
      simpa [hj, ← boundary_eq_none, Option.isSome_iff_ne_none] using hb
    rw [if_neg slot]
    rcases h with ⟨rfl, hr, hw, rfl⟩ | ⟨hm, i, hp, rfl, rfl⟩
    · exact issueSlot_message hl hr hw
    · exact issueSlot_context hl hm hp

/-- A step in which hart `k` issues fetches, decodes and executes its next instruction. -/
theorem step_of_issues {s t : State} {rest : List Move} {j k : Nat} (ha : s.agenda = .issue j :: rest)
    (h : issues { s with agenda := rest } j k t) : step s = fetchStep t k := by
  rw [step, ha]
  exact turn_of_issues h

/-- A word that does not decode raises 0x02 with its bits (R40, R323). -/
theorem fetchStep_of_rejected {s : State} {k : Nat} {w : W32} {e : Reject} (hf : s.fetch k = .ok w)
    (hd : decode (isOrr k) w = .error e) : fetchStep s k = takeTrap ⟨0x02, w.setWidth 64⟩ (s.fetched k w) := by
  rw [fetchStep, hf]
  show runWord _ k w = _
  rw [runWord, hd]
  rfl

theorem wordsOfOtherLengthsAreRejected : WordsOfOtherLengthsAreRejected := by
  refine ⟨decode_halfword, fun fw w h => decode_wide fw w (.inl h), fun fw w h => decode_wide fw w (.inr h),
    fun fw => ⟨⟨_, decode_halfword fw 0 (by decide)⟩, ⟨_, decode_wide fw 0xFFFFFFFF (.inl (by decide))⟩⟩, ?_⟩
  intro s t rest j k w ha hi hf hw
  obtain ⟨e, hd⟩ := decode_noInstruction (isOrr k) w hw
  rw [step_of_issues ha hi, fetchStep_of_rejected hf hd]

/-! ### The worked encodings -/

theorem workedEncodingsDecode : WorkedEncodingsDecode := by
  intro e he
  simp only [workedWords, List.mem_cons, List.not_mem_nil, or_false] at he
  rcases he with rfl | rfl | rfl | rfl | rfl | rfl | rfl | rfl | rfl | rfl <;> rfl

/-- Settles O18: a hart that issues runs `fetchStep`, which traps on every word that `decode` rejects; the worked words
decode by evaluation. -/
theorem otherWordsAreRejectedAndWorkedOnesDecode : Obligations.OtherWordsAreRejectedAndWorkedOnesDecode :=
  ⟨wordsOfOtherLengthsAreRejected, workedEncodingsDecode⟩

end Sys2Proof.Proofs.Encoding

namespace Sys2Proof.Proofs.Traps

open Sys2Proof.Machine Sys2Proof.Spec Sys2Proof.Laws

/-! ### The kinds of hart -/

theorem isMsg_of_isCtx {k : Nat} (h : isCtx k = true) : isMsg k = false := by
  rw [isCtx, decide_eq_true_eq] at h
  rw [isMsg, h]; rfl

theorem isMach_of_isCtx {k : Nat} (h : isCtx k = true) : isMach k = false := by
  rw [isCtx, decide_eq_true_eq] at h
  rw [isMach, h]; rfl

theorem isMsg_of_isMach {k : Nat} (h : isMach k = true) : isMsg k = false := by
  rw [isMach, decide_eq_true_eq] at h
  rw [isMsg, decide_eq_false_iff_not]
  omega

/-! ### Bits of the status registers (R321) -/

/-- Setting a bit clears it under a mask and then adds it. -/
theorem setBit_eq_mask {w : Nat} (x : BitVec w) (i : Nat) (b : Bool) :
    setBit x i b = (x &&& ~~~(1#w <<< i)) ||| (if b then 1#w <<< i else 0) := by
  cases b with
  | false => simp [setBit]
  | true =>
    ext j hj
    simp only [setBit, if_true, BitVec.getElem_or, BitVec.getElem_and, BitVec.getElem_not]
    cases x[j] <;> cases (1#w <<< i)[j] <;> rfl

/-- A word of which some bits are kept and others fixed is such a word after one more bit is set. -/
theorem setBit_masked {w : Nat} (x m c : BitVec w) (i : Nat) (b : Bool) :
    setBit ((x &&& m) ||| c) i b =
      (x &&& (m &&& ~~~(1#w <<< i))) ||| ((c &&& ~~~(1#w <<< i)) ||| (if b then 1#w <<< i else 0)) := by
  rw [setBit_eq_mask, BitVec.and_or_distrib_right, BitVec.and_assoc, BitVec.or_assoc]

/-- Trap entry replaces spie [5], sie [1], spp [8] and dh [9] of `sstatus` and keeps the rest (R322). -/
theorem sstatus_entered (st : Word) (sie fromS : Bool) :
    setBit (setBit (setBit (setBit st 5 sie) 1 false) 8 fromS) 9 true =
      (st &&& ~~~0x322) ||| (if sie then 0x20 else 0) ||| (if fromS then 0x100 else 0) ||| 0x200 := by
  rw [setBit_eq_mask st]
  simp only [setBit_masked, BitVec.or_assoc]
  congr 1
  cases sie <;> cases fromS <;> rfl

/-- `sret` replaces the same four bits of `sstatus` (R322). -/
theorem sstatus_returned (st : Word) (spie : Bool) :
    setBit (setBit (setBit (setBit st 1 spie) 5 true) 8 false) 9 false =
      (st &&& ~~~0x322) ||| (if spie then 0x2 else 0) ||| 0x20 := by
  rw [setBit_eq_mask st]
  simp only [setBit_masked, BitVec.or_assoc]
  congr 1
  cases spie <;> rfl

/-- Trap entry replaces mpie [7] and mie [3], all that `mstatus` keeps (R321, R322). -/
theorem mstatus_entered (st : Word) (mie : Bool) :
    legalMstatus (setBit (setBit st 7 mie) 3 false) = 0x1800 ||| (if mie then 0x80 else 0) := by
  simp only [legalMstatus, setBit_eq_mask st, setBit_masked, BitVec.and_or_distrib_right, BitVec.and_assoc]
  cases mie <;> simp

/-- `mret` replaces the same two bits of `mstatus` (R322). -/
theorem mstatus_returned (st : Word) (mpie : Bool) :
    legalMstatus (setBit (setBit st 3 mpie) 7 true) = 0x1880 ||| (if mpie then 0x8 else 0) := by
  simp only [legalMstatus, setBit_eq_mask st, setBit_masked, BitVec.and_or_distrib_right, BitVec.and_assoc]
  cases mpie <;> simp

/-! ### Trap entry (R322) -/

/-- The cause register: the cause in its low byte, bit 63 for an interrupt. -/
theorem causeWord_eq (intr : Bool) (cause : BitVec 8) :
    place 64 0 cause ||| place 64 63 (ofBool 1 intr) =
      (if intr then 0x8000000000000000 else 0) ||| cause.setWidth 64 := by
  rw [BitVec.or_comm]
  cases intr <;> simp [place, ofBool]

theorem enterTrap_context (h : Hart) (intr : Bool) (cause : BitVec 8) (tval : Word) :
    h.enterTrap false intr cause tval h.pc = sEntry h intr cause tval := by
  simp only [Hart.enterTrap, Bool.false_eq_true, if_false, sstatus_entered, causeWord_eq, decide_eq_true_eq]
  rfl

theorem enterTrap_machine (h : Hart) (intr : Bool) (cause : BitVec 8) (tval : Word) :
    h.enterTrap true intr cause tval h.pc = mEntry h intr cause tval := by
  simp only [Hart.enterTrap, if_true, mstatus_entered, causeWord_eq]
  rfl

/-! ### Exceptions (R320) -/

/-- Only a memory error (0xB0, 0xD5) does more than its hart's own exception (R348, R349, R355). -/
theorem readError_of_noMemoryError (s : State) (k : Nat) (t : Trap) (hB : t.cause ≠ 0xB0) (hD : t.cause ≠ 0xD5) :
    s.readError k t = s := by
  simp only [State.readError, if_neg hB, if_neg hD]

theorem machLineError_of_noMemoryError (s : State) (k : Nat) (t : Trap) (hB : t.cause ≠ 0xB0) (hD : t.cause ≠ 0xD5) :
    s.machLineError k t = s := by
  simp only [State.machLineError, if_neg hB, if_neg hD]

theorem takeTrap_context (s : State) (t : Trap) (hk : isCtx s.cur = true) (h9 : t.cause ≠ 0x09) (hB : t.cause ≠ 0xB0)
    (hD : t.cause ≠ 0xD5) : takeTrap t s = .next (s.setHart s.cur (sEntry s.me false t.cause t.tval)) := by
  simp only [takeTrap, isMsg_of_isCtx hk, isMach_of_isCtx hk, Bool.false_eq_true, if_false, Bool.or_eq_true,
    decide_eq_true_eq, h9, hD, or_self, readError_of_noMemoryError _ _ t hB hD, enterTrap_context]
  rfl

theorem takeTrap_machine (s : State) (t : Trap) (hk : isMach s.cur = true) (hB : t.cause ≠ 0xB0)
    (hD : t.cause ≠ 0xD5) : takeTrap t s = .next (s.setHart s.cur (mEntry s.me false t.cause t.tval)) := by
  simp only [takeTrap, isMsg_of_isMach hk, hk, Bool.false_eq_true, if_false, if_true, hD,
    machLineError_of_noMemoryError _ _ t hB hD, enterTrap_machine]
  rfl

theorem takeTrap_message (s : State) (t : Trap) (hk : isMsg s.cur = true) (hB : t.cause ≠ 0xB0)
    (hD : t.cause ≠ 0xD5) : takeTrap t s = .next (s.untilWindowRoom (s.endMessage (coreOf s.cur) 4 t.cause)) := by
  simp only [takeTrap, hk, if_true, readError_of_noMemoryError _ _ t hB hD]

theorem trapEntrySavesAndVectors : TrapEntrySavesAndVectors := fun s t =>
  ⟨takeTrap_context s t, takeTrap_machine s t, takeTrap_message s t⟩

/-! ### Returns (R105, R322) -/

/-- An instruction that ends by an update of its hart retires, when the counted hart becomes the one retired. -/
theorem count_modMe (s : State) (f : Hart → Hart) (h : Hart) (p : Word)
    (hf : f { s.me with instret := s.me.instret + 1, stall := none, park := none } =
      { h with pc := p, instret := h.instret + 1, stall := none, park := none }) :
    s.count.modMe f = retired s h p := by
  have counted : s.count.me = { s.me with instret := s.me.instret + 1, stall := none, park := none } := by
    rw [count_eq]
    split <;> exact setHart_me s _
  have cur : s.count.cur = s.cur := by rw [count_eq]; split <;> rfl
  show s.count.setHart s.count.cur (f s.count.me) = _
  rw [counted, cur, hf, count_eq, retired]
  split
  · rw [setCore_setHart, setHart_setHart]
  · exact setHart_setHart ..

theorem exec_sret (s : State) (hk : isCtx s.cur = true) (hm : s.me.mode = .s) :
    exec .sret s = .next (retired s
      { s.me with
        mode := if s.me.sc.sstatus.getLsbD 8 then .s else .u
        sc := { s.me.sc with
          sstatus := (s.me.sc.sstatus &&& ~~~0x322) ||| (if s.me.sc.sstatus.getLsbD 5 then 0x2 else 0) ||| 0x20 } }
      s.me.sc.sepc) := by
  show execSret s = _
  rw [execSret, inS, hk, hm, if_pos (by decide)]
  congr 1
  refine count_modMe s Hart.sret _ _ ?_
  simp only [Hart.sret, sstatus_returned]
  rfl

theorem exec_sret_illegal (s : State) (h : ¬ (isCtx s.cur = true ∧ s.me.mode = .s)) :
    exec .sret s = takeTrap (illegalTrap s) s := by
  show execSret s = _
  rw [execSret, inS, if_neg (by simpa using h)]
  rfl

theorem exec_mret (s : State) (hk : isMach s.cur = true) :
    exec .mret s = .next (retired s
      { s.me with mc := { s.me.mc with mstatus := 0x1880 ||| (if s.me.mc.mstatus.getLsbD 7 then 0x8 else 0) } }
      s.me.mc.mepc) := by
  show execMret s = _
  rw [execMret, if_pos hk]
  congr 1
  refine count_modMe s Hart.mret _ _ ?_
  simp only [Hart.mret, mstatus_returned]
  rfl

theorem exec_mret_illegal (s : State) (h : isMach s.cur = false) : exec .mret s = takeTrap (illegalTrap s) s := by
  show execMret s = _
  rw [execMret, h]
  rfl

theorem returnsRestoreWhatTheTrapSaved : ReturnsRestoreWhatTheTrapSaved := fun s =>
  ⟨exec_sret s, exec_mret s, exec_sret_illegal s, exec_mret_illegal s⟩

/-- Settles O8: `enterTrap` is the entry the spec gives for either kind of hart, and a return is an update of the
counted hart, so that it retires. -/
theorem trapsAreEnteredAndLeft : Obligations.TrapsAreEnteredAndLeft :=
  ⟨trapEntrySavesAndVectors, returnsRestoreWhatTheTrapSaved⟩

end Sys2Proof.Proofs.Traps
